-- ==== Sys2Proof/Word.lean ====
section
/-! DEFINITION. The word types of the FT642 block model: bytes, the index types of the numbered units (R13), and nothing else. -/

namespace Sys2Proof

/-- One byte. -/
abbrev Byte := BitVec 8
/-- A register word: every register is 32 bits wide (the registers section of 00_scope). -/
abbrev Word := BitVec 32
/-- A 64-bit word: Brew instruction words, scalar registers, buzz operands. -/
abbrev DWord := BitVec 64
/-- A coordinate word: c_d in bits [3d+2:3d] (R14). -/
abbrev Coord := BitVec 18
/-- Combs C0 to C3 (R13). -/
abbrev CombId := Fin 4
/-- Links L00 to L41 (R13). -/
abbrev LinkId := Fin 42
/-- Partitions P000 to P127 (R13). -/
abbrev PartId := Fin 128
/-- Host ports H0 and H1 (R13). -/
abbrev PortId := Fin 2
/-- Dimensions D0 to D5 (R13), and their link groups. -/
abbrev DimId := Fin 6
/-- The four HBM stacks (R24). -/
abbrev StackId := Fin 4
/-- A virtual function of a host port: index v stands for VF number v + 1, which serves partition P(v) (R296). -/
abbrev VfId := Fin 128
/-- A tensor descriptor register TD0 to TD63. -/
abbrev TdReg := Fin 64
/-- A scalar register S0 to S31. -/
abbrev SReg := Fin 32
/-- A predicate register Q0 to Q7. -/
abbrev QReg := Fin 8
/-- A loop counter L0 to L3. -/
abbrev LReg := Fin 4

end Sys2Proof
end

