-- ==== Sys2Proof/Syntax.lean ====
section
/-! DEFINITION. The commands of the FT642 block: one constructor of `Instr` per row of the spec's table of operations and
events, with the operands a row needs. What lies outside the chip (client memory, the flash, the partner chips, the
board) reaches the block through these operands. -/

namespace Sys2Proof

/-- The answer of the outside world to a read of client memory made by the chip (R319): the bytes, or a failed read. -/
inductive HostRead where
  | ok (bytes : List Byte)
  | failed
deriving DecidableEq, Repr

/-- The predicate of a Brew instruction: fields pneg and pq (R269, R270). -/
structure Pr where
  neg : Bool
  q : QReg
deriving DecidableEq, Repr

/-- The second source of a two-operand scalar instruction: mod [0] chooses S[rc] or the immediate (R272, R290). -/
inductive SrcB where
  | reg (s : SReg)
  | imm (v : BitVec 32)
deriving DecidableEq, Repr

/-- The count source of LSET: mod 0 immediate, mod 1 register (R275). -/
inductive LSrc where
  | imm (v : BitVec 32)
  | reg (s : SReg)
deriving DecidableEq, Repr

/-- The variants of TVIEW (R277). -/
inductive TviewMode where
  | range (s : SReg) (n : BitVec 32)
  | rowlen (v : BitVec 16)
  | region (r : BitVec 4)
deriving DecidableEq, Repr

/-- Infuser entry formats of the cvt field (R282). -/
inductive Cvt where
  | b16 | h16 | e4m3 | e5m2
deriving DecidableEq, Repr

/-- Element-wise stage of the output configuration (R286). -/
inductive Ew where
  | none
  | add (z : TdReg)
  | mul (z : TdReg)
deriving DecidableEq, Repr

/-- Activation stage of the output configuration (R286): clamp takes lo from S[lo] and hi from S[lo + 1]. -/
inductive Act where
  | none
  | clamp (lo : Fin 31)
  | sign
  | abs
deriving DecidableEq, Repr

/-- The output configuration of MMA and MMAG (R286). -/
structure OutCfg where
  scale : Option SReg
  bias : Option TdReg
  ew : Ew
  act : Act
deriving DecidableEq, Repr

/-- Reads of client memory that MMA or MMAG makes for operands in region 0x0 or 0x1 (R319). -/
structure MmaReads where
  stream : HostRead
  weights : HostRead
  bias : HostRead
  z : HostRead
deriving DecidableEq, Repr

/-- The comparisons of SCMP (R291). -/
inductive Cond where
  | eq | ne | lt | le | ltu | leu | flt | fle
deriving DecidableEq, Repr

/-- The operators of SRED (R293). -/
inductive RedOp where
  | sumW32 | sumW64 | sumF32 | max8 | max16 | max32 | max64
deriving DecidableEq, Repr

/-- An error that a read of one 32-byte HBM sector meets (R401): the sector index, and whether it is uncorrectable. DESIGN CHOICE (log entry 84): the
class is the outside's, and no error is miscorrected or goes undetected. -/
structure MemErr where
  sector : Nat
  ue : Bool
deriving DecidableEq, Repr

/-- What the decoder of a link has found (R228) since it last told: the symbols that it corrected, the codewords that it could not correct, and
the slots that failed CRC-19 after decoding, of whatever kind the slots of those trains were. -/
structure Fec where
  corr : Nat
  uncorr : Nat
  crc : Nat
deriving DecidableEq, Repr

/-- Flits of one message of the sequenced space as they arrive on a link, in order (R203, R209, R210): the number of the first of them, how many
flits of their message came before it (0: it is the head flit, whose body is `head`), the bytes of the body flits among them, and, where a slot
failed its checks, the place of the first that did. -/
structure RxMsg where
  seq : BitVec 12
  skip : Nat
  failAt : Option Nat
  fec : Fec
  head : List Byte
  body : List Byte
deriving DecidableEq, Repr

/-- What a fault of the hardware changes in one addition (R171, R172): bits of the result and, from bit w on, of the carry, in an integer
adder or in the FP32 adder's addition of 51-bit significands; bits of the FP32 adder's rounded significand and its carry; or one copy of a
duplicated part of the FP32 adder (exponent logic, alignment shifter, normalisation shifter). -/
inductive Hit where
  | sum (mask : BitVec 65)
  | round (mask : BitVec 25)
  | copy (part : Fin 3)
deriving DecidableEq, Repr

/-- A faulty addition that a message brings about (R169, R171): in the ingress adder or in one of the four combine adders; the element of the
message's frame or operands, and the addition of the line (R164) that is struck, numbered from 0 level by level. -/
structure Strike where
  combine : Option (Fin 4)
  elem : Nat
  node : Nat
  hit : Hit
deriving DecidableEq, Repr

/-- A buzz message as it arrives on a link (R210): whether the raw check passes (accepted early), whether the check of the
decoded bits passes, what the decoder found where it has run (R228), its two flit bodies, and the fault, if any, that strikes an addition of a
buzz sum which takes it (R171). -/
structure BuzzRx where
  raw : Bool
  ok : Bool
  fec : Fec
  head : List Byte
  body : List Byte
  strike : Option Strike
deriving DecidableEq, Repr

/-- A fault of the hardware that strikes while a bulk message is added (R171, R407). -/
inductive AddFault where
  | none
  | adder (s : Strike)
  /-- an SRAM error in the Honeycomb word that is read -/
  | sram (ue : Bool)
deriving DecidableEq, Repr

/-- Where a remap record comes from (R190): the MSP burst of R373, or the management tunnel of a link. -/
inductive RemapSrc where
  | msp (bytes : List Byte)
  | tunnel (l : LinkId) (rx : RxMsg)
deriving DecidableEq, Repr

/-- Target of a withdrawn request (R419). -/
inductive CtrlTarget where
  | comb (c : CombId)
  | link (l : LinkId)
deriving DecidableEq, Repr

/-- The three registers named PWR_COMB_CFG(c) and PWR_LNK_CFG(d) (R435). -/
inductive PwrField where
  | floor | warm | cold
deriving DecidableEq, Repr

/-- A read of a submission-ring descriptor (R310). -/
inductive DescRead where
  | ok (bytes : List Byte)
  | failed
deriving DecidableEq, Repr

/-- Why an open-doorbell write is ignored (R301). -/
inductive OpenBad where
  | width
  | msgByte
  | readFailed
deriving DecidableEq, Repr

/-- A unit with a power state of its own (R385). -/
inductive PwrUnit where
  | comb (c : CombId)
  | group (d : DimId)
deriving DecidableEq, Repr

/-- What the comb's own checks found (R331, R407). -/
inductive CombCause where
  | sramUncorrectable
  | sramCorrectable
  | parity
deriving DecidableEq, Repr

/-- What the scrubber's read of its next sector returns (R401, R405). -/
inductive ScrubResult where
  | clean
  | correctable
  | uncorrectable
deriving DecidableEq, Repr

/-- Where select rises in a READ (R366): after whole registers; in the command or address phase; or `k + 1` bytes into a further register. -/
inductive MspCut where
  | none
  | early
  | inside (k : Fin 3)
deriving DecidableEq, Repr

/-- One command: an operation of the Brew sequencers, a transaction of a port, or an event (the spec's table). -/
inductive Instr where
  -- Brew instructions (13_brew_reference), on comb `c`
  | nop (c : CombId) (p : Pr)
  | fence (c : CombId)
  | br (c : CombId) (p : Pr) (target : BitVec 15)
  | loop (c : CombId) (k : LReg) (target : BitVec 15)
  | lset (c : CombId) (p : Pr) (k : LReg) (src : LSrc)
  | wake (c : CombId) (p : Pr) (mask : BitVec 6)
  | tld (c : CombId) (p : Pr) (td : TdReg) (idx : BitVec 16)
  | tldx (c : CombId) (p : Pr) (td : TdReg) (sb : SReg)
  | tview (c : CombId) (p : Pr) (td : TdReg) (src : TdReg) (mode : TviewMode)
  | tinfo (c : CombId) (p : Pr) (sd : SReg) (td : TdReg) (sel : Fin 8)
  | tcopy (c : CombId) (p : Pr) (dst : TdReg) (src : TdReg) (rd : HostRead) (errs : List MemErr)
  | steep (c : CombId) (p : Pr) (td : TdReg) (g : List HostRead) (errs : List MemErr)
  | xchg (c : CombId) (p : Pr) (td : TdReg) (g : List HostRead) (errs : List MemErr)
  | xstat (c : CombId) (p : Pr) (dst : TdReg) (src : TdReg) (mode : Fin 4) (errs : List MemErr)
  | score (c : CombId) (p : Pr) (sd : SReg) (td : TdReg) (sb : SReg)
  | bsel (c : CombId) (p : Pr) (qd : QReg) (td : TdReg) (sb : SReg)
  | cbq (c : CombId) (p : Pr) (sd : SReg) (td : TdReg) (sb : SReg) (errs : List MemErr)
  | mma (c : CombId) (p : Pr) (dst : TdReg) (stream : TdReg) (weights : TdReg) (cvt : Cvt) (cfg : OutCfg) (rd : MmaReads) (errs : List MemErr)
  | mmag (c : CombId) (p : Pr) (dst : TdReg) (stream : TdReg) (weights : TdReg) (cvt : Cvt) (cfg : OutCfg) (rd : MmaReads) (errs : List MemErr)
  | orth (c : CombId) (p : Pr) (dst : TdReg) (src : TdReg) (rd : HostRead) (errs : List MemErr)
  | sli (c : CombId) (p : Pr) (sd : SReg) (imm : BitVec 32)
  | slih (c : CombId) (p : Pr) (sd : SReg) (imm : BitVec 32)
  | smov (c : CombId) (p : Pr) (sd : SReg) (sa : SReg)
  | sadd (c : CombId) (p : Pr) (sd : SReg) (sa : SReg) (b : SrcB)
  | ssub (c : CombId) (p : Pr) (sd : SReg) (sa : SReg) (b : SrcB)
  | smul (c : CombId) (p : Pr) (sd : SReg) (sa : SReg) (b : SrcB)
  | sdiv (c : CombId) (p : Pr) (sd : SReg) (sa : SReg) (b : SrcB)
  | sand (c : CombId) (p : Pr) (sd : SReg) (sa : SReg) (b : SrcB)
  | sor (c : CombId) (p : Pr) (sd : SReg) (sa : SReg) (b : SrcB)
  | sxor (c : CombId) (p : Pr) (sd : SReg) (sa : SReg) (b : SrcB)
  | sshl (c : CombId) (p : Pr) (sd : SReg) (sa : SReg) (b : SrcB)
  | sshr (c : CombId) (p : Pr) (sd : SReg) (sa : SReg) (b : SrcB)
  | ssra (c : CombId) (p : Pr) (sd : SReg) (sa : SReg) (b : SrcB)
  | fadd (c : CombId) (p : Pr) (sd : SReg) (sa : SReg) (b : SrcB)
  | fsub (c : CombId) (p : Pr) (sd : SReg) (sa : SReg) (b : SrcB)
  | fmul (c : CombId) (p : Pr) (sd : SReg) (sa : SReg) (b : SrcB)
  | fdiv (c : CombId) (p : Pr) (sd : SReg) (sa : SReg) (b : SrcB)
  | fmax (c : CombId) (p : Pr) (sd : SReg) (sa : SReg) (b : SrcB)
  | fmin (c : CombId) (p : Pr) (sd : SReg) (sa : SReg) (b : SrcB)
  | fsqrt (c : CombId) (p : Pr) (sd : SReg) (sa : SReg)
  | fcvti (c : CombId) (p : Pr) (sd : SReg) (sa : SReg)
  | icvtf (c : CombId) (p : Pr) (sd : SReg) (sa : SReg)
  | scmp (c : CombId) (p : Pr) (qd : QReg) (sa : SReg) (sb : SReg) (cond : Cond)
  | plog (c : CombId) (p : Pr) (qd : QReg) (qa : QReg) (qb : QReg) (table : BitVec 4)
  | barr (c : CombId) (p : Pr)
  | sred (c : CombId) (p : Pr) (sd : SReg) (sa : SReg) (op : RedOp) (countM1 : Fin 8)
  | sout (c : CombId) (p : Pr) (sa : SReg) (idx : Fin 64)
  -- Management serial port transactions (17_management_port)
  | mspStatus (lanes : BitVec 4) (sent : Fin 6)
  | mspRead (lanes : BitVec 4) (addr : BitVec 32) (count : Nat) (notReady : Nat) (pace : List Nat) (cut : MspCut)
  | mspWrite (lanes : BitVec 4) (addr : BitVec 32) (data : List Byte) (early : Bool)
  | mspLogin (lanes : BitVec 4) (data : List Byte)
  | mspLogout (lanes : BitVec 4)
  | mspInvalidOpcode (cmd : Byte)
  -- Register writes and reads with the behaviour the table gives them (20_registers)
  | registerWrite (addr : BitVec 32) (v : BitVec 32)
  | fuseBurnPassword
  | fuseBurnAnchor
  | fuseBurnComplete
  | remapAssume (src : RemapSrc)
  | remapRelease (src : RemapSrc)
  | remapExclude (src : RemapSrc)
  | cmbReleaseRequest (c : CombId)
  | cmbReturnRequest (c : CombId)
  | lnkTakeOutRequest (l : LinkId)
  | lnkBringBackRequest (l : LinkId)
  | ctrlRequestWithdraw (t : CtrlTarget)
  | prtLinkWeightWrite (p : PartId) (v : BitVec 32)
  | prtCollTimeoutWrite (p : PartId) (v : BitVec 32)
  | pwrCombCfgWrite (c : CombId) (f : PwrField) (v : BitVec 32)
  | pwrLnkCfgWrite (d : DimId) (f : PwrField) (v : BitVec 32)
  | pwrRstReq (v : BitVec 32)
  | evlAckWrite (v : BitVec 32)
  | evlSelWrite (v : BitVec 32)
  | evlDataRead (err : Option Bool)
  | nvmCtrlWrite (v : BitVec 32)
  | hbmScrubHoursWrite (v : BitVec 32)
  | lnkRelayWeightWrite (l : LinkId) (v : BitVec 32)
  | mspSessionIdleExpiry
  | mspLoginLockoutExpiry
  -- Host ports, clients and sessions (14_host_sessions)
  | hello (h : PortId) (vf : VfId) (msg : List Byte)
  | prove (h : PortId) (vf : VfId) (msg : List Byte)
  | openDoorbellIgnored (h : PortId) (vf : VfId) (why : OpenBad)
  | handshakeExpiry (ctx : Nat)
  | openLockoutExpiry (h : PortId) (vf : VfId)
  | doorbell (h : PortId) (vf : VfId) (ctx : Nat) (width : Nat) (v : BitVec 64)
  | claim (ctx : Nat) (d : DescRead)
  | release (ctx : Nat) (d : DescRead)
  | post (ctx : Nat) (d : DescRead)
  | parcel (ctx : Nat) (d : DescRead) (frame : HostRead)
  | parcelReceive (l : LinkId) (rx : RxMsg)
  | parcelNoRouteTimeout (ctx : Nat)
  | cbload (ctx : Nat) (d : DescRead) (data : HostRead)
  | codebookHashComplete (p : PartId) (errs : List MemErr)
  | spillAdd (ctx : Nat) (d : DescRead)
  | spillRemove (ctx : Nat) (d : DescRead) (recs : List HostRead) (errs : List MemErr)
  | close (ctx : Nat) (d : DescRead)
  | functionLevelResetVf (h : PortId) (vf : VfId)
  | functionLevelResetPf (h : PortId)
  | hotReset (h : PortId)
  | fundamentalReset (h : PortId)
  | vfEnable (h : PortId) (enable : Bool) (numVfs : BitVec 16)
  | pcieLinkDown (h : PortId)
  -- Steps and methods (05 to 08, 11 to 13, 15)
  | stepStart (p : PartId) (errs : List MemErr)
  | membershipAgreementComplete (p : PartId)
  | membershipAgreementRetry (p : PartId)
  | digestAgreementComplete (p : PartId) (errs : List MemErr)
  | selectBlocks (p : PartId) (t : BitVec 16)
  | quantisePack (p : PartId) (t : BitVec 16) (errs : List MemErr)
  | unpackDequantise (p : PartId) (t : BitVec 16) (sram : Option Bool)
  | writeResidual (p : PartId) (t : BitVec 16) (errs : List MemErr)
  | deliverResult (p : PartId) (t : BitVec 16)
  | lowrankOrthogonalise (p : PartId) (t : BitVec 16) (errs : List MemErr) (sram : Option Bool)
  | codebookDecode (p : PartId) (t : BitVec 16) (errs : List MemErr) (sram : Option Bool)
  | gatheredRowTake (c : CombId) (row : Nat)
  | roundAllocate (p : PartId) (opidx : BitVec 16)
  | capReportSend (p : PartId) (opidx : BitVec 16)
  | collectiveTimeout (p : PartId) (opidx : BitVec 16)
  | settlePeriodEnd (p : PartId)
  -- Fabric messages (10, 11)
  | buzzBarrier (l : LinkId) (m : BuzzRx)
  | buzzSumW32 (l : LinkId) (m : BuzzRx)
  | buzzSumW64 (l : LinkId) (m : BuzzRx)
  | buzzSumF32 (l : LinkId) (m : BuzzRx)
  | buzzMax8 (l : LinkId) (m : BuzzRx)
  | buzzMax16 (l : LinkId) (m : BuzzRx)
  | buzzMax32 (l : LinkId) (m : BuzzRx)
  | buzzMax64 (l : LinkId) (m : BuzzRx)
  | buzzCapReport (l : LinkId) (m : BuzzRx)
  | buzzAbort (l : LinkId) (m : BuzzRx)
  | buzzConfirm (l : LinkId) (bseq : BitVec 12) (fec : Fec)
  | bulkMessage (l : LinkId) (rx : RxMsg) (fault : AddFault)
  | ingressWaitEnd (l : LinkId)
  -- Links (10_chadudra_link)
  | linkControlFlit (l : LinkId) (body : List Byte) (fec : Fec)
  | slotFill (l : LinkId)
  | heartbeatDue (l : LinkId)
  | nakRepeatTimeout (l : LinkId) (buzz : Bool)
  | resendTimeout (l : LinkId) (buzz : Bool)
  | resendLimitExceeded (l : LinkId) (buzz : Bool)
  | heartbeatLoss (l : LinkId)
  | alignmentLoss (l : LinkId) (fec : Fec)
  | laneLoss (l : LinkId)
  | tunnelGenerationReport (l : LinkId) (rx : RxMsg)
  | trainingDetect (l : LinkId)
  | trainingEqualiseDone (l : LinkId)
  | trainingLockFlit (l : LinkId) (good : Bool) (body : List Byte) (fec : Fec)
  | trainingIdentifyFlit (l : LinkId) (body : List Byte) (arrival : BitVec 32) (fec : Fec)
  | trainingGrantFlit (l : LinkId) (body : List Byte) (fec : Fec)
  | trainingTimeout (l : LinkId)
  | trainingRetry (l : LinkId)
  | linkReady (l : LinkId)
  | linkEnterService (l : LinkId)
  -- Power (18_kettle_power)
  | combIdleTimerExpiry (c : CombId)
  | powerEntryComplete (u : PwrUnit)
  | wakeComplete (u : PwrUnit)
  | linkSimmerEntry (l : LinkId)
  | linkSimmerExit (l : LinkId)
  | linkGroupIdleTimerExpiry (d : DimId)
  | linkPark (l : LinkId)
  | linkWake (l : LinkId)
  | wakeHintHoldExpiry (d : DimId)
  | combFailure (c : CombId) (cause : CombCause)
  | combWatchdog (c : CombId)
  | combReturnWakeDone (c : CombId) (selfCheckOk : Bool)
  | coreRefclkLoss
  | lnkRefclkLoss
  | pcieRefclkLoss (h : PortId)
  -- Resets and start-up (16, 18)
  | kettlePowerOn
  | kettleSelfWatchdog
  | chipRstN (low : Bool)
  | railFault
  | startUpBegin (crd : BitVec 18) (bootMode : Bool)
  | headerReadDone (hdr : List Byte)
  | coreInitDone (stackFailed : Vector Bool 4)
  | imageStreamDone (image : List Byte)
  | signatureVerifyDone
  | contentVerifyDone
  | layoutDone
  | programFetch (p : PartId) (bytes : List Byte)
  -- Memory service (19_errors_service)
  | scrubSectorRead (r : ScrubResult) (progOf : Option PartId)
  | hbmTempRead (k : StackId) (temp : BitVec 8)
  | hbmStackErrorLimit (k : StackId)
  | hbmReadTimeout (k : StackId)
  | hbmTrainingLoss (k : StackId)
  | dieSensorRead (temps : Vector Int 8)
  | mirrorAudit (late : List (BitVec 32))
  | pageOut (p : PartId) (errs : List MemErr)
  | pageOutReadback (p : PartId) (hdr : HostRead) (errs : List MemErr)
  | pageInComplete (p : PartId) (rec : HostRead) (errs : List MemErr)
  -- Boundary scan (21_package_electrical)
  | tapReset
  | extest
  | samplePreload (pins : BitVec 78) (shift : BitVec 78)
  | clamp
  | highz
  | bypass
  | pcieLinkUp (h : PortId) (width : Nat) (speed : Nat) (flit : Bool)
deriving DecidableEq, Repr

end Sys2Proof
end

