-- ==== Sys2Proof/Decode.lean ====
section
/-! DEFINITION. No row of the spec's table of operations and events gives bits: its rows are events, so no word spells a command. -/

namespace Sys2Proof
open Sys2Proof

/-- The command that a word spells by the table's bits: none, for every word. -/
def decodeTableWord (_nbits _w : Nat) : Option Instr := none

end Sys2Proof
end

