-- ==== Sys2Proof/Machine/Bits.lean ====
section
/-! DEFINITION. Byte order (R7), bit fields and the cyclic checks of the links: CRC-32 (R206), CRC-19 and CRC-8 (R201). -/

namespace Sys2Proof.Machine
open Sys2Proof

/-- A byte from a number, its low eight bits. -/
def byteOf (n : Nat) : Byte := BitVec.ofNat 8 n

/-- The number that bytes spell, least significant first (R7). -/
def leNat : List Byte → Nat
  | [] => 0
  | b :: bs => b.toNat + 256 * leNat bs

/-- The `k` bytes of a number, least significant first (R7). -/
def leBytes : Nat → Nat → List Byte
  | 0, _ => []
  | k + 1, n => byteOf n :: leBytes k (n / 256)

/-- The number that bytes spell, most significant first (the standards that R7 names). -/
def beNat (bs : List Byte) : Nat := bs.foldl (fun a b => a * 256 + b.toNat) 0

/-- The `k` bytes of a number, most significant first. -/
def beBytes (k n : Nat) : List Byte := (leBytes k n).reverse

/-- Bytes `off` to `off + len - 1`; bytes past the end of the list are absent. -/
def slice (bs : List Byte) (off len : Nat) : List Byte := (bs.drop off).take len

/-- The `k`-byte little-endian field at `off`; absent bytes read 0. -/
def field (bs : List Byte) (off k : Nat) : Nat := leNat (slice bs off k)

/-- All the bytes are 0x00. -/
def allZero (bs : List Byte) : Bool := bs.all (· == 0)

/-- Zero bytes. -/
def zeros (k : Nat) : List Byte := List.replicate k 0

/-- Bytes brought to length `k`: cut, or filled with 0x00 at the end. -/
def padTo (k : Nat) (bs : List Byte) : List Byte := bs.take k ++ zeros (k - bs.length)

/-- Bits `[hi:lo]` of a number. -/
def bitsOf (n hi lo : Nat) : Nat := (n >>> lo) % 2 ^ (hi + 1 - lo)

/-- Bit `i` of a number. -/
def bitAt (n i : Nat) : Bool := (n >>> i) % 2 == 1

/-- 1 for true. -/
def b2n (b : Bool) : Nat := if b then 1 else 0

/-- `a / b` rounded up. -/
def ceilDiv (a b : Nat) : Nat := (a + b - 1) / b

/-- `a` rounded up to a multiple of `b`. -/
def roundUp (a b : Nat) : Nat := ceilDiv a b * b

/-- The list cut into pieces of `k` elements, the last perhaps shorter. `fuel` bounds the pieces. -/
def chunksAux {α : Type} (k : Nat) : Nat → List α → List (List α)
  | 0, _ => []
  | fuel + 1, l => if l.isEmpty then [] else l.take k :: chunksAux k fuel (l.drop k)

/-- The list cut into pieces of `k` elements, the last perhaps shorter. -/
def chunks {α : Type} (k : Nat) (l : List α) : List (List α) := chunksAux k l.length l

/-- The two's complement reading of the low `w` bits. -/
def signedOf (w n : Nat) : Int :=
  let m := n % 2 ^ w
  if m < 2 ^ (w - 1) then (m : Int) else (m : Int) - (2 ^ w : Nat)

/-- The two's complement code of an integer in `w` bits. -/
def codeOf (w : Nat) (i : Int) : Nat := (i % ((2 ^ w : Nat) : Int)).toNat

/-- One step of a check register that shifts right: the CRC-32 of R206 with its bits reversed. -/
def crc32Bit (reg : Nat) (b : Bool) : Nat :=
  let fb := xor b (bitAt reg 0)
  let r := reg >>> 1
  if fb then r ^^^ 0xEDB88320 else r

/-- The bits of a byte, bit 0 first. -/
def byteBits (b : Byte) : List Bool := (List.range 8).map (bitAt b.toNat)

/-- The CRC-32 of R206 over the bytes. -/
def crc32 (bs : List Byte) : Nat :=
  (bs.flatMap byteBits).foldl crc32Bit 0xFFFFFFFF ^^^ 0xFFFFFFFF

/-- One step of a check register of `w` bits that shifts left (R201). -/
def crcLeftBit (w poly reg : Nat) (b : Bool) : Nat :=
  let fb := xor b (bitAt reg (w - 1))
  let r := (reg * 2) % 2 ^ w
  if fb then r ^^^ poly else r

/-- The CRC-19 of a slot (R201): tag bits 19 to 22, then the body. -/
def crc19 (first : Bool) (kind : Nat) (body : List Byte) : Nat :=
  ((first :: (List.range 3).map (bitAt kind)) ++ body.flatMap byteBits).foldl (crcLeftBit 19 0x4C125) 0x7FFFF ^^^ 0x7FFFF

/-- The CRC-8 of a train header over its bits 8 to 19, the sequence base (R201). -/
def crc8 (base : Nat) : Nat := ((List.range 12).map (bitAt base)).foldl (crcLeftBit 8 0x07) 0xFF

end Sys2Proof.Machine
end

