-- ==== Sys2Proof/Machine/Float.lean ====
section
/-! DEFINITION. Exact values and the one rounding of R58 and R59: the float formats of R62 and R63, and their arithmetic by R61.
Every finite value of every format of the FT642 is a whole multiple of 2^-149, the least subnormal of F32. -/

namespace Sys2Proof.Machine
open Sys2Proof

/-- A value as arithmetic sees it (R61): `fin neg m` is m × 2^-149 with a sign, zeros keeping theirs. -/
inductive FVal where
  | nan
  | inf (neg : Bool)
  | fin (neg : Bool) (m : Nat)
deriving DecidableEq, Repr

/-- What the all-ones exponent field holds (R62). -/
inductive Special where
  /-- infinity at fraction 0, NaN elsewhere -/
  | ieee
  /-- NaN only at the all-ones fraction -/
  | e4m3
  /-- no special code -/
  | none
deriving DecidableEq, Repr

/-- A float format of R62. -/
structure FFmt where
  frac : Nat
  expo : Nat
  bias : Nat
  special : Special
  nanCode : Nat
deriving DecidableEq, Repr

def fmtF32 : FFmt := ⟨23, 8, 127, .ieee, 0x7FC00000⟩
def fmtB16 : FFmt := ⟨7, 8, 127, .ieee, 0x7FC0⟩
def fmtH16 : FFmt := ⟨10, 5, 15, .ieee, 0x7E00⟩
def fmtE4M3 : FFmt := ⟨3, 4, 7, .e4m3, 0x7F⟩
def fmtE5M2 : FFmt := ⟨2, 5, 15, .ieee, 0x7E⟩
def fmtE2M1 : FFmt := ⟨1, 2, 1, .none, 0⟩
def fmtP20 : FFmt := ⟨11, 8, 127, .ieee, 0x7FC00⟩

/-- The exponent of the format's least quantum, in units of 2^-149. -/
def FFmt.low (f : FFmt) : Nat := 150 - f.bias - f.frac

/-- The sign bit's place value. -/
def FFmt.signBit (f : FFmt) : Nat := 2 ^ (f.frac + f.expo)

/-- The code of an infinity, where the format has one. -/
def FFmt.infCode (f : FFmt) : Nat := (2 ^ f.expo - 1) * 2 ^ f.frac

/-- The code of the largest finite magnitude (R62). -/
def FFmt.maxCode (f : FFmt) : Nat :=
  match f.special with
  | .ieee => f.infCode - 1
  | .e4m3 => f.signBit - 2
  | .none => f.signBit - 1

/-- The value of a code (R62); `flush` reads every code with a zero exponent field as zero (R63). -/
def FFmt.decode (f : FFmt) (flush : Bool) (c : Nat) : FVal :=
  let fr := c % 2 ^ f.frac
  let e := (c >>> f.frac) % 2 ^ f.expo
  let s := bitAt c (f.frac + f.expo)
  if f.special = .ieee ∧ e = 2 ^ f.expo - 1 then
    if fr = 0 then .inf s else .nan
  else if f.special = .e4m3 ∧ e = 2 ^ f.expo - 1 ∧ fr = 2 ^ f.frac - 1 then .nan
  else if e = 0 then .fin s (if flush then 0 else fr * 2 ^ f.low)
  else .fin s ((2 ^ f.frac + fr) * 2 ^ (e - 1) * 2 ^ f.low)

/-- The quotient rounded to nearest, ties to even (R59). -/
def rne (num den : Nat) : Nat :=
  let q := num / den
  let r := num % den
  if 2 * r < den then q else if 2 * r > den then q + 1 else q + q % 2

/-- The magnitude code of num/den × 2^-149 rounded once (R58, R59): it may lie beyond the largest finite code. -/
def FFmt.roundMag (f : FFmt) (num den : Nat) : Nat :=
  let d0 := den * 2 ^ f.low
  let n0 := num / d0
  let k := if n0 < 2 ^ (f.frac + 1) then 0 else Nat.log2 n0 - f.frac
  rne num (d0 * 2 ^ k) + k * 2 ^ f.frac

/-- What a conversion does beyond the largest finite value, and to an infinity (R74). -/
inductive Beyond where
  | toInf
  | saturate
deriving DecidableEq, Repr

/-- A code and whether it is a saturation by R75. -/
structure Conv where
  code : Nat
  sat : Bool
deriving DecidableEq, Repr

/-- num/den × 2^-149 with a sign, as a code of the format (R58, R59, R74). -/
def FFmt.ofRat (f : FFmt) (b : Beyond) (neg : Bool) (num den : Nat) : Conv :=
  let c := f.roundMag num den
  let s := if neg then f.signBit else 0
  if c ≤ f.maxCode then ⟨s + c, false⟩
  else match b with
    | .toInf => ⟨s + f.infCode, false⟩
    | .saturate => ⟨s + f.maxCode, true⟩

/-- A value as a code of the format (R74): an infinity stays where the format has one, and is NaN in E4M3. The E2M1 cases are
not reached (R74); they give a zero and the largest magnitude. -/
def FFmt.ofVal (f : FFmt) (b : Beyond) : FVal → Conv
  | .nan => ⟨f.nanCode, false⟩
  | .inf n => match f.special with
    | .ieee => ⟨(if n then f.signBit else 0) + f.infCode, false⟩
    | .e4m3 => ⟨f.nanCode, false⟩
    | .none => ⟨(if n then f.signBit else 0) + f.maxCode, true⟩
  | .fin n m => f.ofRat b n m 1

/-- The value of an F32 code. -/
def f32Val (c : Word) : FVal := fmtF32.decode false c.toNat
/-- A value rounded into F32; NaN is canonical (R61). -/
def f32Of (v : FVal) : Word := BitVec.ofNat 32 (fmtF32.ofVal .toInf v).code
/-- num/den × 2^-149 rounded into F32. -/
def f32OfRat (neg : Bool) (num den : Nat) : Word := BitVec.ofNat 32 (fmtF32.ofRat .toInf neg num den).code
def f32Nan : Word := 0x7FC00000#32
def f32Zero : Word := 0#32

/-- A whole number of 2^-149 with its sign. -/
def fromInt (i : Int) : FVal := .fin (i < 0) i.natAbs

/-- The sign and magnitude as an integer. -/
def toInt (neg : Bool) (m : Nat) : Int := if neg then -(m : Int) else m

/-- The exact sum (R61): infinities of opposite sign give NaN; an exact zero is +0 unless both operands are −0. -/
def FVal.add : FVal → FVal → FVal
  | .nan, _ => .nan
  | _, .nan => .nan
  | .inf a, .inf b => if a = b then .inf a else .nan
  | .inf a, .fin _ _ => .inf a
  | .fin _ _, .inf b => .inf b
  | .fin a m, .fin b n =>
    let t := toInt a m + toInt b n
    if t = 0 then .fin (a && b && m == 0 && n == 0) 0 else fromInt t

/-- The value with the other sign. -/
def FVal.neg : FVal → FVal
  | .nan => .nan
  | .inf a => .inf !a
  | .fin a m => .fin (!a) m

/-- NaN or an infinity. -/
def FVal.nonFinite : FVal → Bool
  | .fin _ _ => false
  | _ => true

/-- A zero of either sign. -/
def FVal.isZero : FVal → Bool
  | .fin _ m => m == 0
  | _ => false

/-- F32 addition with one rounding (R58, R59, R61). -/
def f32Add (a b : Word) : Word := f32Of ((f32Val a).add (f32Val b))
/-- F32 subtraction. -/
def f32Sub (a b : Word) : Word := f32Of ((f32Val a).add (f32Val b).neg)

/-- F32 multiplication with one rounding; zero times infinity is NaN. -/
def f32Mul (a b : Word) : Word :=
  match f32Val a, f32Val b with
  | .nan, _ => f32Nan
  | _, .nan => f32Nan
  | .inf s, .inf t => f32Of (.inf (s != t))
  | .inf s, .fin t m => if m = 0 then f32Nan else f32Of (.inf (s != t))
  | .fin s m, .inf t => if m = 0 then f32Nan else f32Of (.inf (s != t))
  | .fin s m, .fin t n => f32OfRat (s != t) (m * n) (2 ^ 149)

/-- F32 division with one rounding: 0/0 and inf/inf are NaN, a finite non-zero value over zero is an infinity (IEEE 754). -/
def f32Div (a b : Word) : Word :=
  match f32Val a, f32Val b with
  | .nan, _ => f32Nan
  | _, .nan => f32Nan
  | .inf _, .inf _ => f32Nan
  | .inf s, .fin t _ => f32Of (.inf (s != t))
  | .fin s _, .inf t => f32Of (.fin (s != t) 0)
  | .fin s m, .fin t n =>
    if n = 0 then (if m = 0 then f32Nan else f32Of (.inf (s != t)))
    else f32OfRat (s != t) (m * 2 ^ 149) n

/-- The whole square root, by bisection over `fuel` bits: the largest r with r × r ≤ n. -/
def isqrtAux (n : Nat) : Nat → Nat → Nat
  | 0, r => r
  | k + 1, r => let c := r + 2 ^ k; isqrtAux n k (if c * c ≤ n then c else r)

/-- The whole square root. -/
def isqrt (n : Nat) : Nat := isqrtAux n (Nat.log2 n / 2 + 1) 0

/-- F32 square root with one rounding; a negative value gives NaN, and −0 gives −0 (IEEE 754). The root of m × 2^-149 in units
of 2^-149 is sqrt(m × 2^149); the quotient below holds 64 bits more and a sticky bit, so its rounding is the rounding of the
exact root. -/
def f32Sqrt (a : Word) : Word :=
  match f32Val a with
  | .nan => f32Nan
  | .inf n => if n then f32Nan else f32Of (.inf false)
  | .fin n m =>
    if m = 0 then f32Of (.fin n 0)
    else if n then f32Nan
    else
      let x := m * 2 ^ 149 * 2 ^ 128
      let r := isqrt x
      f32OfRat false (2 * r + b2n (decide (r * r < x))) (2 ^ 65)

/-- The order of two values that are not NaN; zeros compare equal. -/
def FVal.ltB : FVal → FVal → Bool
  | .nan, _ => false
  | _, .nan => false
  | .inf a, .inf b => a && !b
  | .inf a, .fin _ _ => a
  | .fin _ _, .inf b => !b
  | .fin a m, .fin b n => decide (toInt a m < toInt b n)

/-- P20 codes as values and back (R63): a result whose magnitude, rounded to twelve significant bits, lies below 2^-126 becomes
a zero of the exact result's sign. -/
def p20Val (c : Nat) : FVal := fmtP20.decode true c

/-- num/den × 2^-149 rounded into P20 (R63). DEDUCED: the rounding that decides the flush keeps all twelve bits. -/
def p20OfRat (neg : Bool) (num den : Nat) : Nat :=
  let s := if neg then fmtP20.signBit else 0
  let least := 2 ^ 23
  -- below 2^-126 only values within half of a twelve-bit quantum (2^-138) round up to it
  if num < least * den then
    (if num * 2 ^ 13 ≥ (2 ^ 13 - 1) * least * den then s + 2 ^ 11 else s)
  else (fmtP20.ofRat .toInf neg num den).code

/-- A value rounded into P20. -/
def p20Of : FVal → Nat
  | .fin n m => p20OfRat n m 1
  | v => (fmtP20.ofVal .toInf v).code

/-- Promotion from P20 to F32, exact (R63). -/
def p20ToF32 (c : Nat) : Word := f32Of (p20Val c)

end Sys2Proof.Machine
end

