-- ==== Sys2Proof/Machine/Formats.lean ====
section
/-! DEFINITION. The fifteen exchange formats (R57, R62, R64), tile exponents and scales (R69 to R73), every conversion of R78 with
its saturation (R74, R75), and the packing of codes into bytes (R65). -/

namespace Sys2Proof.Machine
open Sys2Proof

/-- The exchange formats (R57). -/
inductive Fmt where
  | f32 | b16 | h16 | e4m3 | e5m2 | e2m1 | s8 | s4 | t2 | s1 | bx8 | bx4 | cbi | w32 | w64
deriving DecidableEq, Repr

/-- The exchange methods (R81). -/
inductive Method where
  | dense | waggle | lowrank | sign | codebook
deriving DecidableEq, Repr

/-- A method code (R81). -/
def Method.ofCode : Nat → Option Method
  | 0 => some .dense
  | 1 => some .waggle
  | 2 => some .lowrank
  | 3 => some .sign
  | 4 => some .codebook
  | _ => none

/-- The code of a method. -/
def Method.code : Method → Nat
  | .dense => 0 | .waggle => 1 | .lowrank => 2 | .sign => 3 | .codebook => 4

/-- A format code; 0xF names no format (R57). -/
def Fmt.ofCode : Nat → Option Fmt
  | 0 => some .f32 | 1 => some .b16 | 2 => some .h16 | 3 => some .e4m3 | 4 => some .e5m2 | 5 => some .e2m1
  | 6 => some .s8 | 7 => some .s4 | 8 => some .t2 | 9 => some .s1 | 10 => some .bx8 | 11 => some .bx4
  | 12 => some .cbi | 13 => some .w32 | 14 => some .w64
  | _ => none

/-- The code of a format (R57). -/
def Fmt.code : Fmt → Nat
  | .f32 => 0 | .b16 => 1 | .h16 => 2 | .e4m3 => 3 | .e5m2 => 4 | .e2m1 => 5 | .s8 => 6 | .s4 => 7 | .t2 => 8 | .s1 => 9
  | .bx8 => 10 | .bx4 => 11 | .cbi => 12 | .w32 => 13 | .w64 => 14

/-- Code width in bits (R57). -/
def Fmt.width : Fmt → Nat
  | .f32 => 32 | .b16 => 16 | .h16 => 16 | .e4m3 => 8 | .e5m2 => 8 | .e2m1 => 4 | .s8 => 8 | .s4 => 4 | .t2 => 2 | .s1 => 1
  | .bx8 => 8 | .bx4 => 4 | .cbi => 32 | .w32 => 32 | .w64 => 64

/-- The float layout of a float format (R62). -/
def Fmt.float? : Fmt → Option FFmt
  | .f32 => some fmtF32 | .b16 => some fmtB16 | .h16 => some fmtH16 | .e4m3 => some fmtE4M3 | .e5m2 => some fmtE5M2
  | .e2m1 => some fmtE2M1
  | _ => none

/-- The scaled formats and their shift s (R71). -/
def Fmt.shift? : Fmt → Option Nat
  | .s8 => some 6 | .bx8 => some 6 | .s4 => some 2 | .bx4 => some 2 | .t2 => some 0
  | .e4m3 => some 7 | .e5m2 => some 14 | .e2m1 => some 2
  | _ => none

/-- The formats with one agreed exponent per block (R70). -/
def Fmt.isBx : Fmt → Bool
  | .bx8 => true | .bx4 => true | _ => false

/-- The accumulator of a source format (R87, R160). -/
def Fmt.accum : Fmt → Fmt
  | .s8 | .s4 | .t2 | .s1 | .bx8 | .bx4 | .w32 => .w32
  | .w64 => .w64
  | .f32 | .b16 | .h16 | .e4m3 | .e5m2 | .e2m1 => .f32
  | .cbi => .cbi

/-- The source formats that a method permits (R82). -/
def Method.permits (m : Method) (f : Fmt) : Bool :=
  match m with
  | .sign => f == .s1
  | .codebook => f == .cbi
  | _ => f != .s1 && f != .cbi

/-- Units per tile (R83). -/
def Method.tileUnits : Method → Nat
  | .codebook => 32
  | _ => 16

/-- Elements per unit (R82). -/
def Method.unitElems : Method → Nat
  | .codebook => 128
  | _ => 256

/-- Bytes of a unit in a payload format (R85). -/
def Fmt.unitBytes (f : Fmt) : Nat := if f = .cbi then 4 else 32 * f.width

/-- Bytes of a scale entry (R83). -/
def Fmt.scaleBytes (f : Fmt) : Nat :=
  match f with
  | .s8 | .s4 | .t2 | .e4m3 | .e5m2 | .e2m1 => 1
  | .bx8 | .bx4 => 5
  | .cbi => 4
  | _ => 0

/-- m × 2^k as a numerator and a denominator. -/
def scale2 (m : Nat) (k : Int) : Nat × Nat :=
  if k < 0 then (m, 2 ^ (-k).toNat) else (m * 2 ^ k.toNat, 1)

/-- The local exponent of F32 codes (R69): 0xFF with a NaN or infinity, else the exponent field of the largest magnitude, with 0x00
for zero and 0x01 for a subnormal. -/
def localExp (xs : List Word) : Nat :=
  xs.foldl (fun a x =>
    let m := x.toNat % 2 ^ 31
    let e := m >>> 23
    Nat.max a (if e = 0xFF then 0xFF else if m = 0 then 0 else if e = 0 then 1 else e)) 0

/-- A saturated two's complement code of `w` bits from a rounded magnitude (R64, R74): the produced range is symmetric. -/
def satInt (w : Nat) (neg : Bool) (r : Nat) : Conv :=
  let lim := 2 ^ (w - 1) - 1
  let v := Nat.min r lim
  ⟨codeOf w (toInt neg v), decide (lim < r)⟩

/-- x × 2^k rounded to an integer code of `w` bits, saturated; NaN gives 0, an infinity the saturated value (R68, R74). -/
def toIntCode (w : Nat) (k : Int) : FVal → Conv
  | .nan => ⟨0, false⟩
  | .inf n => ⟨codeOf w (toInt n (2 ^ (w - 1) - 1)), true⟩
  | .fin n m =>
    let q := scale2 m (k - 149)
    satInt w n (rne q.1 q.2)

/-- The Quantiser on one value (R64, R68, R71, R72, R78): `te` is the agreed tile exponent, `bj` the block shift of a BX format, `xexp`
the fixed exponent of W32 and W64. -/
def quantise (f : Fmt) (te bj : Nat) (xexp : Int) (v : FVal) : Conv :=
  match f with
  | .f32 => fmtF32.ofVal .toInf v
  | .b16 => fmtB16.ofVal .toInf v
  | .h16 => fmtH16.ofVal .toInf v
  | .w32 => toIntCode 32 (-xexp) v
  | .w64 => toIntCode 64 (-xexp) v
  | .s1 => ⟨match v with | .inf n => b2n n | .fin n m => b2n (n && m != 0) | .nan => 0, false⟩
  | .cbi => ⟨0, false⟩
  | _ =>
    if te = 0 ∨ te = 0xFF then ⟨0, false⟩
    else
      let k : Int := (f.shift?.getD 0 : Nat) - ((te : Int) - 127)
      match f.float? with
      | some ff => match v with
        | .fin n m => let q := scale2 m k; ff.ofRat .saturate n q.1 q.2
        | v => ff.ofVal .saturate v
      | none => toIntCode f.width (k + bj) v

/-- The value of a code of an integer or sign format, as its accumulator takes it (R64, R263). -/
def intValue (f : Fmt) (c : Nat) : Int :=
  match f with
  | .s1 => if c % 2 = 0 then 1 else -1
  | _ => signedOf f.width c

/-- The step exponent of a scaled format under an agreed exponent: the step is 2 to this power (R71). -/
def stepExp (f : Fmt) (te bj : Nat) : Int := ((te : Int) - 127) - (f.shift?.getD 0 : Nat) - bj

/-- i × 2^k rounded into F32. -/
def f32OfScaled (i : Int) (k : Int) : Word :=
  let q := scale2 i.natAbs (k + 149)
  f32OfRat (decide (i < 0)) q.1 q.2

/-- A code of a float format widened into F32 (R78, R160): a scaled format applies its step; only E5M2 can round. -/
def widen (f : Fmt) (te : Nat) (c : Nat) : Word :=
  match f.float? with
  | none => f32Zero
  | some ff =>
    match ff.decode false c with
    | .fin n m =>
      let k : Int := if f.shift?.isSome then stepExp f te 0 else 0
      let q := scale2 m k
      f32OfRat n q.1 q.2
    | v => f32Of v

/-- A chip's own code, decoded in F32 under its agreed scale (R98). -/
def decodeOwn (f : Fmt) (te bj : Nat) (xexp : Int) (c : Nat) : Word :=
  if f.shift?.isSome ∧ (te = 0 ∨ te = 0xFF) then f32Zero
  else match f with
    | .w32 | .w64 => f32OfScaled (signedOf f.width c) xexp
    | .s8 | .s4 | .t2 | .bx8 | .bx4 => f32OfScaled (intValue f c) (stepExp f te bj)
    | _ => widen f te c

/-- The Dequantiser on one accumulated element (R72, R78): `f` is the source format, `acc` the accumulator's code. -/
def dequantSum (f : Fmt) (te bj : Nat) (xexp : Int) (acc : Nat) : Word :=
  if f.shift?.isSome ∧ te = 0 then f32Zero
  else if f.shift?.isSome ∧ te = 0xFF then f32Nan
  else match f.accum with
    | .f32 => BitVec.ofNat 32 acc
    | _ => match f with
      | .w32 => f32OfScaled (signedOf 32 acc) xexp
      | .w64 => f32OfScaled (signedOf 64 acc) xexp
      | _ => f32OfScaled (signedOf 32 acc) (stepExp f te bj)

/-- A gradient code converted exactly into F32 (R78): NaN is canonical. -/
def gradToF32 (f : Fmt) (c : Nat) : Word := widen f 127 c

/-- A value converted into a result format without scale (R78, R79, stage 5 of R120). -/
def toResult (f : Fmt) (v : FVal) : Conv :=
  match f with
  | .s8 => toIntCode 8 0 v
  | .e4m3 => fmtE4M3.ofVal .saturate v
  | .e5m2 => fmtE5M2.ofVal .saturate v
  | .b16 => fmtB16.ofVal .toInf v
  | .h16 => fmtH16.ofVal .toInf v
  | _ => fmtF32.ofVal .toInf v

/-- The numbers of `w`-bit codes packed from the least significant end of each byte (R65). -/
def packCodes (w : Nat) (cs : List Nat) : List Byte :=
  if 8 ≤ w then cs.flatMap (leBytes (w / 8))
  else (chunks (8 / w) cs).map (fun g => byteOf (g.foldr (fun c a => c % 2 ^ w + 2 ^ w * a) 0))

/-- The `w`-bit codes that bytes hold, in element order (R65). -/
def unpackCodes (w : Nat) (bs : List Byte) : List Nat :=
  if 8 ≤ w then (chunks (w / 8) bs).map leNat
  else bs.flatMap (fun b => (List.range (8 / w)).map (fun i => (b.toNat >>> (w * i)) % 2 ^ w))

/-- Bytes per element of a format of whole bytes. -/
def Fmt.bytes (f : Fmt) : Nat := f.width / 8

/-- The block shift of a BX block (R71). -/
def bxShift (te bj : Nat) : Nat := Nat.min 3 (te - bj)

end Sys2Proof.Machine
end

