-- ==== Sys2Proof/Machine/Flags.lean ====
section
/-! DEFINITION. The results that Brew keeps in predicates: the comparisons of SCMP, the truth table of PLOG (R291), and FMAX and FMIN,
whose order of F32 values they share (R290). -/

namespace Sys2Proof.Machine
open Sys2Proof

/-- The low half of a scalar as F32 (R290). -/
def low32 (x : DWord) : Word := BitVec.ofNat 32 x.toNat

/-- SCMP's comparison (R291). -/
def condHolds (k : Cond) (a b : DWord) : Bool :=
  match k with
  | .eq => a == b
  | .ne => a != b
  | .lt => decide (a.toInt < b.toInt)
  | .le => decide (a.toInt ≤ b.toInt)
  | .ltu => decide (a.toNat < b.toNat)
  | .leu => decide (a.toNat ≤ b.toNat)
  | .flt => (f32Val (low32 a)).ltB (f32Val (low32 b))
  | .fle =>
    let x := f32Val (low32 a)
    let y := f32Val (low32 b)
    x.ltB y || (x == y && x != .nan) || (x.isZero && y.isZero)

/-- PLOG: bit 2a + b of the truth table (R291). -/
def plogBit (table : BitVec 4) (a b : Bool) : Bool := bitAt table.toNat (2 * b2n a + b2n b)

/-- `x` lies below `y` in the order of FMAX, −0 below +0 (R290). -/
def f32Below (x y : Word) : Bool :=
  (f32Val x).ltB (f32Val y) || ((f32Val x).isZero && (f32Val y).isZero && bitAt x.toNat 31 && !bitAt y.toNat 31)

/-- FMAX (R290). -/
def f32Max (a b : Word) : Word :=
  if f32Val a = .nan ∨ f32Val b = .nan then f32Nan else if f32Below a b then b else a
/-- FMIN (R290). -/
def f32Min (a b : Word) : Word :=
  if f32Val a = .nan ∨ f32Val b = .nan then f32Nan else if f32Below b a then b else a

end Sys2Proof.Machine
end

