-- ==== Sys2Proof/Config.lean ====
section
/-! DEFINITION. The free values of the model: constants without a body, so that nothing can be proved of what they are. Each is
applied to the model's counter `Block.free` or to operands, and each has a row in the assumption log. -/

namespace Sys2Proof.Config
open Sys2Proof

/-- Whether link `l` of another chip, at coordinate `w`, is in service when this chip chooses a detour (R185 step 3). -/
opaque remoteLinkUp : Nat → Coord → Nat → Bool
/-- The nonce of the Kettle's random source, byte by byte (R303). -/
opaque nonceByte : Nat → Nat → Byte
/-- The value that a faulty adder leaves when its error passes the residue check (R172): an FP32 adder's result. -/
opaque faultyF32 : Nat → Nat → Nat → Word
/-- Whether the sequencer acts on a WAKE hint for a dimension (R266). -/
opaque wakeActs : Nat → Nat → Bool
/-- The free-running XCLK count that a training flit carries, and other clock values the model does not count (R223, R224). -/
opaque xclkNow : Nat → BitVec 32
/-- Which bits of a fuse bank's byte a burn that a Kettle reset cut short had burnt (R395). -/
opaque burntBits : Nat → Nat → Byte
/-- The code of a departure for loss of a lane, for which R225 gives none. -/
opaque laneLossCode : Nat → BitVec 16
/-- The low byte of the class 0x05 event of a program fetch or of a mismatch, for which R360 gives no code. -/
opaque progFetchCode : Nat → Byte
/-- The number that stands for a die sensor in a thermal-trip event (R454). -/
opaque thermSensor : Nat → Nat
/-- Statistics of element `k` of a LOWRANK tensor's view beyond the flattened Q (R279 states none). -/
opaque statBeyond : Nat → Word

end Sys2Proof.Config
end

