-- ==== Sys2Proof/Machine/Frames.lean ====
section
/-! DEFINITION. Wax frames: header and layout (R81 to R87), the checks of R92, units by position (R89), and the cutting of an
operation into rounds by the cell quota (R240, R241). -/

namespace Sys2Proof.Machine
open Sys2Proof

/-- The fields of a frame's header that the layout does not fix (R81). -/
structure FrameHdr where
  method : Method
  src : Fmt
  pay : Fmt
  sum : Bool
  predicted : Bool
  last : Bool
  partition : Nat
  epoch : Nat
  tensor : Nat
  round : Nat
  n : Nat
  p0 : Nat
  u : Nat
  uAll : Nat
  param : Nat
  source : Nat
deriving DecidableEq, Repr

/-- The section offsets and lengths of R86. -/
structure FrameLayout where
  scaleOff : Nat
  scaleLen : Nat
  indexOff : Nat
  payOff : Nat
  payLen : Nat
  frameLen : Nat
deriving DecidableEq, Repr

/-- The layout of a frame of `u` units (R86). -/
def frameLayout (m : Method) (src pay : Fmt) (u : Nat) : FrameLayout :=
  let scaleLen := ceilDiv u m.tileUnits * src.scaleBytes
  let afterScale := if scaleLen = 0 then 64 else roundUp (64 + scaleLen) 64
  let afterIndex := if m = .waggle then roundUp (afterScale + 8 * u) 64 else afterScale
  let payLen := u * pay.unitBytes
  { scaleOff := if scaleLen = 0 then 0 else 64
    scaleLen := scaleLen
    indexOff := if m = .waggle then afterScale else 0
    payOff := afterIndex
    payLen := payLen
    frameLen := roundUp (afterIndex + payLen) 64 }

/-- The layout of the frame that a header heads. -/
def FrameHdr.layout (h : FrameHdr) : FrameLayout := frameLayout h.method h.src h.pay h.u

/-- The 64 bytes of the header (R81). -/
def FrameHdr.bytes (h : FrameHdr) : List Byte :=
  let l := h.layout
  leBytes 4 0x31584157 ++ [1#8, byteOf h.method.code, byteOf (h.src.code * 16 + h.pay.code),
    byteOf (b2n h.sum + 2 * b2n h.predicted + 4 * b2n h.last)] ++
  leBytes 2 h.partition ++ [byteOf h.epoch, 0#8] ++ leBytes 2 h.tensor ++ leBytes 2 h.round ++
  leBytes 4 h.n ++ leBytes 4 h.p0 ++ leBytes 4 h.u ++ leBytes 4 h.uAll ++
  leBytes 4 l.scaleOff ++ leBytes 4 l.indexOff ++ leBytes 4 l.payOff ++ leBytes 4 l.payLen ++
  leBytes 4 l.frameLen ++ leBytes 4 h.param ++ leBytes 4 h.source ++ zeros 4

/-- The bytes of a frame (R86): `scales` the scale section, `blocks` the block number at each position (WAGGLE), `payload` the
units. -/
def frameBytes (h : FrameHdr) (scales : List Byte) (blocks : List Nat) (payload : List Byte) : List Byte :=
  let l := h.layout
  let idx := if h.method = .waggle then
      blocks.zipIdx.flatMap (fun q => leBytes 4 q.1 ++ leBytes 4 (l.payOff + q.2 * h.pay.unitBytes)) else []
  let afterScale := if h.method = .waggle then l.indexOff else l.payOff
  h.bytes ++ padTo (afterScale - 64) scales ++ padTo (l.payOff - afterScale) idx ++ padTo (l.frameLen - l.payOff) payload

/-- What the receiver holds for the frame (check 4 and checks 7 and 9 of R92): `form`, where there is a round to match, its method, source format
and sum flag (R230). `blocks` is the block set of the whole round, in
position order from `p0`, where the receiver holds one. -/
structure FrameExp where
  form : Option (Method × Fmt × Bool)
  partition : Nat
  tensor : Nat
  round : Nat
  n : Nat
  uAll : Nat
  param : Nat
  predicted : Bool
  blocks : Option (List Nat)
  room : Nat
deriving DecidableEq, Repr

/-- The header of a frame's bytes, where its format fields name a method and formats. -/
def FrameHdr.parse (bs : List Byte) : Option FrameHdr := do
  let m ← Method.ofCode (field bs 5 1)
  let src ← Fmt.ofCode (field bs 6 1 / 16)
  let pay ← Fmt.ofCode (field bs 6 1 % 16)
  let fl := field bs 7 1
  pure { method := m, src := src, pay := pay, sum := bitAt fl 0, predicted := bitAt fl 1, last := bitAt fl 2
         partition := field bs 8 2 % 128, epoch := field bs 10 1, tensor := field bs 12 2, round := field bs 14 2
         n := field bs 0x10 4, p0 := field bs 0x14 4, u := field bs 0x18 4, uAll := field bs 0x1C 4
         param := field bs 0x34 4, source := field bs 0x38 4 }

/-- Check 6: the section fields equal the values of R86. -/
def layoutMatches (bs : List Byte) (l : FrameLayout) : Bool :=
  field bs 0x20 4 == l.scaleOff && field bs 0x24 4 == l.indexOff && field bs 0x28 4 == l.payOff &&
  field bs 0x2C 4 == l.payLen && field bs 0x30 4 == l.frameLen

/-- The block numbers of a WAGGLE frame's index table. -/
def frameBlocks (h : FrameHdr) (bs : List Byte) : List Nat :=
  (List.range h.u).map (fun i => field bs (h.layout.indexOff + 8 * i) 4)

/-- The list rises strictly. -/
def rising : List Nat → Bool
  | [] => true
  | [_] => true
  | a :: b :: t => decide (a < b) && rising (b :: t)

/-- Check 7 (R92). -/
def blocksMatch (h : FrameHdr) (bs : List Byte) (e : FrameExp) : Bool :=
  let bl := frameBlocks h bs
  rising bl && bl.all (fun b => decide (b < ceilDiv h.n 256)) &&
  (match e.blocks with | some x => bl == x | none => true) &&
  (List.range h.u).all (fun i => field bs (h.layout.indexOff + 8 * i + 4) 4 == h.layout.payOff + i * h.pay.unitBytes)

/-- A frame of another method, source format or kind than the round's own does not match the round, as by check 4 (DEDUCED, log entry 90). -/
def FrameExp.fits (e : FrameExp) (h : FrameHdr) : Bool :=
  match e.form with | none => true | some x => h.method == x.1 && h.src == x.2.1 && h.sum == x.2.2

/-- The checks of R92 that read the header alone (1 to 6, and 9), in table order: the code of the first that fails. -/
def checkHead (bs : List Byte) (e : FrameExp) : Option Nat :=
  if field bs 0 4 ≠ 0x31584157 ∨ field bs 4 1 ≠ 1 then some 0x0601
  else match FrameHdr.parse bs with
  | none => some 0x0602
  | some h =>
    if !h.method.permits h.src || h.pay != (if h.sum then h.src.accum else h.src) || (h.sum && h.method == .codebook) then some 0x0602
    else if field bs 7 1 ≥ 8 ∨ field bs 8 2 ≥ 128 ∨ field bs 11 1 ≠ 0 ∨ field bs 0x38 4 ≥ 2 ^ 18 ∨ field bs 0x3C 4 ≠ 0 then some 0x0603
    else if h.partition ≠ e.partition ∨ h.tensor ≠ e.tensor ∨ h.round ≠ e.round ∨ h.n ≠ e.n ∨ h.uAll ≠ e.uAll ∨
        h.param ≠ e.param ∨ h.predicted ≠ e.predicted ∨ !e.fits h then some 0x0604
    else if h.u = 0 ∨ h.uAll < h.p0 + h.u ∨ h.p0 % h.method.tileUnits ≠ 0 ∨
        (h.u % h.method.tileUnits ≠ 0 ∧ h.p0 + h.u ≠ h.uAll) ∨ h.last ≠ decide (h.p0 + h.u = h.uAll) then some 0x0605
    else if !layoutMatches bs h.layout then some 0x0606
    else if e.room < h.layout.frameLen then some 0x0609
    else none

/-- Checks 7 and 8 of R92 on a frame whose header has passed. -/
def checkBody (bs : List Byte) (e : FrameExp) : Option Nat :=
  match FrameHdr.parse bs with
  | none => none
  | some h =>
    if h.method = .waggle ∧ !blocksMatch h bs e then some 0x0607
    else if h.method = .codebook ∧ (unpackCodes 32 (slice bs h.layout.payOff h.layout.payLen)).any (fun w => decide (2 ^ 30 ≤ w)) then some 0x0608
    else none

/-- The checks of R92 on a whole frame's bytes: the code of the first that fails. Checks 7 and 8 are passed over where 9 fails. -/
def checkFrame (bs : List Byte) (e : FrameExp) : Option Nat :=
  match checkHead bs e with
  | some c => some c
  | none => checkBody bs e

/-- The codes of the unit at position `i` of a checked frame (R89). -/
def unitCodes (h : FrameHdr) (bs : List Byte) (i : Nat) : List Nat :=
  unpackCodes h.pay.width (slice bs (h.layout.payOff + (i - h.p0) * h.pay.unitBytes) h.pay.unitBytes)

/-! ### Rounds and cells -/

/-- Slot bytes of one unit (R240): `e` the largest extent, `s` the split factor, `stats` the statistics flag. -/
def slotBytes (src : Fmt) (e s : Nat) (stats : Bool) : Nat :=
  (if src.accum = .f32 then Nat.max e s else if 1 < s then 2 else 1) * src.accum.unitBytes +
  (if stats then (if 1 < s then 2 else 1) * 2048 else 0)

/-- cells(u) of a reducing collective (R240). -/
def cellsOf (w u : Nat) : Nat := ceilDiv (u * w) 4096

/-- frame_len of a CODEBOOK round of `u` patterns. -/
def cbiFrameLen (u : Nat) : Nat := (frameLayout .codebook .cbi .cbi u).frameLen

/-- Rounds of `u` units, the last taking every remaining unit once it fits (R241): pairs of p0 and u. -/
def cutAux (fits : Nat → Bool) (u : Nat) : Nat → Nat → Nat → List (Nat × Nat)
  | 0, p0, rem => [(p0, rem)]
  | f + 1, p0, rem => if fits rem then [(p0, rem)] else (p0, u) :: cutAux fits u f (p0 + u) (rem - u)

/-- The rounds of a reducing collective of `uAll` units of `w` slot bytes under quota `q` (R241). -/
def cutReduce (q w uAll : Nat) : List (Nat × Nat) :=
  let u := Nat.max 16 ((q * 4096 / w) / 16 * 16)
  cutAux (fun r => decide (cellsOf w r ≤ q)) u (uAll / u) 0 uAll

/-- The most whole tiles whose CODEBOOK frame fits `len` bytes (R241). -/
def cbiTiles (len : Nat) : Nat :=
  let t := (len - 64) / 132
  if cbiFrameLen (32 * t) ≤ len then t else t - 1

/-- The rounds of a CODEBOOK all-gather (R241). -/
def cutGather (q n uAll : Nat) : List (Nat × Nat) :=
  let len := q * 4096 / n
  let u := 32 * Nat.max 1 (cbiTiles len)
  cutAux (fun r => decide (cbiFrameLen r ≤ len)) u (uAll / u) 0 uAll

/-- Cells of a CODEBOOK round (R240). -/
def cellsGather (n u : Nat) : Nat := ceilDiv (n * cbiFrameLen u) 4096

end Sys2Proof.Machine
end

