-- ==== Sys2Proof/Machine/Topology.lean ====
section
/-! DEFINITION. The six-dimensional machine: coordinate words (R14), the machine descriptor (R180), groups, lines and positions (R163,
R182), split factors (R166), link partners (R29) and the route of a flit (R185). -/

namespace Sys2Proof.Machine
open Sys2Proof

/-- c_d of a coordinate word (R14). -/
def Coord.digit (c : Coord) (d : Nat) : Nat := (c.toNat >>> (3 * d)) % 8

/-- The coordinate word with c_d replaced (R14). -/
def Coord.withDigit (c : Coord) (d v : Nat) : Coord :=
  BitVec.ofNat 18 (c.toNat - Coord.digit c d * 8 ^ d + v * 8 ^ d)

/-- A coordinate word from the low 18 bits of a field. -/
def coordOf (n : Nat) : Coord := BitVec.ofNat 18 n

/-- The six dimensions, ascending. -/
def dims : List Nat := [0, 1, 2, 3, 4, 5]

/-- The dimensions in which two coordinate words differ, ascending. -/
def diffDims (a b : Coord) : List Nat := dims.filter (fun d => Coord.digit a d != Coord.digit b d)

/-! ### The machine descriptor (R180) -/

/-- Logical extent m_d. -/
def descLogical (desc d : Nat) : Nat := (desc >>> (3 * d)) % 8 + 1
/-- Spare dimension s. -/
def descSpareDim (desc : Nat) : Nat := bitsOf desc 20 18
/-- Spare values k. -/
def descSpares (desc : Nat) : Nat := bitsOf desc 23 21
/-- Physical extent p_d. -/
def descPhysical (desc d : Nat) : Nat := descLogical desc d + if d = descSpareDim desc then descSpares desc else 0

/-- The conditions that R180 puts on a descriptor. -/
def descOk (desc : Nat) : Bool :=
  desc >>> 24 == 0 && decide (descSpareDim desc ≤ 5) &&
  decide (descLogical desc (descSpareDim desc) + descSpares desc ≤ 8) &&
  (descSpares desc != 0 || descSpareDim desc == 0)

/-- The coordinate lies within the physical extents (R181). -/
def withinPhysical (desc : Nat) (c : Coord) : Bool := dims.all (fun d => decide (Coord.digit c d < descPhysical desc d))
/-- The coordinate lies in the logical machine (R180). -/
def withinLogical (desc : Nat) (c : Coord) : Bool := dims.all (fun d => decide (Coord.digit c d < descLogical desc d))

/-! ### Links (R13, R29) -/

/-- Dimension of a link. -/
def linkDim (l : Nat) : Nat := l / 7
/-- The value in its dimension of the partner of link `l` of a chip at `c` (R29). -/
def partnerVal (c : Coord) (l : Nat) : Nat :=
  let j := l % 7
  if j < Coord.digit c (linkDim l) then j else j + 1
/-- The coordinate of the partner of link `l`. -/
def partnerCoord (c : Coord) (l : Nat) : Coord := Coord.withDigit c (linkDim l) (partnerVal c l)
/-- The link of a chip whose own value is `own` to the chip with value `v` in dimension `d` (R29). -/
def linkTo (own d v : Nat) : Nat := 7 * d + if v < own then v else v - 1
/-- The partner's link number at the other end of link `l`. -/
def partnerLink (c : Coord) (l : Nat) : Nat :=
  linkTo (partnerVal c l) (linkDim l) (Coord.digit c (linkDim l))

/-! ### Groups (R163, R182) -/

/-- The value sets of a group, V_0 to V_5. -/
abbrev VSet := Vector (BitVec 8) 6

/-- V_d. -/
def vsetAt (v : VSet) (d : Nat) : Nat := ((v.toList.getD d 0)).toNat
/-- The values of V_d, ascending. -/
def vals (v : VSet) (d : Nat) : List Nat := (List.range 8).filter (bitAt (vsetAt v d))
/-- e_d. -/
def extent (v : VSet) (d : Nat) : Nat := (vals v d).length
/-- N, the number of members. -/
def groupSize (v : VSet) : Nat := (dims.map (extent v)).foldl (· * ·) 1
/-- The coordinate lies in the group. -/
def inGroup (v : VSet) (c : Coord) : Bool := dims.all (fun d => bitAt (vsetAt v d) (Coord.digit c d))
/-- The position of value `x` in dimension `d` (R163). -/
def posOf (v : VSet) (d x : Nat) : Nat := ((vals v d).filter (· < x)).length
/-- The position of a member in dimension `d`. -/
def position (v : VSet) (d : Nat) (c : Coord) : Nat := posOf v d (Coord.digit c d)
/-- The dimensions with e_d > 1, ascending. -/
def openDims (v : VSet) : List Nat := dims.filter (fun d => decide (1 < extent v d))
/-- The logical coordinates of this chip's d-line, ascending (R163). -/
def line (v : VSet) (d : Nat) (c : Coord) : List Coord := (vals v d).map (Coord.withDigit c d)
/-- The other members of this chip's d-line. -/
def lineOthers (v : VSet) (d : Nat) (c : Coord) : List Coord := (line v d c).filter (· != c)
/-- Every member of the group, ascending by coordinate word. -/
def members (v : VSet) : List Coord :=
  (List.reverse dims).foldl (fun cs d => cs.flatMap (fun c => (vals v d).map (Coord.withDigit c d))) [0#18]

/-- The split dimension of factor `s` (R166). -/
def splitDim (v : VSet) (s : Nat) : Option Nat := dims.find? (fun d => decide (s ≤ extent v d))
/-- The split factor in use: R195 takes the largest that some extent reaches when the entry's factor exceeds every extent. -/
def effSplit (v : VSet) (s : Nat) : Nat :=
  if (splitDim v s).isSome then s
  else ([4, 2, 1].find? (fun t => decide (t < s) && (splitDim v t).isSome)).getD 1

/-! ### Remap and routes (R185, R188) -/

/-- The answer of R185 at one chip. -/
inductive Route where
  | deliver
  /-- the link to send on, and the link tagged at the next chip where step 3 chose a detour -/
  | send (l : Nat) (tag : Option Nat)
  | hold
deriving DecidableEq, Repr

/-- Steps 1 to 4 of R185 for a flit bound for physical coordinate `q` at the chip at `me`: `up` says which links of this chip are in
service, `failed` which coordinates are marked failed, and `remoteUp w l` whether link `l` of the chip at `w` is in service. -/
def route (up : Nat → Bool) (failed : Coord → Bool) (remoteUp : Coord → Nat → Bool) (me q : Coord) : Route :=
  match diffDims me q with
  | [] => .deliver
  | d0 :: ds =>
    match (d0 :: ds).find? (fun d =>
        up (linkTo (Coord.digit me d) d (Coord.digit q d)) && !failed (Coord.withDigit me d (Coord.digit q d))) with
    | some d => .send (linkTo (Coord.digit me d) d (Coord.digit q d)) none
    | none =>
      let qv := Coord.digit q d0
      let mv := Coord.digit me d0
      match (List.range 8).find? (fun w => w != mv && w != qv && up (linkTo mv d0 w) &&
          remoteUp (Coord.withDigit me d0 w) (linkTo w d0 qv)) with
      | some w => .send (linkTo mv d0 w) (some (linkTo w d0 qv))
      | none => .hold

end Sys2Proof.Machine
end

