-- ==== Sys2Proof/Machine/State.lean ====
section
/-! DEFINITION. The state of the FT642 block as plain data, its faults and refusals, and the state after power-on of the Kettle. -/

namespace Sys2Proof.Machine
open Sys2Proof

/-- Faults that stop the block. The spec gives the chip no fault that ends it: a halted chip (R47) goes on answering. No meaning
raises `none`; the constructor keeps the type inhabited (safe). -/
inductive Fault where
  | none
deriving DecidableEq, Repr

/-- Refusals. -/
inductive Refusal where
  /-- Raised by an arm of `exec` whose row has no meaning yet; safe, since nothing is then provable about the row. -/
  | notModelled (mnemonic : String)
deriving DecidableEq, Repr

/-- Byte-addressed memory in one canonical form: addresses rise strictly and no entry holds what an unlisted address reads as. -/
abbrev Mem := List Host.Cell

/-! ### Registers with a behaviour of their own -/

/-- A control register (R419): the value that reads back, the value in force, and pend. -/
structure Ctl where
  shown : Nat
  eff : Nat
  pend : Bool
deriving DecidableEq, Repr

/-- A mirror register (R418): the fields below mseq, mseq, the KT of the first audit that found a difference (R378), and whether the data
path's pushes to it are held up (DESIGN CHOICE, log entry 66). -/
structure Mirror where
  val : BitVec 24
  mseq : Byte
  diffAt : Option Nat
  held : Bool
deriving DecidableEq, Repr

/-- Power states (R385). -/
inductive Pwr where
  | boil | simmer | warm | cold
deriving DecidableEq, Repr

/-! ### The image (R347 to R350) -/

/-- A tensor entry (R350). -/
structure TensorEntry where
  method : Method
  xfmt : Fmt
  gfmt : Fmt
  rfmt : Fmt
  ef : Bool
  spec : Bool
  stats : Bool
  gRole : Bool
  rRole : Bool
  fRole : Bool
  split : Nat
  bundle : Nat
  z : Int
  x : Int
  n : Nat
  select : Nat
  a : Nat
  b : Nat
  rank : Nat
  opfmt : Fmt
  beam : Nat
  iters : Nat
  seed : Nat
deriving DecidableEq, Repr

/-- What the image fixes for a defined partition (R349, R351). -/
structure PartImage where
  tensors : List TensorEntry
  prog : List DWord
  progOff : Nat
  vset : VSet
  quota : Nat
  share : Nat
  weight : Nat
  timeout : Nat
  cbE : Nat
  key : List Byte
  cbDigest : List Byte
  progDigest : List Byte
  entryDigest : List Byte
deriving DecidableEq, Repr

/-! ### The Kettle and its blocks -/

/-- The Kettle (R2, R381, R394): `startAt` is the KT from which start-up may begin after a reset (R396); `ending`
says that the end of the last reset has still to be judged against the die sensors (R454); `rstAt` is the KT and the precedence of the last
reset source that acted (R394), `auditAt` the KT of the last mirror audit (R378, R382). -/
structure Kettle where
  kt : Nat
  startAt : Nat
  resetCause : BitVec 4
  haltCode : BitVec 16
  stopped : Bool
  rstLow : Bool
  railBad : Bool
  thermTrip : Bool
  dieTemp : Vector Int 8
  ending : Bool
  rstAt : Option (Nat × Nat)
  auditAt : Nat
deriving DecidableEq, Repr

/-- Start-up phases (R353). -/
inductive Phase where
  | none | straps | header | core | stream | signature | content | layout | ready | failed
deriving DecidableEq, Repr

/-- Start-up (R353 to R355) and what the header gives. -/
structure Boot where
  phase : Phase
  hdrDone : Bool
  coreDone : Bool
  strapMode : Bool
  physCoord : Coord
  anchored : Bool
  code : BitVec 16
  detail : BitVec 32
  imageId : BitVec 32
  machine : Nat
  nvmCfg : BitVec 32
  scrubHours : Nat
  partCount : Nat
  sigOff : Nat
  imageLen : Nat
  image : List Byte
deriving DecidableEq, Repr

/-- The one-time fuses and the burn under way, its code and the value staged when it began, and the KT of its start (R352, R371, R372). -/
structure Fuses where
  pwdSet : Bool
  pwd : List Byte
  anchorSet : Bool
  anchor : List Byte
  data : Vector (BitVec 32) 12
  busy : Option (BitVec 32 × List Byte)
  burnAt : Nat
deriving DecidableEq, Repr

/-- The management serial port (R362 to R371, R423). -/
structure Msp where
  session : Bool
  lastUse : Nat
  lockUntil : Nat
  lastErr : BitVec 4
  loginFail : BitVec 16
  resync : BitVec 16
  evt : Bool
  out : List Byte
deriving DecidableEq, Repr

/-- One event-log entry (R411). -/
structure Event where
  kt : Nat
  code : BitVec 16
  unit : Byte
  index : Byte
  part : Byte
  detail : Vector (BitVec 32) 4
  bad : Bool
deriving DecidableEq, Repr

/-- The event log (R410, R411, R433): entries newest first, at most 2,048; `lostAt` is the KT in which lost_evt was last set (R11). -/
structure Evl where
  entries : List Event
  head : BitVec 32
  ack : BitVec 32
  lost : BitVec 32
  lostEvt : Bool
  lostAt : Option Nat
  sel : BitVec 32
  miss : Bool
  copy : Option (List Byte)
deriving DecidableEq, Repr

/-- One read command on the NVM pins (R342 to R344): the command bytes, the 4-byte address, the bytes read, the clock divider and the dummy
clocks. -/
structure NvmRead where
  cmd : List Byte
  addr : Nat
  len : Nat
  div : Nat
  dummy : Nat
deriving DecidableEq, Repr

/-- The NVM port (R345, R360, R424) and the read commands that it has driven, oldest first (R344). `refetchEn` is NVM_CTRL.refetch_en as written at KT
`refetchAt`; through that KT the value before, `refetchWas`, still holds. -/
structure Nvm where
  reads : List NvmRead
  refetchEn : Bool
  refetchWas : Bool
  refetchAt : Nat
  due : List PartId
  busy : Bool
  fetches : BitVec 32
deriving DecidableEq, Repr

/-- A remap record (R189). -/
structure RemapRec where
  gen : Nat
  kind : Nat
  dim : Nat
  value : Nat
  logical : Nat
  physical : Nat
deriving DecidableEq, Repr

/-- An ASSUME entry (R188, R422). -/
structure Assume where
  idx : Nat
  logical : Coord
  physical : Coord
deriving DecidableEq, Repr

/-- An EXCLUDE entry (R188, R422). -/
structure Exclude where
  idx : Nat
  dim : Nat
  value : Nat
deriving DecidableEq, Repr

/-- The coordinate remap table (R188, R190); `level` is the generation that a chip too far behind must reach (R191). -/
structure Remap where
  gen : Nat
  assumes : List Assume
  excludes : List Exclude
  held : List RemapRec
  kept : List RemapRec
  tooFar : Bool
  level : Nat
deriving DecidableEq, Repr

/-- Boundary scan (R455, R456): the instruction register, the boundary register's shift and update stages. -/
inductive TapIr where
  | bypass | extest | sample | clamp | highz
deriving DecidableEq, Repr

structure Tap where
  ir : TapIr
  shift : BitVec 78
  update : BitVec 78
deriving DecidableEq, Repr

/-! ### Combs -/

/-- A tensor descriptor (R255), one field each. -/
structure Td where
  rowlen : Nat
  region : Nat
  view : Bool
  method : Nat
  rfmt : Nat
  xfmt : Nat
  tensor : Nat
  base : Nat
  n : Nat
deriving DecidableEq, Repr

/-- The functions of the scalar and predicate instructions (R290, R291). -/
inductive SFn where
  | mov | high (imm : BitVec 32) | add | sub | mul | div | and | or | xor | shl | shr | sra | fadd | fsub | fmul | fdiv | fmax | fmin | fsqrt
  | fcvti | icvtf | cmp (k : Cond) | log (table : BitVec 4)
deriving DecidableEq, Repr

/-- How an uncapped scalar was computed (R49, R264): from capped values, and from results of sums that wait for their cap report, each with its
opidx, its place in the payload and the value it has so far. -/
inductive SExpr where
  | cap (v : DWord)
  | sum (opidx k : Nat) (v : DWord)
  | app (f : SFn) (a b : SExpr)
deriving DecidableEq, Repr

/-- A scalar register: its value, whether an SRED that has issued has still to write it (R259, R293), and how it was computed while it is
uncapped (R49, R264). -/
structure Scal where
  v : DWord
  pend : Bool
  ex : Option SExpr
deriving DecidableEq, Repr

/-- A row of a consume-as-gathered product that was taken on uncapped data (R50, R54, R134): the rounds and sums (by opidx) that it waits
on, the saturations and overflows to count, and the bytes for the result slot. -/
structure EarlyRow where
  row : Nat
  uses : List Nat
  sat : Nat
  ovf : Nat
  bytes : List Byte
deriving DecidableEq, Repr

/-- A matrix product as an Infuser instruction configures it (R284, R286): the destination and stream views, the entry format, the shape,
the weights as they entered, and the output stages: `bias` has one entry a column or none, `ew` is 1 for add and 2 for multiply, `act` as
R286 codes it. `taken` are the rows of a consume-as-gathered product that have been taken (R133), `early` those of them that wait for capping. -/
structure GProd where
  dst : Td
  stream : Td
  cvt : Fmt
  rows : Nat
  inner : Nat
  cols : Nat
  weights : List FVal
  scale : Option Word
  bias : List Word
  ew : Nat
  z : List Word
  act : Nat
  lo : Word
  hi : Word
  taken : List Nat
  early : List EarlyRow
deriving DecidableEq, Repr

/-- An output configuration with the values of the registers that it names, as they were at issue (R286): `ew` and `act` as in `GProd`. -/
structure OutSet where
  scale : Option Scal
  bias : Option Td
  ew : Nat
  z : Option Td
  act : Nat
  lo : Scal
  hi : Scal
deriving DecidableEq, Repr

/-- An operation that has issued to the Infuser, or an XSTAT that has issued to the exchange controller, and has still to run (R259, R274). -/
inductive InfOp where
  | copy (dst src : Td) (rd : HostRead) (errs : List MemErr)
  | orth (dst src : Td) (rd : HostRead) (errs : List MemErr)
  | mma (dst stream weights : Td) (cvt : Fmt) (o : OutSet) (rd : MmaReads) (errs : List MemErr) (gathered : Bool)
  | stat (dst src : Td) (mode : Nat) (errs : List MemErr)
deriving DecidableEq, Repr

/-- The Brew sequencer (R254); `qx` says how an uncapped predicate was computed (R264). -/
structure Seqr where
  pc : BitVec 15
  td : Vector Td 64
  s : Vector Scal 32
  q : Vector Bool 8
  qx : Vector (Option SExpr) 8
  l : Vector (BitVec 32) 4
deriving DecidableEq, Repr

/-- The counters of a comb that its registers show (R425). -/
structure CombCnt where
  steps : BitVec 32
  selBlocks : BitVec 32
  covered : BitVec 32
  corr : BitVec 32
  poison : BitVec 32
  nonfinite : BitVec 32
  infOvf : BitVec 32
  searches : BitVec 32
  excluded : BitVec 32
  qntSat : BitVec 32
  sramCorr : BitVec 16
deriving DecidableEq, Repr

/-- Service states of a comb (the svc field of R425). -/
inductive Svc where
  | idle | running | released | failed
deriving DecidableEq, Repr

/-- A comb (R20, R331, R385, R425); `ops` are the operations that have issued and not begun, in program order (R274); `due` is the KT at which the entry or the wake under way ends. -/
structure Comb where
  svc : Svc
  pwr : Pwr
  entering : Option Pwr
  waking : Bool
  due : Nat
  idleSince : Nat
  part : Option PartId
  lastIssue : Nat
  failCause : Byte
  failCode : BitVec 16
  ctrl : Ctl
  tokFree : Nat
  tokUsed : Nat
  cnt : CombCnt
  store : Option (PartId × List DWord)
  seq : Seqr
  prods : List GProd
  ops : List InfOp
deriving DecidableEq, Repr

/-! ### Links -/

/-- Training states (R222). -/
inductive LState where
  | cold | detect | equalise | lock | identify | grant | standby | inService
deriving DecidableEq, Repr

/-- One slot of a train (R199, R200). -/
structure Slot where
  kind : Nat
  first : Bool
  body : List Byte
deriving DecidableEq, Repr

/-- A message that waits for an egress link: the WDRR participant (a partition, or 128 for the relay queue) and its flits. -/
structure TxMsg where
  who : Nat
  head : List Byte
  body : List (List Byte)
deriving DecidableEq, Repr

/-- A sent flit that the retry buffer keeps (R212), with the head flit of its message. -/
structure Kept where
  seq : BitVec 12
  slot : Slot
  head : List Byte
deriving DecidableEq, Repr

/-- A buzz message with its number (R209). -/
structure BuzzMsg where
  seq : BitVec 12
  head : List Byte
  body : List Byte
deriving DecidableEq, Repr

/-- Four counts, in the order buzz, bulk, parcel, tunnel (R214). -/
structure Four where
  buzz : Nat
  bulk : Nat
  parcel : Nat
  tunnel : Nat
deriving DecidableEq, Repr

/-- The sending end of a link (R209 to R220): `resend` is what a resend under way has still to send, `resendFrom` the number from which the
next train resends (R212). -/
structure LinkTx where
  qBuzz : List (List Byte × List Byte)
  qBulk : List TxMsg
  qParcel : List TxMsg
  qTunnel : List TxMsg
  curBulk : List Slot × List Byte
  curParcel : List Slot × List Byte
  curTunnel : List Slot × List Byte
  buzzBody : Option (List Byte)
  kept : List Kept
  keptBuzz : List BuzzMsg
  resend : List Kept
  resendBuzz : List BuzzMsg
  resendFrom : Option (BitVec 12)
  next : BitVec 12
  bnext : BitVec 12
  nakSeen : BitVec 4
  bnakSeen : BitVec 4
  stuck : Nat
  bstuck : Nat
  free : Four
  used : Four
  retSeen : Four
  slotPos : Nat
  wdrr : List (Nat × Nat)
  visited : Nat
  parcelTurn : Nat
deriving DecidableEq, Repr

/-- A message of the sequenced space that a link has accepted in part (R203, R210, R226): its class, its head and the bytes of its body flits so
far. -/
structure Partial where
  cls : Nat
  head : List Byte
  body : List Byte
deriving DecidableEq, Repr

/-- The receiving end of a link (R207 to R215): `waiting` are the bulk messages held at the ingress, each with whether it still holds its
credits and with the hardware fault that strikes when it is added (R226, R238, R171); `peerGen` the remap generation that the partner reported
(R191). -/
structure LinkRx where
  exp : BitVec 12
  bexp : BitVec 12
  nakEv : BitVec 4
  bnakEv : BitVec 4
  nakSeq : BitVec 12
  bnakSeq : BitVec 12
  nakWait : Bool
  bnakWait : Bool
  back : BitVec 12
  ret : Four
  held : Four
  unconf : List BuzzMsg
  part : List Partial
  waiting : List (Bool × List Byte × List Byte × AddFault)
  peerPwr : Pwr
  peerInService : Bool
  peerGen : Option Nat
deriving DecidableEq, Repr

/-- Link-control flits to send (R207, R208): `shown` is the pwr field of the last one sent. -/
structure LinkCtl where
  due : Bool
  overdue : Bool
  sentInTrain : Bool
  heartbeat : BitVec 32
  shown : Pwr
deriving DecidableEq, Repr

/-- Training and readiness (R222 to R227): `echo` is the tx_time of the last training flit received (R223). -/
structure LinkTrain where
  lockRun : Nat
  idCount : Nat
  idMax : Nat
  echo : Option (BitVec 32)
  coeffs : Bool
  atOnce : Bool
  wait : List Nat
  ready : Bool
  peerReady : Bool
  takenOut : Bool
  ctrlWait : List Nat
  pauseUntil : Nat
  since : Nat
deriving DecidableEq, Repr

/-- The counters of a link (R228). -/
structure LinkCnt where
  txBytes : BitVec 64
  rxBytes : BitVec 64
  retry : BitVec 32
  dup : BitVec 32
  fecCorr : BitVec 16
  fecUncorr : BitVec 16
  crcErr : BitVec 16
  trainFail : BitVec 16
  resErr : BitVec 16
deriving DecidableEq, Repr

/-- A link (R222, R428). -/
structure Link where
  st : LState
  pwr : Pwr
  entering : Option Pwr
  parked : Bool
  lastCode : BitVec 16
  ctrl : Ctl
  partner : Option (BitVec 6 × Coord)
  wireDelay : BitVec 16
  relayWeight : Nat
  cnt : LinkCnt
  tx : LinkTx
  rx : LinkRx
  lc : LinkCtl
  tr : LinkTrain
  slotOut : List (List Byte)
deriving DecidableEq, Repr

/-! ### Steps and collectives -/

/-- Step states of a tensor (R260). -/
inductive TStep where
  | idle | steeped | exchanged
deriving DecidableEq, Repr

/-- The collectives of a tensor that travel as bulk rounds (R229). -/
inductive RKind where
  | score | predicted | main | factorP | factorQ | gather
deriving DecidableEq, Repr

/-- What a buzz operation is for (R229, R293). -/
inductive Purpose where
  | membership
  | barrier (c : CombId)
  | sred (c : CombId) (sd : SReg) (w : Nat)
  | scale (t : Nat) (kind : RKind) (piece : Nat)
  | score (t : Nat)
  | sigma (t : Nat)
  | digest (t : Nat)
  | report (opidx : Nat)
deriving DecidableEq, Repr

/-- A contribution that a buzz operation holds (R233): the contributor, the operands, the link it came on with its bseq while it
is unconfirmed, and the fault that strikes as it is combined, with that link (R171). -/
structure Contrib where
  src : Coord
  vals : List Nat
  conf : Option (LinkId × BitVec 12)
  strike : Option (LinkId × Strike)
deriving DecidableEq, Repr

/-- A buzz operation of the step (R230 to R234): `dims` the exchanges still to come (8 and above: the combine exchange of R233 in
dimension d − 8), `own` the operands it began with, `cur` the partial, `got` every contribution met, `sent` the number
of exchanges for which the partial has left; `failed` and `resFail` are the causes of the statuses 0x01 and 0x02 of R244; `shown`: the result of
an SRED sum has been written, uncapped, to its registers (R293). -/
structure BuzzOp where
  opidx : Nat
  redo : Nat
  op : Nat
  why : Purpose
  own : List Nat
  split : Nat
  dims : List Nat
  cur : List Nat
  got : List Contrib
  sent : Nat
  token : Bool
  failed : Bool
  resFail : Bool
  counted : Nat
  shown : Bool
  capped : Bool
  since : Nat
deriving DecidableEq, Repr

/-- States of a bulk round (R242 to R245): `dropped` is a predicted round that this member does not run (R246); `drained` one whose
cells stage 10 has freed, or that was discarded for good. -/
inductive RSt where
  | waiting | running | done | capped | drained | dropped
deriving DecidableEq, Repr

/-- A frame that arrives in pieces (R235, R238): its sender, phase and part, its number among the frames that the sender sends in the phase, the
link of its latest piece, the pieces in order, the hardware faults that strike its additions, each with the link, and whether it has been
taken into the round. -/
structure RxFrame where
  src : Coord
  link : LinkId
  phase : Nat
  part : Nat
  no : Nat
  pieces : List (Nat × List Byte)
  faults : List (LinkId × Strike)
  taken : Bool
deriving DecidableEq, Repr

/-- A bulk round of the step (R235 to R245): `phases` as `BuzzOp.dims`; `own` this chip's codes (or CBI words), `cur` the partial
and `curSq` its squares (R174); `parts` the values of a float line by their rank (R164, R167); `gathered` the frames held (R239). -/
structure Round where
  opidx : Nat
  redo : Nat
  tensor : Nat
  rnd : Nat
  kind : RKind
  p0 : Nat
  u : Nat
  st : RSt
  token : Bool
  cells : Nat
  since : Nat
  scales : List Byte
  blocks : List Nat
  own : List Nat
  ownSq : List Nat
  phases : List Nat
  cur : List Nat
  curSq : List Nat
  frames : List RxFrame
  parts : List (Nat × List Nat)
  gathered : List (Coord × List Byte)
  linkFail : Bool
  resFail : Bool
  counted : Nat
  sat : Nat
deriving DecidableEq, Repr

/-- A drained sum of a collective: from position `p0` on, the accumulators and the sums of squares. -/
structure SumPart where
  kind : RKind
  p0 : Nat
  acc : List Nat
  sq : List Nat
deriving DecidableEq, Repr

/-- The working values of a tensor (or bundle, held by its first member) in the running step: stage 1 (gradient, the next block, w as
formed), scores (R100), the launch stage, the sets of R104 and R106, agreed exponents and own codes by
collective, drained sums, and the values of SIGN (R263), LOWRANK (R128) and CODEBOOK (R151). `bySteep`: a STEEP of its own runs its stage 1
(R274); `idxLost` and `qLost`: this step's read of the index table, or of the warm-start Q, failed (R403); `bad` the blocks, as member and block, whose read failed in stage 1 (R111); `dirty` the pages, as member and page, in which stage 1 met
a non-finite w (R99). -/
structure TRun where
  st : TStep
  xissued : Bool
  grads : List Word
  left : Option Nat
  w : List Word
  scores : List Nat
  stage : Nat
  conf : Option (List Nat)
  pred : Option (List Nat)
  predBad : Bool
  group : List Nat
  te : List (RKind × List Nat)
  codes : List (RKind × List Nat)
  sums : List SumPart
  sigma : Word
  sigmaSum : Option Word
  pfac : List Word
  phat : List Word
  qown : List Word
  qdec : List Word
  qsum : List Word
  cbi : List Nat
  mags : List Word
  frames : List (Nat × List (Coord × List Byte))
  decoded : Option (List Word)
  delivered : Bool
  resid : Option Nat
  residDone : Bool
  bySteep : Bool
  idxLost : Bool
  qLost : Bool
  bad : List (Nat × Nat)
  dirty : List (Nat × Nat)
deriving DecidableEq, Repr

/-- Counts that rise only when the step completes (R109, R158). -/
structure Pending where
  searches : Nat
  selBlocks : Nat
deriving DecidableEq, Repr

/-- What a launching instruction hands to the fabric in program order (R259). -/
inductive Launch where
  | tensor (t : Nat)
  | barrier (c : CombId)
  | sred (c : CombId) (sd : SReg) (op : Nat) (w : Nat) (vals : List Scal)
deriving DecidableEq, Repr

/-- A buzz or bulk message held until its operation exists (R55, R238), with the hardware fault that strikes when it is added. -/
structure HeldMsg where
  buzz : Bool
  head : List Byte
  body : List Byte
  link : LinkId
  conf : Option (BitVec 12)
  fault : AddFault
deriving DecidableEq, Repr

/-- The step that runs (R256, R259, R314): `group`, `me` and `table` are the value sets, this chip's logical coordinate and the ASSUME
entries of the generation that the step began or agreed under (R194); `wants` and `seen` are the pages that the instruction at the pc, which
reads region 0x2, waits for and has read (R339). -/
structure StepRun where
  comb : CombId
  stepNo : BitVec 32
  group : VSet
  me : Coord
  table : List Assume
  agreed : Bool
  retryAt : Option Nat
  genBad : Bool
  progBad : Bool
  next : Nat
  launches : List Launch
  buzz : List BuzzOp
  rounds : List Round
  held : List HeldMsg
  seenAbort : List Coord
  abort : Option Nat
  abortAt : Nat
  reseed : Bool
  runs : List TRun
  count : Pending
  scalars : List (Nat × DWord)
  owners : List Nat
  wants : List (Nat × Bool × Nat)
  seen : List (Nat × Bool × Nat)
deriving DecidableEq, Repr

/-! ### Partitions -/

/-- Codebook states (R139). -/
inductive CbSt where
  | empty | loading | hashing | accepted | rejected
deriving DecidableEq, Repr

/-- The codebook of a partition (R136, R139). -/
structure Codebook where
  st : CbSt
  mem : Mem
  written : Nat
  twice : Bool
  owner : Option Nat
  last : Option (Nat × List Byte)
  poison : List Nat
deriving DecidableEq, Repr

/-- What HBM holds for a tensor across steps (R94, R105, R126, R127). -/
structure TMem where
  copy0 : List Word
  copy1 : List Word
  poison0 : List Bool
  poison1 : List Bool
  cur1 : Bool
  scratch : List Word
  idx0 : Option (List Nat)
  idx1 : Option (List Nat)
  idxCur1 : Bool
  idxBad : Bool
  q0 : List Word
  q1 : List Word
  qCur1 : Bool
  qBad : Bool
  opcopy : List Nat
  opBad : Bool
  stats : List (Nat × Nat)
deriving DecidableEq, Repr

/-- Where a steep page lies (R336 to R339). -/
structure Page where
  tensor : Nat
  copy : Bool
  page : Nat
  spilled : Option Nat
  live : Bool
  used : Nat
deriving DecidableEq, Repr

/-- A spill record that is in use: the header written and the poison bits kept (R322, R323). -/
structure SpillRec where
  num : Nat
  hdr : List Byte
  poison : List Bool
deriving DecidableEq, Repr

/-- Registered spill space (R322 to R324). -/
structure Spill where
  addr : Nat
  recs : Nat
  port : PortId
  vf : VfId
  broken : Bool
  kept : List SpillRec
  writing : Option (Page × List Byte)
deriving DecidableEq, Repr

/-- Program copy states (PRT_PROG_STATUS, R360). -/
inductive ProgSt where
  | available | pending | unavailable
deriving DecidableEq, Repr

/-- A partition of the chip (R326, R430); `pageQ` are the page-ins asked for, as tensor, copy and page, in order (R339). -/
structure Part where
  img : Option PartImage
  vset : VSet
  stepCnt : BitVec 32
  joining : Bool
  reformed : Bool
  lastGroup : List (Coord × Coord)
  lastStart : Option Nat
  lastComb : CombId
  lastAbort : BitVec 16
  redos : BitVec 32
  redNonfinite : BitVec 32
  pageIn : BitVec 32
  pageOut : BitVec 32
  timeout : Ctl
  weight : Ctl
  cb : Codebook
  prog : List DWord
  progSt : ProgSt
  fetchTries : Nat
  fetchAt : Nat
  tens : List TMem
  pages : List Page
  pageQ : List (Nat × Bool × Nat)
  spill : Option Spill
  outSeq : Nat
  run : Option StepRun
  heldNext : List HeldMsg
  nextCells : List (Nat × Nat × Nat)
deriving DecidableEq, Repr

/-! ### Host ports, contexts and slots -/

/-- A host port (R296, R397, R431); `downAt` is the KT in which link_down was last set (R11). -/
structure Port where
  vfEnable : Bool
  numVfs : Nat
  linkDown : Bool
  downAt : Option Nat
  flit : Bool
  width : Nat
  speed : Nat
  linkUp : Bool
  lockouts : List (VfId × Nat)
deriving DecidableEq, Repr

/-- A client context: a pending handshake or an open session (R300, R305, R308). -/
structure Ctx where
  id : Nat
  port : PortId
  vf : VfId
  isOpen : Bool
  hello : List Byte
  ns : List Byte
  since : Nat
  token : BitVec 32
  sqLog : Nat
  cqLog : Nat
  reply : Nat
  sqBase : Nat
  cqBase : Nat
  scalarBase : Nat
  vector : Nat
  sqHead : Nat
  sqTail : Nat
  cqHead : Nat
  cqTail : Nat
  expReq : Nat
  reserved : Nat
  closing : Option (Nat × Option (List Byte))
deriving DecidableEq, Repr

/-- An owned slot (R312, R314). -/
structure SlotRec where
  id : Nat
  ctx : Nat
  part : PartId
  tensor : Nat
  role : Nat
  addr : Nat
  len : Nat
  cur : Nat
  armed : Option Nat
  inUse : Option Nat
deriving DecidableEq, Repr

/-- A parcel on its way out or in (R320). -/
structure ParcelMove where
  id : Nat
  ctx : Nat
  desc : List Byte
  src : Coord
  dst : Coord
  part : PartId
  total : Nat
  bytes : List (Nat × List Byte)
  since : Nat
deriving DecidableEq, Repr

/-- The host ports' shared state (R300, R431). -/
structure HostSt where
  ports : Vector Port 2
  ctxs : List Ctx
  slots : List SlotRec
  slotsFree : Nat
  sessFree : Nat
  hsBad : BitVec 32
  dbBad : BitVec 32
  ctxSel : BitVec 12
  parcelsOut : List ParcelMove
  parcelsIn : List ParcelMove
  nextXfer : BitVec 32
deriving DecidableEq, Repr

/-! ### HBM, power and the rest -/

/-- An HBM stack (R400, R408). -/
structure Stack where
  st : Nat
  hot : Bool
  temp : Byte
  eccCorr : BitVec 16
  eccUncorr : BitVec 16
  ueAt : List (Nat × Nat)
deriving DecidableEq, Repr

/-- HBM service (R405). -/
structure Hbm where
  stackOf : Vector Stack 4
  scrubHours : Nat
  scrubOn : Bool
  passes : BitVec 32
  next : BitVec 32
  passStart : Nat
  scrubNew : Bool
deriving DecidableEq, Repr

/-- A power configuration: floor, warm_idle and cold_idle (R387, R391). -/
structure PwrCfg where
  floor : Ctl
  warm : Ctl
  cold : Ctl
deriving DecidableEq, Repr

/-- A link group's power (R388 to R393); `boilAt` is the KT in which it last left Simmer (R390). -/
structure Group where
  request : Pwr
  entering : Option Pwr
  waking : Bool
  due : Nat
  idleSince : Nat
  boilAt : Nat
  holdUntil : Option Nat
deriving DecidableEq, Repr

/-- The power block (R435). -/
structure PwrSt where
  combCfg : Vector PwrCfg 4
  lnkCfg : Vector PwrCfg 6
  groups : Vector Group 6
deriving DecidableEq, Repr

/-- The mirrors that the MSP reads (R376, R418). -/
structure Mirrors where
  comb : Vector Mirror 4
  link : Vector Mirror 42
  part : Vector Mirror 128
  stack : Vector Mirror 4
  pcomb : Vector Mirror 4
  plink : Vector Mirror 6
deriving DecidableEq, Repr

/-- What goes to a host (R299): a write to client memory, with its port, function, bus address, bytes and whether it asks for Relaxed Ordering;
or the MSI-X message of a vector, which is a write with Relaxed Ordering clear. -/
inductive HostWrite where
  | mem (port : PortId) (vf : VfId) (addr : Nat) (bytes : List Byte) (relaxed : Bool)
  | msix (port : PortId) (vf : VfId) (vector : Nat)
deriving DecidableEq, Repr

/-- What the chip has driven outward, oldest first: each MSI-X message follows the writes that were made before it. -/
structure OutSide where
  writes : List HostWrite
deriving DecidableEq, Repr

/-- The counts of the ledgers (R44), free then in use: cells, session tokens, slots, the tokens of each comb and the credits of each link. -/
structure Ledgers where
  cells : Nat × Nat
  sess : Nat × Nat
  slots : Nat × Nat
  toks : Vector (Nat × Nat) 4
  credits : Vector (Four × Four) 42
deriving DecidableEq, Repr

/-- The writable counters as they stood at the start of the KT (R412): a write in a KT in which the counter counts leaves the value written
plus the count. -/
structure CntBase where
  links : Vector LinkCnt 42
  sram : Vector (BitVec 16) 4
  ecc : Vector (BitVec 16 × BitVec 16) 4
  hcbRes : BitVec 16
  hcbSram : BitVec 16
  loginFail : BitVec 16
  resync : BitVec 16
  lost : BitVec 32
deriving DecidableEq, Repr

/-- The block but for its comb buffers and its fuses. `frozen` holds the counts of a ledger check that failed (R437). `free` and `resets` are the model's own counters: of the free values drawn, and of the
resets of the non-Kettle domains. -/
structure Block where
  kettle : Kettle
  boot : Boot
  msp : Msp
  evl : Evl
  nvm : Nvm
  remap : Remap
  tap : Tap
  combs : Vector Comb 4
  links : Vector Link 42
  parts : Vector Part 128
  host : HostSt
  hbm : Hbm
  pwr : PwrSt
  mirrors : Mirrors
  hcbFree : Nat
  frozen : Option Ledgers
  hcbResErr : BitVec 16
  hcbSramCorr : BitVec 16
  heldFlits : List (Nat × List Byte × List (List Byte))
  ready : List PartId
  scanAt : Nat
  out : OutSide
  base : CntBase
  free : Nat
  resets : Nat
deriving DecidableEq, Repr

/-- The whole state: the block, the four comb buffers (R25, R255), the fuses, and the commands that wait. `Block.free` is the
model's own counter from which free values are drawn. -/
structure State where
  block : Block
  bufs : Vector Mem 4
  fuses : Fuses
  pending : List Instr
deriving DecidableEq, Repr

/-! ### Reset -/

/-- A control register at a value, with nothing pending. -/
def Ctl.at (v : Nat) : Ctl := ⟨v, v, false⟩

/-- Credit grants (R214). -/
def grants : Four := ⟨32, 320, 128, 32⟩
def Four.zero : Four := ⟨0, 0, 0, 0⟩

def Kettle.reset : Kettle :=
  { kt := 0, startAt := 1, resetCause := 1, haltCode := 0, stopped := false, rstLow := false, railBad := false, thermTrip := false
    dieTemp := Vector.replicate 8 0, ending := true, rstAt := some (0, 1), auditAt := 0 }

def Boot.reset : Boot :=
  { phase := .none, hdrDone := false, coreDone := false, strapMode := false, physCoord := 0, anchored := false, code := 0
    detail := 0, imageId := 0, machine := 0, nvmCfg := 0, scrubHours := 24, partCount := 0, sigOff := 0, imageLen := 0
    image := [] }

/-- Blank fuses (DESIGN CHOICE: the spec leaves what has been burnt to the owner). -/
def Fuses.reset : Fuses :=
  { pwdSet := false, pwd := List.replicate 32 0, anchorSet := false, anchor := List.replicate 48 0
    data := Vector.replicate 12 0, busy := none, burnAt := 0 }

def Msp.reset : Msp :=
  { session := false, lastUse := 0, lockUntil := 0, lastErr := 0, loginFail := 0, resync := 0, evt := false, out := [] }

def Evl.reset : Evl :=
  { entries := [], head := 0, ack := 0, lost := 0, lostEvt := false, lostAt := none, sel := 0, miss := false, copy := none }

def Nvm.reset : Nvm := { reads := [], refetchEn := true, refetchWas := true, refetchAt := 0, due := [], busy := false, fetches := 0 }

def Remap.reset : Remap := { gen := 0, assumes := [], excludes := [], held := [], kept := [], tooFar := false, level := 0 }

def Tap.reset : Tap := { ir := .bypass, shift := 0, update := 0 }

/-- The null descriptor (R256). -/
def Td.null : Td :=
  { rowlen := 0, region := 15, view := false, method := 0, rfmt := 0, xfmt := 0, tensor := 0, base := 0, n := 0 }

def Scal.zero : Scal := ⟨0, false, none⟩

/-- The sequencer before any step (R256 without the four scalars). -/
def Seqr.reset : Seqr :=
  { pc := 0, td := Vector.replicate 64 Td.null, s := Vector.replicate 32 Scal.zero
    q := Vector.ofFn (fun (i : Fin 8) => i == 0), qx := Vector.replicate 8 none, l := Vector.replicate 4 0 }

def CombCnt.reset : CombCnt :=
  { steps := 0, selBlocks := 0, covered := 0, corr := 0, poison := 0, nonfinite := 0, infOvf := 0, searches := 0
    excluded := 0, qntSat := 0, sramCorr := 0 }

def Comb.reset : Comb :=
  { svc := .released, pwr := .cold, entering := none, waking := false, due := 0, idleSince := 0, part := none, lastIssue := 0
    failCause := 0, failCode := 0, ctrl := Ctl.at 0, tokFree := 256, tokUsed := 0, cnt := CombCnt.reset, store := none
    seq := Seqr.reset, prods := [], ops := [] }

def LinkTx.reset : LinkTx :=
  { qBuzz := [], qBulk := [], qParcel := [], qTunnel := [], curBulk := ([], []), curParcel := ([], []), curTunnel := ([], [])
    buzzBody := none, kept := [], keptBuzz := [], resend := [], resendBuzz := [], resendFrom := none, next := 0
    bnext := 0, nakSeen := 0, bnakSeen := 0, stuck := 0, bstuck := 0, free := Four.zero, used := grants
    retSeen := Four.zero, slotPos := 0, wdrr := [], visited := 128, parcelTurn := 127 }

def LinkRx.reset : LinkRx :=
  { exp := 0, bexp := 0, nakEv := 0, bnakEv := 0, nakSeq := 0, bnakSeq := 0, nakWait := false, bnakWait := false
    back := 0xFFF, ret := Four.zero, held := Four.zero, unconf := [], part := [], waiting := []
    peerPwr := .boil, peerInService := false, peerGen := none }

def LinkTrain.reset : LinkTrain :=
  { lockRun := 0, idCount := 0, idMax := 0, echo := none, coeffs := false, atOnce := true, wait := []
    ready := false, peerReady := false, takenOut := false, ctrlWait := [], pauseUntil := 0, since := 0 }

def LinkCnt.reset : LinkCnt :=
  { txBytes := 0, rxBytes := 0, retry := 0, dup := 0, fecCorr := 0, fecUncorr := 0, crcErr := 0, trainFail := 0
    resErr := 0 }

def Link.reset : Link :=
  { st := .cold, pwr := .cold, entering := none, parked := false, lastCode := 0, ctrl := Ctl.at 0, partner := none, wireDelay := 0
    relayWeight := 16, cnt := LinkCnt.reset, tx := LinkTx.reset, rx := LinkRx.reset, lc := ⟨false, false, false, 0, .boil⟩
    tr := LinkTrain.reset, slotOut := [] }

def Codebook.reset : Codebook :=
  { st := .empty, mem := [], written := 0, twice := false, owner := none, last := none, poison := [] }

def Part.reset : Part :=
  { img := none, vset := Vector.replicate 6 0, stepCnt := 0, joining := true, reformed := false, lastGroup := []
    lastStart := none, lastComb := 0, lastAbort := 0, redos := 0, redNonfinite := 0, pageIn := 0, pageOut := 0
    timeout := Ctl.at 0, weight := Ctl.at 0, cb := Codebook.reset, prog := [], progSt := .available, fetchTries := 0, fetchAt := 0
    tens := [], pages := [], pageQ := [], spill := none, outSeq := 0, run := none, heldNext := [], nextCells := [] }

def Port.reset : Port :=
  { vfEnable := false, numVfs := 0, linkDown := false, downAt := none, flit := false, width := 0, speed := 0, linkUp := false
    lockouts := [] }

def HostSt.reset : HostSt :=
  { ports := Vector.replicate 2 Port.reset, ctxs := [], slots := [], slotsFree := 65536, sessFree := 4096, hsBad := 0
    dbBad := 0, ctxSel := 0, parcelsOut := [], parcelsIn := [], nextXfer := 0 }

def Stack.reset : Stack := { st := 0, hot := false, temp := 0, eccCorr := 0, eccUncorr := 0, ueAt := [] }

def Hbm.reset : Hbm :=
  { stackOf := Vector.replicate 4 Stack.reset, scrubHours := 24, scrubOn := false, passes := 0, next := 0, passStart := 0, scrubNew := false }

def Group.reset : Group := { request := .cold, entering := none, waking := false, due := 0, idleSince := 0, boilAt := 0, holdUntil := none }

def PwrSt.reset : PwrSt :=
  { combCfg := Vector.replicate 4 ⟨Ctl.at 2, Ctl.at 25000, Ctl.at 250000000⟩
    lnkCfg := Vector.replicate 6 ⟨Ctl.at 2, Ctl.at 250000, Ctl.at 0⟩
    groups := Vector.replicate 6 Group.reset }

/-- The mirrors' reset values (R425, R428, R430, R432, R435). -/
def Mirrors.reset : Mirrors :=
  { comb := Vector.replicate 4 ⟨0x00000E, 0, none, false⟩, link := Vector.replicate 42 ⟨0x000018, 0, none, false⟩
    part := Vector.replicate 128 ⟨0, 0, none, false⟩, stack := Vector.replicate 4 ⟨0, 0, none, false⟩, pcomb := Vector.replicate 4 ⟨3, 0, none, false⟩
    plink := Vector.replicate 6 ⟨0x00FFFF, 0, none, false⟩ }

def CntBase.reset : CntBase :=
  { links := Vector.replicate 42 LinkCnt.reset, sram := Vector.replicate 4 0, ecc := Vector.replicate 4 (0, 0), hcbRes := 0, hcbSram := 0
    loginFail := 0, resync := 0, lost := 0 }

def Block.reset : Block :=
  { kettle := Kettle.reset, boot := Boot.reset, msp := Msp.reset, evl := Evl.reset, nvm := Nvm.reset
    remap := Remap.reset, tap := Tap.reset, combs := Vector.replicate 4 Comb.reset
    links := Vector.replicate 42 Link.reset, parts := Vector.replicate 128 Part.reset, host := HostSt.reset
    hbm := Hbm.reset, pwr := PwrSt.reset, mirrors := Mirrors.reset, hcbFree := 24576, frozen := none, hcbResErr := 0, hcbSramCorr := 0
    heldFlits := [], ready := [], scanAt := 0, out := ⟨[]⟩, base := CntBase.reset, free := 0, resets := 0 }

/-- The block right after power-on of the Kettle (R10, R394, R417), before start-up begins; the fuses blank and no command waiting. -/
def State.reset : State :=
  { block := Block.reset, bufs := Vector.replicate 4 [], fuses := Fuses.reset, pending := [] }

end Sys2Proof.Machine
end

