-- ==== Sys2Proof/Machine/Ops.lean ====
section
/-! DEFINITION. The shared operations over the block: its units by number, the event log (R409, R410), coordinates and groups as the
chip sees them (R181, R182, R188), the mirrors (R376), time (R381), and counters (R412). -/

namespace Sys2Proof.Machine
open Sys2Proof

/-! ### Units by number -/

def Block.comb (b : Block) (c : CombId) : Comb := b.combs[c]
def Block.link (b : Block) (l : LinkId) : Link := b.links[l]
def Block.part (b : Block) (p : PartId) : Part := b.parts[p]
def Block.setComb (b : Block) (c : CombId) (x : Comb) : Block := { b with combs := b.combs.set c x }
def Block.setLink (b : Block) (l : LinkId) (x : Link) : Block := { b with links := b.links.set l x }
def Block.setPart (b : Block) (p : PartId) (x : Part) : Block := { b with parts := b.parts.set p x }
def Block.modComb (b : Block) (c : CombId) (f : Comb → Comb) : Block := b.setComb c (f (b.comb c))
def Block.modLink (b : Block) (l : LinkId) (f : Link → Link) : Block := b.setLink l (f (b.link l))
def Block.modPart (b : Block) (p : PartId) (f : Part → Part) : Block := b.setPart p (f (b.part p))

/-- Every comb, ascending. -/
def allCombs : List CombId := List.finRange 4
/-- Every link, ascending. -/
def allLinks : List LinkId := List.finRange 42
/-- Every partition, ascending. -/
def allParts : List PartId := List.finRange 128

/-- A free value: the model's counter advances, so that each is drawn once. -/
def Block.draw (b : Block) : Nat × Block := (b.free, { b with free := b.free + 1 })

/-! ### Counters (R412) -/

/-- A saturating counter plus `k`. -/
def satAdd {w : Nat} (x : BitVec w) (k : Nat) : BitVec w := BitVec.ofNat w (Nat.min (x.toNat + k) (2 ^ w - 1))
/-- A saturating counter that a write sets to `v` in a KT at whose start it read `base` (R412): what it counted in that KT stays counted. -/
def rewritten {w : Nat} (cur base v : BitVec w) : BitVec w := satAdd v (cur.toNat - base.toNat)
/-- A wrapping counter plus `k`. -/
def wrapAdd {w : Nat} (x : BitVec w) (k : Nat) : BitVec w := x + BitVec.ofNat w k

/-! ### Time (R381) -/

/-- The writable counters as they stand (R412). -/
def Block.counters (b : Block) : CntBase :=
  { links := b.links.map Link.cnt, sram := b.combs.map (fun c => c.cnt.sramCorr), ecc := b.hbm.stackOf.map (fun s => (s.eccCorr, s.eccUncorr))
    hcbRes := b.hcbResErr, hcbSram := b.hcbSramCorr, loginFail := b.msp.loginFail, resync := b.msp.resync, lost := b.evl.lost }
/-- The counters from which the counts of a KT are told begin afresh (R412). -/
def Block.rebase (b : Block) : Block := { b with base := b.counters }
/-- The KT counter moved to at least `t`. -/
def Block.advanceTo (b : Block) (t : Nat) : Block :=
  { b with kettle := { b.kettle with kt := Nat.max b.kettle.kt t }, base := if b.kettle.kt < t then b.counters else b.base }
/-- The KT since the Kettle reset. -/
def Block.now (b : Block) : Nat := b.kettle.kt

/-- The precedence of the reset source that has acted in this KT, where one has (R394). -/
def Block.resetNow (b : Block) : Option Nat :=
  match b.kettle.rstAt with
  | some (t, p) => if t = b.now then some p else none
  | none => none

/-- A reset source of precedence `prec` acts: none of the same or a lower number has acted in this KT (R394). -/
def Block.resetActs (b : Block) (prec : Nat) : Bool :=
  match b.resetNow with
  | some p => decide (prec < p)
  | none => true

/-- One KT passes (R381): the straps are sampled within phase 1, so that the header phase follows (R353). -/
def Block.tick (b : Block) : Block :=
  let b := b.advanceTo (b.now + 1)
  if b.boot.phase = .straps then { b with boot := { b.boot with phase := .header } } else b

/-! ### The event log (R409, R410, R459) -/

/-- Units of event-log entries (R409). -/
inductive EvUnit where
  | kettle | comb (c : CombId) | link (l : LinkId) | stack (s : StackId) | honeycomb (i : Nat) | port (h : PortId)
  | router | partition
deriving DecidableEq, Repr

def EvUnit.code : EvUnit → Nat
  | .kettle => 0 | .comb _ => 1 | .link _ => 2 | .stack _ => 3 | .honeycomb _ => 4 | .port _ => 5 | .router => 6
  | .partition => 7

def EvUnit.index : EvUnit → Nat
  | .comb c => c | .link l => l | .stack s => s | .honeycomb i => i | .port h => h | _ => 0

/-- The four detail words of an entry. -/
def detailWords (ds : List Nat) : Vector (BitVec 32) 4 :=
  Vector.ofFn (fun (i : Fin 4) => BitVec.ofNat 32 (ds.getD i 0))

/-- The place of an entry among those of its KT (R410): Kettle, combs, links, stacks, Honeycomb, host ports, router; entries of a partition
come last (DEDUCED, log entry 63). -/
def Event.rank (x : Event) : Nat := 256 * x.unit.toNat + x.index.toNat

/-- An entry put among those written before it, newest first: behind those of the same KT that follow it in the order of R410. -/
def insertEvent (x : Event) : List Event → List Event
  | [] => [x]
  | y :: ys => if y.kt = x.kt ∧ x.rank < y.rank then y :: insertEvent x ys else x :: y :: ys

/-- An entry written (R410): one over the oldest of 2,048 counts as lost when it had not been acknowledged. -/
def Evl.push (e : Evl) (x : Event) : Evl :=
  let full := decide (2048 ≤ e.entries.length)
  let old := e.head - 2048#32
  let lose := full && decide ((old - e.ack).toNat < 2 ^ 31)
  { e with entries := insertEvent x (e.entries.take 2047), head := e.head + 1
           lost := if lose then satAdd e.lost 1 else e.lost, lostEvt := e.lostEvt || lose, lostAt := if lose then some x.kt else e.lostAt }

/-- The part field of an entry (R409). -/
def partField (p : Option PartId) : Byte :=
  match p with
  | some p => BitVec.ofNat 8 (128 + p)
  | none => 0

/-- Writes an entry to the event log; the MSP's evt bit is set (R365). -/
def Block.log (b : Block) (code : Nat) (u : EvUnit) (p : Option PartId) (ds : List Nat) : Block :=
  { b with
    evl := b.evl.push { kt := b.now, code := BitVec.ofNat 16 code, unit := byteOf u.code, index := byteOf u.index
                        part := partField p, detail := detailWords ds, bad := false }
    msp := { b.msp with evt := true } }

/-- An entry for a partition, unit 0x07 (R459). -/
def Block.logPart (b : Block) (code : Nat) (p : PartId) (ds : List Nat) : Block := b.log code .partition (some p) ds

/-! ### Coordinates, membership and routing as the chip sees them -/

/-- The ASSUME entry that maps this chip's physical coordinate (R188). -/
def Block.assumed (b : Block) : Option Assume := b.remap.assumes.find? (fun a => a.physical == b.boot.physCoord)
/-- This chip's logical coordinate (R181). -/
def Block.logCoord (b : Block) : Coord := match b.assumed with | some a => a.logical | none => b.boot.physCoord
/-- An ASSUME maps this chip's own coordinate to a spare, so that it is marked failed (R185, the corner ruling). -/
def Block.mappedAway (b : Block) : Bool :=
  b.assumed.isNone && b.remap.assumes.any (fun a => a.logical == b.boot.physCoord)
/-- The physical coordinate behind a logical one (R188). -/
def Block.physOf (b : Block) (l : Coord) : Coord :=
  match b.remap.assumes.find? (fun a => a.logical == l) with | some a => a.physical | none => l
/-- The chip is Ready and not stopped. -/
def Block.serving (b : Block) : Bool := b.boot.phase == .ready && !b.kettle.stopped
/-- The partition is defined on this chip (R326); only from Ready on (R357). -/
def Block.defined (b : Block) (p : PartId) : Bool := (b.part p).img.isSome && b.boot.phase == .ready
/-- The partition is active on this chip (R182, R191). -/
def Block.active (b : Block) (p : PartId) : Bool :=
  b.defined p && inGroup (b.part p).vset b.logCoord && !b.mappedAway && !b.remap.tooFar
/-- A context owns a slot of the partition. -/
def Block.hasSlots (b : Block) (p : PartId) : Bool := b.host.slots.any (fun s => s.part == p)
/-- The partition is engaged (R389). -/
def Block.engaged (b : Block) (p : PartId) : Bool := b.active p && b.hasSlots p
/-- Link `l` is in service for routing (R185). -/
def Block.up (b : Block) (l : Nat) : Bool := if h : l < 42 then (b.link ⟨l, h⟩).st == .inService else false
/-- A link that R183 holds Cold: outside the physical extents, or in a dimension with p_d = 1. -/
def Block.linkAbsent (b : Block) (l : LinkId) : Bool :=
  decide (descPhysical b.boot.machine (linkDim l) ≤ partnerVal b.boot.physCoord l)
/-- The step's group as logical and physical coordinates (R194). -/
def StepRun.groupMap (r : StepRun) : List (Coord × Coord) :=
  (members r.group).map (fun l => (l, match r.table.find? (fun a => a.logical == l) with | some a => a.physical | none => l))
/-- The route of a flit (R185). What the links of other chips do is a free value of the model. -/
def Block.route (b : Block) (q : Coord) : Route × Block :=
  let d := b.draw
  (Sys2Proof.Machine.route b.up (fun t => b.remap.assumes.any (fun a => a.logical == t))
    (fun w l => Config.remoteLinkUp d.1 w l) b.boot.physCoord q, d.2)

/-! ### Values of the unit states that the mirrors show -/

def Pwr.code : Pwr → Nat
  | .boil => 0 | .simmer => 1 | .warm => 2 | .cold => 3
/-- The power state of a 2-bit code. -/
def Pwr.ofCode : Nat → Pwr
  | 0 => .boil | 1 => .simmer | 2 => .warm | _ => .cold
/-- KT of a wake to Boil from a power state (R385). -/
def wakeKt (p : Pwr) : Nat := match p with | .warm => 625 | .cold => 10000 | _ => 1
/-- KT of the entry into a power state (R385). -/
def entryKt (p : Pwr) : Nat := match p with | .warm => 50 | .cold => 250 | _ => 1
def Svc.code : Svc → Nat
  | .idle => 0 | .running => 1 | .released => 2 | .failed => 3
def LState.code : LState → Nat
  | .cold => 0 | .detect => 1 | .equalise => 2 | .lock => 3 | .identify => 4 | .grant => 5 | .standby => 6 | .inService => 7
def CbSt.code : CbSt → Nat
  | .empty => 0 | .loading => 1 | .hashing => 2 | .accepted => 3 | .rejected => 4
def ProgSt.code : ProgSt → Nat
  | .available => 0 | .pending => 1 | .unavailable => 2
def Phase.code : Phase → Nat
  | .none => 0 | .straps => 1 | .header => 2 | .core => 3 | .stream => 4 | .signature => 5 | .content => 6 | .layout => 7
  | .ready => 8 | .failed => 15

/-- CMB_STATE below mseq (R425). -/
def combView (c : Comb) : BitVec 24 :=
  BitVec.ofNat 24 (c.svc.code + 4 * c.pwr.code + 16 * (match c.part with | some p => p.val + 128 | none => 0))
/-- LNK_STATE below mseq (R428): pwr reads 0b00 while training. -/
def linkView (l : Link) : BitVec 24 :=
  let training := l.st != .cold && l.st != .inService && l.st != .standby
  BitVec.ofNat 24 (l.st.code + 8 * (if training then 0 else l.pwr.code) + 32 * b2n l.parked + 256 * l.lastCode.toNat)
/-- PRT_STATE below mseq (R430). -/
def Block.partView (b : Block) (p : PartId) : BitVec 24 :=
  if (b.part p).img.isNone then 0 else
  let x := b.part p
  BitVec.ofNat 24 (b2n (b.defined p) + 2 * b2n (b.active p) + 4 * b2n (b.engaged p) + 8 * b2n x.reformed +
    16 * b2n x.run.isSome + 32 * b2n (b.ready.contains p) + 64 * x.lastComb)
/-- HBM_STACK_STATE below mseq (R432). -/
def stackView (s : Stack) : BitVec 24 := BitVec.ofNat 24 (s.st + 4 * b2n s.hot)
/-- PWR_COMB_STATE below mseq (R435). -/
def pcombView (c : Comb) : BitVec 24 := BitVec.ofNat 24 c.pwr.code
/-- The links of a group, ascending (R13). -/
def groupLinks (d : DimId) : List LinkId := allLinks.filter (fun l => l.val / 7 == d.val)
/-- PWR_LNK_STATE below mseq (R435). -/
def Block.plinkView (b : Block) (d : DimId) : BitVec 24 :=
  BitVec.ofNat 24 ((b.pwr.groups[d]).request.code +
    ((groupLinks d).map (fun l => (b.link l).pwr.code * 4 ^ (l.val % 7 + 1))).foldl (· + ·) 0)

/-- One mirror after a command: a change of the data path's value is pushed, and mseq rises by one (R376), unless its pushes are held up. -/
def Mirror.push (m : Mirror) (old new : BitVec 24) : Mirror :=
  if old = new ∨ m.held then m else { m with val := new, mseq := m.mseq + 1 }

/-- The mirrors after a command that took the data path from `o` to `n` (R376). -/
def pushMirrors (o n : Block) (m : Mirrors) : Mirrors :=
  { comb := Vector.ofFn (fun (i : Fin 4) => (m.comb[i]).push (combView (o.comb i)) (combView (n.comb i)))
    link := Vector.ofFn (fun (i : Fin 42) => (m.link[i]).push (linkView (o.link i)) (linkView (n.link i)))
    part := Vector.ofFn (fun (i : Fin 128) => (m.part[i]).push (o.partView i) (n.partView i))
    stack := Vector.ofFn (fun (i : Fin 4) => (m.stack[i]).push (stackView o.hbm.stackOf[i]) (stackView n.hbm.stackOf[i]))
    pcomb := Vector.ofFn (fun (i : Fin 4) => (m.pcomb[i]).push (pcombView (o.comb i)) (pcombView (n.comb i)))
    plink := Vector.ofFn (fun (i : Fin 6) => (m.plink[i]).push (o.plinkView i) (n.plinkView i)) }

/-- The block after a command whose effect on the data path is `n`, its mirrors pushed. A reset leaves
them at their reset values (R395). -/
def finish (o n : Block) : Block :=
  { n with mirrors := if n.resets = o.resets then pushMirrors o n n.mirrors else n.mirrors }

/-! ### The three shapes of a meaning -/

/-- A command whose effect lies in the block alone. -/
def State.act (s : State) (f : Block → Block) : Host.Outcome State Fault Refusal :=
  .next { s with block := finish s.block (f s.block) }

/-- A command that also changes one comb buffer, or every comb buffer. -/
def State.actBufs (s : State) (f : Block → Vector Mem 4 → Block × Vector Mem 4) : Host.Outcome State Fault Refusal :=
  let r := f s.block s.bufs
  .next { s with block := finish s.block r.1, bufs := r.2 }

/-- A command that also touches the fuses. -/
def State.actFuses (s : State) (f : Block → Fuses → Block × Fuses) : Host.Outcome State Fault Refusal :=
  let r := f s.block s.fuses
  .next { s with block := finish s.block r.1, fuses := r.2 }

end Sys2Proof.Machine
end

