-- ==== Sys2Proof/Machine/Operands.lean ====
section
/-! DEFINITION. The Brew sequencer's operands (R269 to R271, R290) and the issue of an instruction (R259, R264, R265, R270). -/

namespace Sys2Proof.Machine
open Sys2Proof

/-! ### Registers -/

def Seqr.sreg (q : Seqr) (r : SReg) : DWord := (q.s[r]).v
/-- A capped value is written. -/
def Seqr.setS (q : Seqr) (r : SReg) (v : DWord) : Seqr := { q with s := q.s.set r ⟨v, false, none⟩ }
/-- Q0 reads 1 (R254). -/
def Seqr.pred (q : Seqr) (r : QReg) : Bool := r == 0 || q.q[r]
/-- A write of a predicate, with how it was computed while it is uncapped. A write of Q0 is dropped: it is fixed at 1 (R254). -/
def Seqr.setQ (q : Seqr) (r : QReg) (v : Bool) (ex : Option SExpr) : Seqr :=
  if r = 0 then q else { q with q := q.q.set r v, qx := q.qx.set r ex }
/-- The predicate is capped (R264). -/
def Seqr.sure (q : Seqr) (r : QReg) : Bool := r == 0 || (q.qx[r]).isNone
def Seqr.setL (q : Seqr) (r : LReg) (v : BitVec 32) : Seqr := { q with l := q.l.set r v }
def Seqr.setTd (q : Seqr) (r : TdReg) (v : Td) : Seqr := { q with td := q.td.set r v }
def Seqr.tdr (q : Seqr) (r : TdReg) : Td := q.td[r]
/-- An SRED that has issued has still to write the register (R259, R293). -/
def Seqr.pend (q : Seqr) (r : SReg) : Bool := (q.s[r]).pend
/-- The register has no capped value yet (R264). -/
def Seqr.isOpen (q : Seqr) (r : SReg) : Bool := (q.s[r]).pend || (q.s[r]).ex.isSome

/-- An F32 result: bits [63:32] are 0 (R290). -/
def ofF32 (w : Word) : DWord := w.zeroExtend 64

/-- A capped scalar. -/
def Scal.capped (v : DWord) : Scal := ⟨v, false, none⟩
/-- The second operand of an integer operation: the immediate is sign-extended (R290). -/
def Seqr.srcInt (q : Seqr) : SrcB → Scal
  | .reg s => q.s[s]
  | .imm v => .capped (v.signExtend 64)
/-- The second operand of a float operation: the immediate is F32 bits (R290). -/
def Seqr.srcF32 (q : Seqr) : SrcB → Scal
  | .reg s => q.s[s]
  | .imm v => .capped (ofF32 v)
/-- The second operand waits for an SRED. -/
def Seqr.srcPend (q : Seqr) : SrcB → Bool
  | .reg s => q.pend s
  | .imm _ => false
/-- A predicate as a scalar: 0 or 1. -/
def Seqr.predS (q : Seqr) (r : QReg) : Scal := ⟨if q.pred r then 1 else 0, false, if r == 0 then none else q.qx[r]⟩

/-! ### Scalar functions, and values that are uncapped (R49, R264, R290, R291) -/

/-- A function of two F32 numbers, each in bits [31:0]. -/
def onF32 (f : Word → Word → Word) (a b : DWord) : DWord := ofF32 (f (low32 a) (low32 b))

/-- What each function computes (R290, R291); those of one operand leave `b` aside, and a comparison or a logic function gives 0 or 1. -/
def SFn.eval (f : SFn) (a b : DWord) : DWord :=
  match f with
  | .mov => a
  | .high imm => BitVec.ofNat 64 (imm.toNat * 2 ^ 32 + a.toNat % 2 ^ 32)
  | .add => a + b | .sub => a - b | .mul => a * b
  | .div => if b = 0 then 0 else a / b
  | .and => a &&& b | .or => a ||| b | .xor => a ^^^ b
  | .shl => a <<< (b.toNat % 64) | .shr => a >>> (b.toNat % 64) | .sra => a.sshiftRight (b.toNat % 64)
  | .fadd => onF32 f32Add a b | .fsub => onF32 f32Sub a b | .fmul => onF32 f32Mul a b | .fdiv => onF32 f32Div a b
  | .fmax => onF32 f32Max a b | .fmin => onF32 f32Min a b
  | .fsqrt => ofF32 (f32Sqrt (low32 a))
  | .fcvti => BitVec.ofNat 64 (toIntCode 64 0 (f32Val (low32 a))).code
  | .icvtf => ofF32 (f32OfScaled a.toInt 0)
  | .cmp k => if condHolds k a b then 1 else 0
  | .log t => if plogBit t (a != 0) (b != 0) then 1 else 0

/-- The value so far. -/
def SExpr.eval : SExpr → DWord
  | .cap v => v
  | .sum _ _ v => v
  | .app f a b => f.eval a.eval b.eval

/-- A sum among the sources is still uncapped. -/
def SExpr.isOpen : SExpr → Bool
  | .cap _ => false
  | .sum _ _ _ => true
  | .app _ a b => a.isOpen || b.isOpen

/-- The results of the sum of an opidx take new values. -/
def SExpr.refresh (n : Nat) (f : Nat → DWord) : SExpr → SExpr
  | .cap v => .cap v
  | .sum m k v => if m = n then .sum m k (f k) else .sum m k v
  | .app g a b => .app g (a.refresh n f) (b.refresh n f)

/-- The results of the sum of an opidx are capped. -/
def SExpr.settle (n : Nat) : SExpr → SExpr
  | .cap v => .cap v
  | .sum m k v => if m = n then .cap v else .sum m k v
  | .app g a b => .app g (a.settle n) (b.settle n)

/-- A scalar as a source. -/
def Scal.expr (x : Scal) : SExpr := x.ex.getD (.cap x.v)
/-- How a result of two scalars is computed, while one of them is uncapped (R49). -/
def Scal.exWith (f : SFn) (a b : Scal) : Option SExpr := if a.ex.isNone && b.ex.isNone then none else some (.app f a.expr b.expr)
/-- The result of a function, uncapped if an operand is (R49, R264). -/
def Scal.app (f : SFn) (a b : Scal) : Scal := ⟨f.eval a.v b.v, false, Scal.exWith f a b⟩
/-- An uncapped scalar after a sum's results take new values. -/
def Scal.refresh (n : Nat) (f : Nat → DWord) (x : Scal) : Scal :=
  match x.ex with
  | none => x
  | some e => { x with v := (e.refresh n f).eval, ex := some (e.refresh n f) }
/-- An uncapped scalar after a sum is capped: it is capped with the last of its sources, without being computed again (R49). -/
def Scal.settle (n : Nat) (x : Scal) : Scal :=
  match x.ex with
  | none => x
  | some e => { x with ex := if (e.settle n).isOpen then some (e.settle n) else none }

/-- Every scalar and predicate of the sequencer through a function. -/
def Seqr.mapScal (f : Scal → Scal) (q : Seqr) : Seqr :=
  let ps : Vector Scal 8 := Vector.ofFn (fun (i : Fin 8) => f ⟨if q.q[i] then 1 else 0, false, q.qx[i]⟩)
  { q with s := q.s.map f, q := ps.map (fun x => x.v != 0), qx := ps.map Scal.ex }
/-- The scalars with which a product issued, through a function. -/
def InfOp.mapScal (f : Scal → Scal) : InfOp → InfOp
  | .mma d s w k o rd es g => .mma d s w k { o with scale := o.scale.map f, lo := f o.lo, hi := f o.hi } rd es g
  | x => x

/-! ### Issue -/

def Comb.modSeq (c : Comb) (f : Seqr → Seqr) : Comb := { c with seq := f c.seq }
def Block.seq (b : Block) (c : CombId) : Seqr := (b.comb c).seq
def Block.modSeq (b : Block) (c : CombId) (f : Seqr → Seqr) : Block := b.modComb c (fun x => x.modSeq f)

/-- The partition whose step comb `c` runs, with that step (R20). -/
def Block.stepOf (b : Block) (c : CombId) : Option (PartId × StepRun) :=
  match (b.comb c).part with
  | none => none
  | some p =>
    match (b.part p).run with
    | none => none
    | some r => if r.comb = c then some (p, r) else none

/-- A barrier of the step has not completed (R292). -/
def StepRun.inBarrier (r : StepRun) : Bool :=
  r.launches.any (fun l => match l with | .barrier _ => true | _ => false) ||
  r.buzz.any (fun o => match o.why with | .barrier _ => !o.capped | _ => false)

/-- Comb `c` may issue: its step runs, no abort has been met (R265), the program copy was read without an uncorrectable error (R403), a
joining chip's agreement has completed (R194), and no barrier is under way (R292). -/
def Block.mayIssue (b : Block) (c : CombId) : Bool :=
  match b.stepOf c with
  | none => false
  | some (p, r) => (b.comb c).svc == .running && r.abort.isNone && !r.progBad && !b.kettle.stopped && (r.agreed || !(b.part p).joining) && !r.inBarrier

/-- The predicate holds: Q[pq] xor pneg (R270). -/
def Seqr.takes (q : Seqr) (p : Pr) : Bool := q.pred p.q != p.neg

/-- The next instruction follows. -/
def Seqr.next (q : Seqr) : Seqr := { q with pc := q.pc + 1 }

/-- An instruction of comb `c` has issued: what it leaves in the sequencer, and the KT of the issue, which the watchdog watches (R331). -/
def Block.modIssue (b : Block) (c : CombId) (f : Seqr → Seqr) : Block :=
  b.modComb c (fun x => { x with seq := f x.seq, lastIssue := b.now })

/-- The comb may issue an instruction with this predicate: one that is uncapped is waited for (R264). -/
def Block.mayTake (b : Block) (c : CombId) (p : Pr) : Bool := b.mayIssue c && (b.seq c).sure p.q

/-- The issue of an instruction that falls through: nothing while the comb may not issue; the pc alone when the predicate is false
(R270); nothing while the instruction must wait (R259, R264); else its effect, then the pc. -/
def Block.issue (b : Block) (c : CombId) (p : Pr) (wait : Seqr → Bool) (f : Block → Block) : Block :=
  if !b.mayTake c p then b
  else if !(b.seq c).takes p then b.modIssue c Seqr.next
  else if wait (b.seq c) then b
  else (f b).modIssue c Seqr.next

/-- An instruction that changes registers of the sequencer alone. -/
def State.issueSeq (s : State) (c : CombId) (p : Pr) (wait : Seqr → Bool) (f : Seqr → Seqr) : Host.Outcome State Fault Refusal :=
  s.act (fun b => b.issue c p wait (fun b => b.modSeq c f))

/-- A one-operand scalar instruction (R290). -/
def State.scalar1 (s : State) (c : CombId) (p : Pr) (sd sa : SReg) (f : SFn) : Host.Outcome State Fault Refusal :=
  s.issueSeq c p (fun q => q.pend sa || q.pend sd) (fun q => { q with s := q.s.set sd (Scal.app f q.s[sa] (.capped 0)) })

/-- A two-operand integer instruction (R290). -/
def State.scalarInt (s : State) (c : CombId) (p : Pr) (sd sa : SReg) (b : SrcB) (f : SFn) : Host.Outcome State Fault Refusal :=
  s.issueSeq c p (fun q => q.pend sa || q.srcPend b || q.pend sd) (fun q => { q with s := q.s.set sd (Scal.app f q.s[sa] (q.srcInt b)) })

/-- A two-operand float instruction (R290). -/
def State.scalarF32 (s : State) (c : CombId) (p : Pr) (sd sa : SReg) (b : SrcB) (f : SFn) : Host.Outcome State Fault Refusal :=
  s.issueSeq c p (fun q => q.pend sa || q.srcPend b || q.pend sd) (fun q => { q with s := q.s.set sd (Scal.app f q.s[sa] (q.srcF32 b)) })

end Sys2Proof.Machine
end

