-- ==== Sys2Proof/Machine/BrewScalar.lean ====
section
/-! DEFINITION. The scalar and control instructions of Brew (R275, R290, R291), FENCE apart. -/

namespace Sys2Proof.Machine
open Sys2Proof

/-- The result of every meaning. -/
abbrev Out := Host.Outcome State Fault Refusal

/-! ### Control flow (R275) -/

/-- NOP does nothing. -/
def execNop (c : CombId) (p : Pr) (s : State) : Out := s.issueSeq c p (fun _ => false) id

/-- BR: to the target when the predicate, which is waited for while it is uncapped (R264), holds, else onwards. -/
def execBr (c : CombId) (p : Pr) (target : BitVec 15) (s : State) : Out :=
  s.act (fun b => if b.mayTake c p then b.modIssue c (fun q => if q.takes p then { q with pc := target } else q.next) else b)

/-- LOOP: L above 1 falls by one and control goes to the target; otherwise L becomes 0 and control falls through. -/
def execLoop (c : CombId) (k : LReg) (target : BitVec 15) (s : State) : Out :=
  s.act (fun b => if b.mayIssue c then b.modIssue c (fun q =>
    if (q.l[k]).toNat > 1 then { q.setL k (q.l[k] - 1) with pc := target } else (q.setL k 0).next) else b)

/-- LSET: the count is the immediate, or bits [31:0] of a scalar, capped (R264). -/
def execLset (c : CombId) (p : Pr) (k : LReg) (src : LSrc) (s : State) : Out :=
  s.issueSeq c p (fun q => match src with | .imm _ => false | .reg r => q.isOpen r)
    (fun q => q.setL k (match src with | .imm v => v | .reg r => low32 (q.sreg r)))

/-! ### Scalars (R290) -/

/-- SLI: the immediate, sign-extended. -/
def execSli (c : CombId) (p : Pr) (sd : SReg) (imm : BitVec 32) (s : State) : Out :=
  s.issueSeq c p (fun q => q.pend sd) (fun q => q.setS sd (imm.signExtend 64))

/-- SLIH: bits [63:32] become the immediate. -/
def execSlih (c : CombId) (p : Pr) (sd : SReg) (imm : BitVec 32) (s : State) : Out :=
  s.scalar1 c p sd sd (.high imm)

/-- SMOV. -/
def execSmov (c : CombId) (p : Pr) (sd : SReg) (sa : SReg) (s : State) : Out := s.scalar1 c p sd sa .mov

/-- SADD. -/
def execSadd (c : CombId) (p : Pr) (sd : SReg) (sa : SReg) (b : SrcB) (s : State) : Out :=
  s.scalarInt c p sd sa b .add

/-- SSUB. -/
def execSsub (c : CombId) (p : Pr) (sd : SReg) (sa : SReg) (b : SrcB) (s : State) : Out :=
  s.scalarInt c p sd sa b .sub

/-- SMUL, the low 64 bits of the product. -/
def execSmul (c : CombId) (p : Pr) (sd : SReg) (sa : SReg) (b : SrcB) (s : State) : Out :=
  s.scalarInt c p sd sa b .mul

/-- SDIV, unsigned; 0 when b = 0. -/
def execSdiv (c : CombId) (p : Pr) (sd : SReg) (sa : SReg) (b : SrcB) (s : State) : Out :=
  s.scalarInt c p sd sa b .div

/-- SAND. -/
def execSand (c : CombId) (p : Pr) (sd : SReg) (sa : SReg) (b : SrcB) (s : State) : Out :=
  s.scalarInt c p sd sa b .and

/-- SOR. -/
def execSor (c : CombId) (p : Pr) (sd : SReg) (sa : SReg) (b : SrcB) (s : State) : Out :=
  s.scalarInt c p sd sa b .or

/-- SXOR. -/
def execSxor (c : CombId) (p : Pr) (sd : SReg) (sa : SReg) (b : SrcB) (s : State) : Out :=
  s.scalarInt c p sd sa b .xor

/-- SSHL by b [5:0]. -/
def execSshl (c : CombId) (p : Pr) (sd : SReg) (sa : SReg) (b : SrcB) (s : State) : Out :=
  s.scalarInt c p sd sa b .shl

/-- SSHR, zero-filled, by b [5:0]. -/
def execSshr (c : CombId) (p : Pr) (sd : SReg) (sa : SReg) (b : SrcB) (s : State) : Out :=
  s.scalarInt c p sd sa b .shr

/-- SSRA, sign-filled, by b [5:0]. -/
def execSsra (c : CombId) (p : Pr) (sd : SReg) (sa : SReg) (b : SrcB) (s : State) : Out :=
  s.scalarInt c p sd sa b .sra

/-- FADD. -/
def execFadd (c : CombId) (p : Pr) (sd : SReg) (sa : SReg) (b : SrcB) (s : State) : Out := s.scalarF32 c p sd sa b .fadd

/-- FSUB. -/
def execFsub (c : CombId) (p : Pr) (sd : SReg) (sa : SReg) (b : SrcB) (s : State) : Out := s.scalarF32 c p sd sa b .fsub

/-- FMUL. -/
def execFmul (c : CombId) (p : Pr) (sd : SReg) (sa : SReg) (b : SrcB) (s : State) : Out := s.scalarF32 c p sd sa b .fmul

/-- FDIV. -/
def execFdiv (c : CombId) (p : Pr) (sd : SReg) (sa : SReg) (b : SrcB) (s : State) : Out := s.scalarF32 c p sd sa b .fdiv

/-- FMAX. -/
def execFmax (c : CombId) (p : Pr) (sd : SReg) (sa : SReg) (b : SrcB) (s : State) : Out := s.scalarF32 c p sd sa b .fmax

/-- FMIN. -/
def execFmin (c : CombId) (p : Pr) (sd : SReg) (sa : SReg) (b : SrcB) (s : State) : Out := s.scalarF32 c p sd sa b .fmin

/-- FSQRT. -/
def execFsqrt (c : CombId) (p : Pr) (sd : SReg) (sa : SReg) (s : State) : Out := s.scalar1 c p sd sa .fsqrt

/-- FCVTI: to a signed 64-bit integer by RNE, saturated to ±(2^63 − 1); NaN gives 0. -/
def execFcvti (c : CombId) (p : Pr) (sd : SReg) (sa : SReg) (s : State) : Out :=
  s.scalar1 c p sd sa .fcvti

/-- ICVTF: a signed 64-bit integer to F32 by RNE. -/
def execIcvtf (c : CombId) (p : Pr) (sd : SReg) (sa : SReg) (s : State) : Out := s.scalar1 c p sd sa .icvtf

/-! ### Predicates (R291) -/

/-- SCMP. -/
def execScmp (c : CombId) (p : Pr) (qd : QReg) (sa : SReg) (sb : SReg) (cond : Cond) (s : State) : Out :=
  s.issueSeq c p (fun q => q.pend sa || q.pend sb) (fun q =>
    let x := Scal.app (.cmp cond) q.s[sa] q.s[sb]
    q.setQ qd (x.v != 0) x.ex)

/-- PLOG. -/
def execPlog (c : CombId) (p : Pr) (qd : QReg) (qa : QReg) (qb : QReg) (table : BitVec 4) (s : State) : Out :=
  s.issueSeq c p (fun _ => false) (fun q =>
    let x := Scal.app (.log table) (q.predS qa) (q.predS qb)
    q.setQ qd (x.v != 0) x.ex)

end Sys2Proof.Machine
end

