-- ==== Sys2Proof/Machine/Mem.lean ====
section
/-! DEFINITION. Byte memory as a list in canonical form: reads, writes, and the form itself. `d` is what an unlisted address reads as:
`some 0` in a comb buffer (R276), `none` in a codebook, of which nothing is read before it has been written (R139). -/

namespace Sys2Proof.Machine
open Sys2Proof

/-- The byte at address `a`. -/
def Mem.read (d : Option Byte) : Mem → Nat → Option Byte
  | [], _ => d
  | c :: t, a => if c.1 = a then some c.2 else if a < c.1 then d else Mem.read d t a

/-- The byte at address `a` becomes `v`. -/
def Mem.write (d : Option Byte) : Mem → Nat → Byte → Mem
  | [], a, v => if some v = d then [] else [(a, v)]
  | c :: t, a, v =>
    if c.1 = a then (if some v = d then t else (a, v) :: t)
    else if a < c.1 then (if some v = d then c :: t else (a, v) :: c :: t)
    else c :: Mem.write d t a v

/-- Every address of the list exceeds `a`. -/
def Memory.above (a : Nat) : Mem → Bool
  | [] => true
  | c :: t => decide (a < c.1) && Memory.above a t

/-- The canonical form: addresses rise strictly, and no entry equals what an unlisted address reads as. -/
def Memory.wf (d : Option Byte) : Mem → Bool
  | [] => true
  | c :: t => Memory.above c.1 t && decide (some c.2 ≠ d) && Memory.wf d t

/-- `n` bytes from address `a`; an address that reads as nothing gives 0x00. -/
def Mem.bytes (d : Option Byte) (m : Mem) (a n : Nat) : List Byte :=
  (List.range n).map (fun i => (Mem.read d m (a + i)).getD 0)

/-- The bytes stored from address `a` upward. -/
def Mem.store (d : Option Byte) (m : Mem) : Nat → List Byte → Mem
  | _, [] => m
  | a, v :: vs => Mem.store d (Mem.write d m a v) (a + 1) vs

/-- F32 element `i` of a comb buffer (R276). -/
def Mem.word (m : Mem) (i : Nat) : Word := BitVec.ofNat 32 (leNat (Mem.bytes (some 0) m (4 * i) 4))

/-- F32 element `i` of a comb buffer written (R276). -/
def Mem.setWord (m : Mem) (i : Nat) (v : Word) : Mem := Mem.store (some 0) m (4 * i) (leBytes 4 v.toNat)

/-- Elements written from element `i` upward. -/
def Mem.setWords (m : Mem) : Nat → List Word → Mem
  | _, [] => m
  | i, v :: vs => Mem.setWords (Mem.setWord m i v) (i + 1) vs

end Sys2Proof.Machine
end

