-- ==== Sys2Proof/Machine/LinkOps.lean ====
section
/-! DEFINITION. Message heads (R204, R205), the egress queues of a link, routing and held flits (R185), acceptance of sequenced and
buzz messages (R210, R211), acknowledgement and resend (R212), credits (R215), and a link's departure from service (R187, R226). -/

namespace Sys2Proof.Machine
open Sys2Proof

/-! ### Heads -/

/-- The class fields of a bulk head (R204). -/
structure BulkHead where
  tensor : Nat
  round : Nat
  phase : Nat
  part : Nat
  redo : Nat
  offset : Nat
deriving DecidableEq, Repr

/-- The class fields of a buzz head (R204). -/
structure BuzzHead where
  op : Nat
  redo : Nat
  opidx : Nat
  contributor : Coord
deriving DecidableEq, Repr

/-- A head flit but for bseq and mcrc (R204). -/
def headBytes (cls len : Nat) (dst org : Coord) (part epoch : Nat) (join : Bool) (fields : List Byte) : List Byte :=
  [byteOf cls, byteOf (ceilDiv len 64)] ++ leBytes 2 len ++ leBytes 4 dst.toNat ++ leBytes 4 org.toNat ++
  [0, byteOf part, byteOf epoch, byteOf (128 * b2n join)] ++ padTo 16 fields ++ zeros 32

/-- The class fields of a bulk message as bytes. -/
def BulkHead.bytes (h : BulkHead) : List Byte :=
  leBytes 2 h.tensor ++ leBytes 2 h.round ++ [byteOf h.phase, byteOf h.part, byteOf h.redo, 0] ++ leBytes 4 h.offset ++ zeros 4
/-- The class fields of a buzz message as bytes. -/
def BuzzHead.bytes (h : BuzzHead) : List Byte :=
  [byteOf h.op, byteOf h.redo] ++ leBytes 2 h.opidx ++ leBytes 4 h.contributor.toNat ++ zeros 8

def hdClass (h : List Byte) : Nat := field h 0 1
def hdNbody (h : List Byte) : Nat := field h 1 1
def hdLen (h : List Byte) : Nat := field h 2 2
def hdDst (h : List Byte) : Coord := coordOf (field h 4 4)
def hdOrg (h : List Byte) : Coord := coordOf (field h 8 4)
def hdNext (h : List Byte) : Nat := field h 0x0C 1
def hdPart (h : List Byte) : PartId := Fin.ofNat 128 (field h 0x0D 1)
def hdEpoch (h : List Byte) : Nat := field h 0x0E 1
def hdJoin (h : List Byte) : Bool := bitAt (field h 0x0F 1) 7
def hdBulk (h : List Byte) : BulkHead :=
  ⟨field h 0x10 2, field h 0x12 2, field h 0x14 1, field h 0x15 1, field h 0x16 1, field h 0x18 4⟩
def hdBuzz (h : List Byte) : BuzzHead :=
  ⟨field h 0x10 1, field h 0x11 1, field h 0x12 2, coordOf (field h 0x14 4)⟩

/-- The buzz operation codes (R232). -/
def buzzOpOk (op : Nat) : Bool := (decide (1 ≤ op) && decide (op ≤ 8)) || op == 0x10 || op == 0x11

/-- The rules of the tables of R204 for a head of class `cls`. -/
def headOk (cls : Nat) (h : List Byte) : Bool :=
  let len := hdLen h
  let maxLen := if cls = 1 then 64 else if cls = 4 then 256 else 4096
  h.length == 64 && hdClass h == cls && decide (1 ≤ len) && decide (len ≤ maxLen) && hdNbody h == ceilDiv len 64 &&
  decide (field h 4 4 < 2 ^ 18) && decide (field h 8 4 < 2 ^ 18) &&
  (if bitAt (hdNext h) 7 then decide (hdNext h % 128 < 42) else hdNext h == 0) &&
  decide (field h 0x0D 1 < 128) && field h 0x0F 1 % 128 == 0 && allZero (slice h 0x20 24) && field h 0x3A 2 == 0 &&
  (match cls with
   | 1 => buzzOpOk (hdBuzz h).op && decide (field h 0x14 4 < 2 ^ 18) && allZero (slice h 0x18 8) && decide (field h 0x38 2 < 4096) &&
          (!hdJoin h || ((hdBuzz h).opidx == 0 && (hdBuzz h).op == 8))
   | 2 => field h 0x17 1 == 0 && decide ((hdBulk h).phase ≤ 5) && decide ((hdBulk h).part ≤ 7) && (hdBulk h).offset % 64 == 0 &&
          field h 0x1C 4 == 0 && !hdJoin h && field h 0x38 2 == 0 && field h 0x3C 4 == 0
   | 3 => field h 0x14 4 == 0 && field h 0x18 4 % 64 == 0 && !hdJoin h && field h 0x38 2 == 0 && field h 0x3C 4 == 0
   | _ => field h 0x0D 1 == 0 && hdEpoch h == 0 && !hdJoin h && ((field h 0x10 1 == 1 && len == 16) || (field h 0x10 1 == 2 && len == 4)) &&
          allZero (slice h 0x11 15) && field h 0x38 2 == 0 && field h 0x3C 4 == 0)

/-- The head with its next field rewritten (R185, R221). -/
def withNext (h : List Byte) (tag : Option Nat) : List Byte :=
  h.take 0x0C ++ [match tag with | some l => byteOf (128 + l) | none => 0] ++ h.drop 0x0D

/-- A buzz head with its number and its mcrc (R206, R209). -/
def withBseq (h : List Byte) (n : BitVec 12) (body : List Byte) : List Byte :=
  let h := h.take 0x38 ++ leBytes 2 n.toNat ++ zeros 2
  h ++ leBytes 4 (crc32 (h ++ padTo 64 body))

/-! ### Classes -/

/-- The count of class 1 to 4 (buzz, bulk, parcel, tunnel). -/
def Four.get (f : Four) : Nat → Nat
  | 1 => f.buzz | 2 => f.bulk | 3 => f.parcel | _ => f.tunnel
/-- The count of a class changed. -/
def Four.map (f : Four) (cls : Nat) (g : Nat → Nat) : Four :=
  match cls with
  | 1 => { f with buzz := g f.buzz } | 2 => { f with bulk := g f.bulk } | 3 => { f with parcel := g f.parcel }
  | _ => { f with tunnel := g f.tunnel }
/-- Two fours, class by class. -/
def Four.zip (g : Nat → Nat → Nat) (a b : Four) : Four :=
  ⟨g a.buzz b.buzz, g a.bulk b.bulk, g a.parcel b.parcel, g a.tunnel b.tunnel⟩

/-! ### Egress -/

/-- A message joins the queue of its class at link `l` (R217 to R220); `who` is its participant of R219. -/
def Link.enqueue (x : Link) (cls who : Nat) (head body : List Byte) : Link :=
  let m : TxMsg := ⟨who, head, (chunks 64 body).map (padTo 64)⟩
  let t := x.tx
  { x with tx := match cls with
      | 1 => { t with qBuzz := t.qBuzz ++ [(head, padTo 64 body)] }
      | 2 => { t with qBulk := t.qBulk ++ [m] }
      | 3 => { t with qParcel := t.qParcel ++ [m] }
      | _ => { t with qTunnel := t.qTunnel ++ [m] } }

/-! ### Requests for power (R388, R389, R392) -/

/-- The group of a link (R13). -/
def groupOf (l : LinkId) : DimId := Fin.ofNat 6 (linkDim l)

/-- A link group's power changed. -/
def Block.modGroup (b : Block) (d : DimId) (f : Group → Group) : Block :=
  { b with pwr := { b.pwr with groups := b.pwr.groups.set d (f b.pwr.groups[d]) } }

/-- The power-state manager requests at least Simmer for group `d` (R389). -/
def Block.mustSimmer (b : Block) (d : DimId) : Bool :=
  allParts.any (fun p => b.engaged p && decide (1 < extent (b.part p).vset d)) ||
  (decide (descSpareDim b.boot.machine = d.val) && !b.remap.assumes.isEmpty) || (b.pwr.groups[d]).holdUntil.isSome

/-- The group's request rises to `x` where it is deeper, and a group that the chip does not hold Cold (R183) wakes where a link of it is
deeper; a wake that arrives during an entry waits for its end (R385). -/
def Block.raiseGroup (b : Block) (d : DimId) (x : Pwr) : Block :=
  if x.code < (b.pwr.groups[d]).request.code ∧ 1 < descPhysical b.boot.machine d then
    let worst := (((groupLinks d).filter (fun l => !b.linkAbsent l)).map (fun l => (b.link l).pwr.code)).foldl Nat.max 0
    b.modGroup d (fun g =>
      if x.code < worst then
        { g with request := x, waking := true
                 due := if g.waking ∨ g.entering.isSome then g.due else b.now + wakeKt (Pwr.ofCode worst) }
      else { g with request := x })
  else b

/-- Requests rise with what R389 names. -/
def Block.raiseRequests (b : Block) : Block :=
  (List.finRange 6).foldl (fun b d => if b.serving && b.mustSimmer d then b.raiseGroup d .simmer else b) b

/-- A flit waits for a route (R185 step 4). Where a parked link keeps it from one, that link's group has its request raised to Boil (R392): the
direct link of a dimension in which the flit has still to move, or, in the lowest of them, any link of the line that could begin a detour. -/
def Block.holdFlit (b : Block) (who : Nat) (head body : List Byte) : Block :=
  let q := hdDst head
  let me := b.boot.physCoord
  let ds := diffDims me q
  let b := { b with heldFlits := b.heldFlits ++ [(who, head, [body])] }
  ds.foldl (fun b d =>
    let l : LinkId := Fin.ofNat 42 (linkTo (Coord.digit me d) d (Coord.digit q d))
    let detour := ds.head? == some d && (groupLinks (groupOf l)).any (fun k => (b.link k).parked)
    if (b.link l).parked || detour then b.raiseGroup (groupOf l) .boil else b) b

/-- A message sent on towards the physical coordinate of its head (R185). One that is for this chip itself is not sent. -/
def Block.sendMsg (b : Block) (who : Nat) (head body : List Byte) : Block :=
  let r := b.route (hdDst head)
  match r.1 with
  | .deliver => r.2
  | .hold => r.2.holdFlit who (withNext head none) body
  | .send l tag => r.2.modLink (Fin.ofNat 42 l) (fun x => x.enqueue (hdClass head) who (withNext head tag) body)

/-- A message is passed on (R185, R186): on the link that its head tags for this hop where that is in service, or routed afresh. -/
def Block.relayMsg (b : Block) (who : Nat) (head body : List Byte) : Block :=
  let n := hdNext head
  if bitAt n 7 ∧ b.up (n % 128) then b.modLink (Fin.ofNat 42 (n % 128)) (fun x => x.enqueue (hdClass head) who (withNext head none) body)
  else b.sendMsg who head body

/-- Flits held for want of a route are routed again (R185). -/
def Block.releaseHeld (b : Block) : Block :=
  let hs := b.heldFlits
  hs.foldl (fun b h => b.sendMsg h.1 h.2.1 (h.2.2.flatten)) { b with heldFlits := [] }

/-! ### Parcel moves (R320, R187) -/

/-- A head flit of this chip's own parcel move. -/
def Block.ownParcel (b : Block) (id : Nat) (h : List Byte) : Bool := hdClass h == 3 && hdOrg h == b.boot.physCoord && field h 0x10 4 == id

/-- The messages of a move that have not begun leave the queues. -/
def Block.dropParcel (b : Block) (id : Nat) : Block :=
  { b with links := Vector.ofFn (fun (l : LinkId) =>
             { b.link l with tx := { (b.link l).tx with qParcel := (b.link l).tx.qParcel.filter (fun m => !b.ownParcel id m.head) } })
           heldFlits := b.heldFlits.filter (fun h => !b.ownParcel id h.2.1) }

/-- A move's frame leaves as parcel messages from its first byte (R203, R204). -/
def Block.sendParcel (b : Block) (m : ParcelMove) : Block :=
  ((chunks 4096 (m.bytes.flatMap Prod.snd)).zipIdx).foldl (fun b q =>
    let h := headBytes 3 q.1.length (b.physOf m.dst) b.boot.physCoord m.part ((b.part m.part).stepCnt.toNat % 256) false
      (leBytes 4 m.id ++ zeros 4 ++ leBytes 4 (4096 * q.2) ++ leBytes 4 m.total)
    b.sendMsg m.part h q.1) b

/-! ### Ingress -/

/-- A link-control flit is due (R208). -/
def Link.lcDue (x : Link) : Link := { x with lc := { x.lc with due := true } }

/-- The sequenced space meets a failed or gap slot: a NAK event, once until the expected number arrives (R212). -/
def Link.nak (x : Link) : Link :=
  if x.rx.nakWait then x
  else ({ x with rx := { x.rx with nakEv := x.rx.nakEv + 1, nakSeq := x.rx.exp, nakWait := true } }).lcDue

/-- The buzz space meets a failed or gap message (R212). -/
def Link.bnak (x : Link) : Link :=
  if x.rx.bnakWait then x
  else ({ x with rx := { x.rx with bnakEv := x.rx.bnakEv + 1, bnakSeq := x.rx.bexp, bnakWait := true } }).lcDue

/-- Accepted flits leave their buffer for the router: their credits return (R215). -/
def Link.giveBack (x : Link) (cls flits : Nat) : Link :=
  ({ x with rx := { x.rx with held := x.rx.held.map cls (· - flits), ret := x.rx.ret.map cls (fun r => (r + flits) % 2 ^ 16) } }).lcDue

/-- What becomes of an arriving buzz message (R210, R211, R215, R227). -/
inductive Verdict where
  | accept | discard
  /-- the link leaves service with the code -/
  | leave (code : Nat)
deriving DecidableEq, Repr

/-- What the decoder found is counted (R228). -/
def Link.fec (x : Link) (f : Fec) : Link :=
  { x with cnt := { x.cnt with fecCorr := satAdd x.cnt.fecCorr f.corr, fecUncorr := satAdd x.cnt.fecUncorr f.uncorr
                               crcErr := satAdd x.cnt.crcErr f.crc } }

/-- The group of link `l` has traffic now: slots other than idle and link-control pass (R390, R391). -/
def Block.busyGroup (b : Block) (l : LinkId) : Block := b.modGroup (groupOf l) (fun g => { g with idleSince := b.now })

/-- A Simmer link is at Boil again (R390), and its next free slot says so. -/
def Link.ungate (x : Link) : Link := if x.st = .inService ∧ x.pwr = .simmer then ({ x with pwr := .boil }).lcDue else x

/-- An end leaves Simmer (R390): it requests Boil for the group, whose Simmer links ungate. -/
def Block.simmerExit (b : Block) (l : LinkId) : Block :=
  let x := b.link l
  if x.st = .inService ∧ x.pwr = .simmer then
    let b := b.modGroup (groupOf l) (fun g => { g with request := .boil, boilAt := b.now })
    (groupLinks (groupOf l)).foldl (fun b l => b.modLink l Link.ungate) b
  else b

/-- What a flit of the sequenced space does as it is accepted (R203, R204, R210): it begins a message, goes on with one, or ends it. A head flit
that comes before the message of its class is complete, a body flit that follows no head, and a head that breaks Table: Message head flit are
malformed (the first two DEDUCED, log entry 68). -/
inductive Joined where
  | more (p : Partial)
  | whole (head body : List Byte)
  | bad
deriving DecidableEq, Repr

/-- The message of class `cls` that a link has accepted in part. -/
def LinkRx.partOf (r : LinkRx) (cls : Nat) : Option Partial := r.part.find? (fun p => p.cls == cls)

/-- An accepted flit joins its message. -/
def LinkRx.join (r : LinkRx) (cls : Nat) (first : Bool) (bytes : List Byte) : Joined :=
  match first, r.partOf cls with
  | true, none => if headOk cls bytes then .more ⟨cls, bytes, []⟩ else .bad
  | false, some p =>
    let body := p.body ++ padTo 64 bytes
    if body.length = 64 * hdNbody p.head then .whole p.head (body.take (hdLen p.head)) else .more { p with body := body }
  | _, _ => .bad

/-- What the flits of an arriving message have come to: the messages accepted whole, and the code with which the link leaves service. -/
structure Arrival where
  link : Link
  whole : List (List Byte × List Byte)
  leave : Option Nat
deriving DecidableEq, Repr

/-- One flit of the sequenced space arrives (R209 to R211, R215): `ok` says that it passed its checks. Only a link in service accepts it
(R227). -/
def Arrival.flit (a : Arrival) (cls : Nat) (s : BitVec 12) (first ok : Bool) (bytes : List Byte) : Arrival :=
  let x := a.link
  let d := (s - x.rx.exp).toNat
  if x.st ≠ .inService ∨ a.leave.isSome then a
  else if !ok then { a with link := x.nak }
  else if d = 0 then
    if grants.get cls < x.rx.held.get cls + 1 then { a with leave := some 0x0206 }
    else
      let r := { x.rx with exp := x.rx.exp + 1, nakWait := false, held := x.rx.held.map cls (· + 1), part := x.rx.part.filter (fun p => p.cls != cls) }
      let x' (r : LinkRx) : Link := ({ x with rx := r, cnt := { x.cnt with rxBytes := wrapAdd x.cnt.rxBytes 64 } }).lcDue
      match x.rx.join cls first bytes with
      | .bad => { a with leave := some 0x0209 }
      | .more p => { a with link := x' { r with part := p :: r.part } }
      | .whole h b => { a with link := x' r, whole := a.whole ++ [(h, b)] }
  else if d ≤ 1023 then { a with link := x.nak }
  else if 3072 ≤ d then { a with link := { x with cnt := { x.cnt with dup := wrapAdd x.cnt.dup 1 } } }
  else { a with leave := some 0x0207 }

/-- The flits that a command brings: whether each is a head flit, and its bytes. -/
def rxFlits (m : RxMsg) : List (Bool × List Byte) :=
  (if m.skip = 0 then [(true, m.head)] else []) ++ (chunks 64 m.body).map (fun c => (false, c))

/-- The flits of a message arrive in order; behind one that failed its checks every other is a gap (R210, R212). -/
def Link.arrive (x : Link) (cls : Nat) (m : RxMsg) : Arrival :=
  (rxFlits m).zipIdx.foldl (fun a q =>
    a.flit cls (m.seq + BitVec.ofNat 12 q.2) q.1.1 (match m.failAt with | some k => decide (q.2 < k) | none => true) q.1.2) ⟨x.fec m.fec, [], none⟩

/-- A buzz message arrives (R210, R211): accepted early on its raw bits, or late on its decoded bits; the flag says confirmed. -/
def Link.arriveBuzz (x : Link) (m : BuzzRx) : Link × Verdict × Bool :=
  let x := x.fec m.fec
  let s := BitVec.ofNat 12 (field m.head 0x38 2)
  let d := (s - x.rx.bexp).toNat
  if x.st ≠ .inService then (x, .discard, false)
  else if !m.raw && !m.ok then (x.bnak, .discard, false)
  else if d = 0 then
    if !headOk 1 m.head then (x, .leave 0x0209, false)
    else if grants.buzz < x.rx.held.buzz + 2 then (x, .leave 0x0206, false)
    else
      let early := m.raw
      let rx := { x.rx with bexp := x.rx.bexp + 1, bnakWait := false, held := x.rx.held.map 1 (· + 2)
                            back := if early then x.rx.back else s
                            unconf := if early then x.rx.unconf ++ [⟨s, m.head, m.body⟩] else x.rx.unconf }
      (({ x with rx := rx, cnt := { x.cnt with rxBytes := wrapAdd x.cnt.rxBytes 128 } }).lcDue, .accept, !early)
  else if d ≤ 63 then (x.bnak, .discard, false)
  else if 4032 ≤ d then ({ x with cnt := { x.cnt with dup := wrapAdd x.cnt.dup 1 } }, .discard, false)
  else (x, .leave 0x0207, false)

/-! ### Leaving service -/

/-- A round of the running step that a bulk head names (R204). -/
def Round.named (r : Round) (h : BulkHead) : Bool := r.tensor == h.tensor && r.rnd == h.round && r.redo == h.redo

/-- Rounds with a flit unacknowledged on a departed link are marked failed (R187, status 0x01 of R244). -/
def StepRun.failRounds (s : StepRun) (hs : List BulkHead) : StepRun :=
  { s with rounds := s.rounds.map (fun r =>
      if hs.any r.named && (r.st == .running || r.st == .done) then { r with linkFail := true } else r) }

/-- Contributions that an unconfirmed message of link `l` brought are discarded with what was derived from them: the operation combines again
from its own operands what is left, and waits for the rest to be sent again; `dims` are its exchanges. A sum that loses one fails with 0x01
(R187, R213, R226). -/
def BuzzOp.dropLink (o : BuzzOp) (l : LinkId) (dims : List Nat) : BuzzOp :=
  let gone (c : Contrib) : Bool := match c.conf with | some q => q.1 == l | none => false
  if o.got.any gone then
    { o with got := o.got.filter (fun c => !gone c), cur := o.own, dims := dims
             failed := o.failed || (decide (2 ≤ o.op) && decide (o.op ≤ 4)) }
  else o

/-- The exchanges of an operation in a group (R233, R235, R237): 8 and above, the combine exchange of a split sum in dimension d − 8. -/
def exchanges (v : VSet) (split : Nat) : List Nat :=
  openDims v ++ (if 1 < split then match splitDim v split with | some d => [8 + d] | none => [] else [])

/-- The effect of a link's departure on the steps that run (R187, R226): `hs` are the heads of the bulk messages that were unacknowledged, or that
this chip discards after accepting a part of them. -/
def Part.linkLost (p : Part) (l : LinkId) (part : PartId) (hs : List (List Byte)) : Part :=
  let stays (m : HeldMsg) : Bool := !(m.conf.isSome && m.link == l)
  let p := { p with heldNext := p.heldNext.filter stays }
  match p.run with
  | none => p
  | some r =>
    let mine := (hs.filter (fun h => hdPart h == part && hdEpoch h == r.stepNo.toNat % 256)).map hdBulk
    let r := r.failRounds mine
    { p with run := some { r with buzz := r.buzz.map (fun o => o.dropLink l (exchanges r.group o.split)), held := r.held.filter stays } }

/-- The partitions whose steps a returning link waits for (R227): active, with extent above 1 in its dimension, with a step in
progress. -/
def Block.standbyWait (b : Block) (l : LinkId) : List Nat :=
  (allParts.filter (fun p => b.active p && decide (1 < extent (b.part p).vset (linkDim l)) && (b.part p).run.isSome)).map Fin.val

/-- The sending end emptied: credits withdrawn to the ledger, buffers cleared (R216, R226). DESIGN CHOICE (log entry 69): the deficits, the
participant last visited and the parcel turn of R219 and R220 outlive the departure. -/
def LinkTx.withdraw (t : LinkTx) : LinkTx :=
  { LinkTx.reset with wdrr := t.wdrr, visited := t.visited, parcelTurn := t.parcelTurn }

/-- The receiving end emptied, but for messages accepted whole that wait; what was accepted only in part goes with its credits (R226). -/
def LinkRx.withdraw (r : LinkRx) : LinkRx := { LinkRx.reset with waiting := r.waiting.map (fun m => (false, m.2)) }

/-- The partition would be active on this chip but for R191: it is defined, its group holds the chip's logical coordinate, and no ASSUME has
mapped that away (R182, R185). -/
def Block.placed (b : Block) (p : PartId) : Bool := b.defined p && inGroup (b.part p).vset b.logCoord && !b.mappedAway

/-- The chip has fallen too far behind every partner it can reach, all of which have reported, or is level again (R191): the partitions that
become active then join (R194). -/
def Block.judgeGen (b : Block) : Block :=
  let near := allLinks.filter (fun l => (b.link l).st == .inService)
  let gens := near.filterMap (fun l => (b.link l).rx.peerGen)
  let top := gens.foldl Nat.max 0
  if b.remap.tooFar then
    if Nat.max b.remap.level top ≤ b.remap.gen then
      { b with remap := { b.remap with tooFar := false, level := 0 }
               parts := Vector.ofFn (fun (p : PartId) => if b.placed p then { b.part p with joining := true } else b.part p) }
    else { b with remap := { b.remap with level := Nat.max b.remap.level top } }
  else if !near.isEmpty ∧ gens.length = near.length ∧ gens.all (fun g => decide (b.remap.gen + 16 < g)) then
    ({ b with remap := { b.remap with tooFar := true, level := top } }).log 0x0135 .kettle none []
  else b

/-- A link in Standby or In service leaves service (R187, R191, R225, R226). `hold` keeps it Cold (0x0208). -/
def Block.leaveService (b : Block) (l : LinkId) (code : Nat) (hold : Bool) : Block :=
  let x := b.link l
  if x.st ≠ .standby ∧ x.st ≠ .inService then b
  else
    let bulk := (x.tx.kept.filter (fun k => hdClass k.head == 2)).map Kept.head ++
      (if x.tx.curBulk.1.isEmpty then [] else [x.tx.curBulk.2]) ++
      ((x.rx.part.filter (fun q => q.cls == 2 && hdDst q.head == b.boot.physCoord)).map Partial.head)
    let resendBuzz := x.tx.keptBuzz.filter (fun m => hdOrg m.head == b.boot.physCoord)
    let parcelIds := (((x.tx.kept.map Kept.head).filter (fun h => hdClass h == 3)) ++
      (if x.tx.curParcel.1.isEmpty then [] else [x.tx.curParcel.2])).filterMap (fun h =>
        if hdOrg h == b.boot.physCoord then some (field h 0x10 4) else none)
    let later : List (Nat × List Byte × List Byte) :=
      x.tx.qBuzz.map (fun q => (128, q.1, q.2)) ++
      (x.tx.qBulk ++ x.tx.qParcel ++ x.tx.qTunnel).map (fun m => (m.who, m.head, (m.body.flatten).take (hdLen m.head)))
    let b := b.setLink l { x with
      st := if hold then .cold else .detect
      pwr := if hold then .cold else .boil
      entering := none, parked := false, lastCode := BitVec.ofNat 16 code, partner := none
      tx := x.tx.withdraw, rx := x.rx.withdraw, lc := ⟨false, false, false, x.lc.heartbeat, .boil⟩
      tr := { x.tr with lockRun := 0, idCount := 0, ready := false, peerReady := false
                        atOnce := false, wait := [], takenOut := hold, pauseUntil := 0, since := b.now } }
    let b := b.log code (.link l) none [l.val, code]
    let b := { b with parts := Vector.ofFn (fun (p : PartId) => (b.part p).linkLost l p bulk) }
    -- parcel moves with a flit unacknowledged start again from their first byte (R187)
    let again := b.host.parcelsOut.filter (fun m => parcelIds.contains m.id)
    let b := again.foldl (fun b m => b.dropParcel m.id) b
    let later := later.filter (fun q => !again.any (fun m => b.ownParcel m.id q.2.1))
    let b := again.foldl (fun b m => b.sendParcel m) b
    let b := resendBuzz.foldl (fun b m => b.sendMsg 128 (m.head.take 0x38 ++ zeros 8) m.body) b
    (later.foldl (fun b q => b.sendMsg q.1 q.2.1 q.2.2) b).judgeGen

/-- A failed training attempt (R222, R225): counted and logged, the link starts again from Detect after 1 ms. -/
def Block.trainFail (b : Block) (l : LinkId) (code : Nat) : Block :=
  let b := b.modLink l (fun x => { x with
    st := .detect, lastCode := BitVec.ofNat 16 code, partner := none
    tx := x.tx.withdraw
    cnt := { x.cnt with trainFail := satAdd x.cnt.trainFail 1 }
    tr := { x.tr with lockRun := 0, idCount := 0, pauseUntil := b.now + 25000 } })
  b.log code (.link l) none [l.val, code]

end Sys2Proof.Machine
end

