-- ==== Sys2Proof/Machine/Reduce.lean ====
section
/-! DEFINITION. Reduction arithmetic: modular sums and maxima (R161, R162), the float tree (R164), the combine of split parts (R167),
the residue check (R171), statistics (R175 to R177) and the 1/N scale (R121). -/

namespace Sys2Proof.Machine
open Sys2Proof

/-- The operators of R159. -/
inductive Operator where
  | sum32 | sum64 | sumF | max (w : Nat)
deriving DecidableEq, Repr

/-- Operand width in bits. -/
def Operator.width : Operator → Nat
  | .sum32 => 32 | .sum64 => 64 | .sumF => 32 | .max w => w

/-- The operator sums, so it may be split and needs a token (R56, R166). -/
def Operator.isSum : Operator → Bool
  | .max _ => false | _ => true

/-- One level of the tree of R164. -/
def lineLevel {α : Type} (f : α → α → α) : List α → List α
  | a :: b :: t => f a b :: lineLevel f t
  | l => l

/-- line() of R164 over at least one value; `fuel` bounds the levels. -/
def lineAux {α : Type} (f : α → α → α) : Nat → List α → List α
  | 0, l => l
  | k + 1, l => if l.length ≤ 1 then l else lineAux f k (lineLevel f l)

/-- line() of R164 on F32 codes. -/
def lineF32 (l : List Word) : Word := ((lineAux f32Add l.length l).head?).getD f32Zero

/-- Two numbers combined by an operator that does not depend on order (R161, R162). -/
def Operator.comb (o : Operator) (a b : Nat) : Nat :=
  match o with
  | .max _ => Nat.max a b
  | .sumF => (f32Add (BitVec.ofNat 32 a) (BitVec.ofNat 32 b)).toNat
  | o => (a + b) % 2 ^ o.width

/-- The accumulator's operator of a source format. -/
def Fmt.operator (f : Fmt) : Operator :=
  match f.accum with
  | .w32 => .sum32
  | .w64 => .sum64
  | _ => .sumF

/-! ### The residue check (R171, R172) -/

/-- 2^w modulo 127. -/
def residueK (w : Nat) : Nat := 2 ^ w % 127

/-- The check of R171 on an addition of the patterns `a` and `b` in `w` bits whose adder gave the sum `s` of w + 1 bits: it passes. -/
def residueOk (w a b s : Nat) : Bool :=
  (a % 127 + b % 127) % 127 == (s % 2 ^ w % 127 + s / 2 ^ w % 2 * residueK w) % 127

/-- The sum of w + 1 bits with the bits of `mask` wrong. -/
def faultySum (w a b mask : Nat) : Nat := ((a + b) ^^^ mask) % 2 ^ (w + 1)

/-- The 51-bit significand operand of the FP32 adder (R171): the larger exponent's at bits 49 to 26, the other shifted right with
the bits below bit 0 ORed into bit 0. -/
def significand51 (c : Word) (big : Nat) : Nat :=
  let e := (c.toNat >>> 23) % 256
  let m := c.toNat % 2 ^ 23 + (if e = 0 then 0 else 2 ^ 23)
  let sh := big - Nat.max e 1
  let x := m * 2 ^ 26
  let r := x >>> sh
  r ||| b2n (decide (r * 2 ^ sh ≠ x))

/-- The two operands of the FP32 adder's significand addition; a subtraction is the addition of the two's complement (R171). -/
def significandPair (a b : Word) : Nat × Nat :=
  let ea := Nat.max ((a.toNat >>> 23) % 256) 1
  let eb := Nat.max ((b.toNat >>> 23) % 256) 1
  let big := Nat.max ea eb
  let x := significand51 a big
  let y := significand51 b big
  if bitAt a.toNat 31 = bitAt b.toNat 31 then (x, y)
  else if x < y then ((2 ^ 51 - x) % 2 ^ 51, y) else (x, (2 ^ 51 - y) % 2 ^ 51)

/-- The rounded significand of an FP32 addition with its carry at bit 24, whose increment the second check covers (R171). -/
def roundedSig (a b : Word) : Nat :=
  match (f32Val a).add (f32Val b) with
  | .fin _ m => rne m (2 ^ (Nat.log2 m - 23))
  | _ => 0

/-- One struck addition (R171, R172): its result, and whether its checks pass. What the FP32 adder gives then is the free value `free`; the integer
adders have no duplicated logic, and a maximum has no adder. -/
def Operator.struck (o : Operator) (free : Word) (a b : Nat) (h : Hit) : Nat × Bool :=
  match o, h with
  | .sumF, .sum mask =>
    let q := significandPair (BitVec.ofNat 32 a) (BitVec.ofNat 32 b)
    if mask.toNat % 2 ^ 52 = 0 then (o.comb a b, true) else (free.toNat, residueOk 51 q.1 q.2 (faultySum 51 q.1 q.2 mask.toNat))
  | .sumF, .round mask =>
    let r := roundedSig (BitVec.ofNat 32 a) (BitVec.ofNat 32 b)
    if mask = 0 then (o.comb a b, true) else (free.toNat, (r ^^^ mask.toNat) % 127 == r % 127)
  | .sumF, .copy _ => (free.toNat, false)
  | .max _, _ => (o.comb a b, true)
  | o, .sum mask => (faultySum o.width a b mask.toNat % 2 ^ o.width, residueOk o.width a b (faultySum o.width a b mask.toNat))
  | o, _ => (o.comb a b, true)

/-! ### Lines (R164) -/

/-- Faults of the hardware, each with the link whose message brings it. -/
abbrev Strikes := List (LinkId × Strike)

/-- Addition number `k` of a line, made once both its children are there (R165): its result, and the strikes whose check fails; `free` gives
what a struck FP32 adder answers. -/
def Operator.fire (o : Operator) (free : Nat → Word) (ss : Strikes) (k : Nat) (a b : Option Nat) : Option Nat × Strikes :=
  match a, b with
  | some a, some b =>
    match ss.find? (fun s => s.2.node == k) with
    | none => (some (o.comb a b), [])
    | some s => let y := o.struck (free k) a b s.2.hit; (some y.1, if y.2 then [] else [s])
  | _, _ => (none, [])

/-- One level of the tree of R164, its additions numbered from `k`: the next number, the level above, and the failed strikes. -/
def hitLevel (f : Nat → Option Nat → Option Nat → Option Nat × Strikes) : Nat → List (Option Nat) → Nat × List (Option Nat) × Strikes
  | k, a :: b :: t => let y := f k a b; let r := hitLevel f (k + 1) t; (r.1, y.1 :: r.2.1, y.2 ++ r.2.2)
  | k, l => (k, l, [])

/-- line() of R164, its additions numbered from `k`; `fuel` bounds the levels. -/
def hitAux (f : Nat → Option Nat → Option Nat → Option Nat × Strikes) : Nat → Nat → List (Option Nat) → List (Option Nat) × Strikes
  | 0, _, l => (l, [])
  | n + 1, k, l =>
    if l.length ≤ 1 then (l, []) else let r := hitLevel f k l; let q := hitAux f n r.1 r.2.1; (q.1, r.2.2 ++ q.2)

/-- The values of a line in ascending position, combined by the tree of R164, as far as they are there: the integer operators give the same
value in every order (R161, R162). -/
def Operator.hitLine (o : Operator) (free : Nat → Word) (ss : Strikes) (l : List (Option Nat)) : Option Nat × Strikes :=
  let r := hitAux (o.fire free ss) l.length 0 l
  ((r.1.head?).join, r.2)

/-- Element `i` of lists of values combined with the strikes that name it. -/
def Operator.hitElem (o : Operator) (free : Nat → Nat → Word) (ss : Strikes) (ls : List (List Nat)) (i : Nat) : Nat × Strikes :=
  let r := o.hitLine (free i) (ss.filter (fun s => s.2.elem == i)) (ls.map (fun v => v[i]?))
  (r.1.getD 0, r.2)

/-- Lists of values combined element by element, and the strikes whose check fails. -/
def Operator.lineLists (o : Operator) (free : Nat → Nat → Word) (ss : Strikes) (ls : List (List Nat)) : List Nat × Strikes :=
  match ls with
  | [] => ([], [])
  | l :: _ =>
    let es := (List.range l.length).map (o.hitElem free ss ls)
    (es.map Prod.fst, es.flatMap Prod.snd)

/-! ### Statistics (R174 to R177) -/

/-- The square of an integer-format code, in W64 (R174). -/
def squareOf (f : Fmt) (c : Nat) : Nat := (intValue f c).natAbs ^ 2

/-- i / den × 2^k rounded once into F32. -/
def f32OfQuot (i : Int) (den : Nat) (k : Int) : Word :=
  let q := scale2 i.natAbs (k + 149)
  f32OfRat (decide (i < 0)) q.1 (q.2 * den)

/-- Mean and variance of an element over `n` contributions under step 2^k (R175, R177). -/
def elemStats (te : Nat) (k : Int) (n a bq : Nat) : Word × Word :=
  if te = 0 then (f32Zero, f32Zero) else if te = 0xFF then (f32Nan, f32Nan)
  else
    let ai := signedOf 32 a
    let num : Int := (n : Int) * signedOf 64 bq - ai * ai
    (f32OfQuot ai n k, f32OfQuot num (n * n) (2 * k))

/-- Mean and variance of a tile (R176, R177): the elements below n as triples of block shift, A and Bq; `k` is the exponent of u. -/
def tileStats (te : Nat) (bx : Bool) (k : Int) (n : Nat) (els : List (Nat × Nat × Nat)) : Word × Word :=
  if te = 0 then (f32Zero, f32Zero) else if te = 0xFF then (f32Nan, f32Nan)
  else
    let g (bj : Nat) : Nat := if bx then 3 - bj else 0
    let aT : Int := els.foldl (fun x q => x + signedOf 32 q.2.1 * (2 ^ g q.1 : Nat)) 0
    let bT : Int := els.foldl (fun x q => x + signedOf 64 q.2.2 * (2 ^ (2 * g q.1) : Nat)) 0
    let m := n * els.length
    let u : Int := if bx then k - 3 else k
    (f32OfQuot aT m u, f32OfQuot ((m : Int) * bT - aT * aT) (m * m) (2 * u))

/-- σ = RNE(1/N) (R121). -/
def sigmaN (n : Nat) : Word := f32OfRat false (2 ^ 149) n

end Sys2Proof.Machine
end

