-- ==== Sys2Proof/Machine/Steep.lean ====
section
/-! DEFINITION. The arithmetic of steeping and straining: w (R96), block scores (R100, R101), selection (R103, R104), coverage (R107),
residual write-back (R98, R99), and the SIGN scale (R263). -/

namespace Sys2Proof.Machine
open Sys2Proof

/-- One element of w (R96): with error feedback g + r, without it g. -/
def steepElem (ef : Bool) (g r : Word) : Word := if ef then f32Add g r else g

/-- The score term of an element (R100). -/
def scoreTerm (z : Int) (x : Word) : Nat :=
  match f32Val x with
  | .fin _ m =>
    let q := scale2 (m * m) (-298 - z)
    Nat.min (rne q.1 q.2) (2 ^ 36)
  | _ => 2 ^ 36

/-- The score of a block from its elements below n (R101). -/
def blockScore (z : Int) (xs : List Word) : Nat := (xs.map (scoreTerm z)).foldl (· + ·) 0

/-- K of a tensor entry (R103): `select` as R350 lays it out. -/
def kOf (b select : Nat) : Nat :=
  if bitAt select 31 then Nat.max 1 (b * (select % 2 ^ 16) / 2 ^ 16) else select % 2 ^ 31

/-- `x` comes before `y` in score order: higher score, then lower block number (R104). -/
def scoreBefore (x y : Nat × Nat) : Bool := decide (y.1 < x.1) || (x.1 == y.1 && decide (x.2 < y.2))

/-- A list sorted by insertion under a strict order. -/
def insertBy {α : Type} (lt : α → α → Bool) (x : α) : List α → List α
  | [] => [x]
  | y :: t => if lt x y then x :: y :: t else y :: insertBy lt x t

/-- A list sorted by insertion under a strict order. -/
def sortBy {α : Type} (lt : α → α → Bool) (l : List α) : List α := l.foldr (insertBy lt) []

/-- The confirmed set from group scores (R104), ascending. -/
def confirmedSet (scores : List Nat) (k : Nat) : List Nat :=
  sortBy (fun a b => decide (a < b)) (((sortBy scoreBefore scores.zipIdx).take k).map Prod.snd)

/-- The tiles of a position list: 16 positions each (R31). -/
def tiles16 {α : Type} (l : List α) : List (List α) := chunks 16 l

/-- Which predicted tiles are covered (R107). -/
def coveredTiles (pred conf : List Nat) : List Bool :=
  ((tiles16 pred).zip (tiles16 conf)).map (fun q => q.1 == q.2)

/-- Maximal runs of uncovered tiles, as first tile and number of tiles (R108). -/
def uncoveredRuns : Nat → List Bool → List (Nat × Nat)
  | _, [] => []
  | i, true :: t => uncoveredRuns (i + 1) t
  | i, false :: t =>
    match uncoveredRuns (i + 1) t with
    | (j, k) :: rest => if j = i + 1 then (i, k + 1) :: rest else (i, 1) :: (j, k) :: rest
    | [] => [(i, 1)]

/-- The new residual of an element (R98): w − d, and w where d is a zero. -/
def residElem (w d : Word) : Word := if (f32Val d).isZero then w else f32Sub w d

/-- What becomes part of a residual, and whether R99 replaced it. -/
def residFinal (w d : Word) : Word × Bool :=
  let r := residElem w d
  if (f32Val w).nonFinite || (f32Val r).nonFinite then (f32Zero, true) else (r, false)

/-- The exact mean of magnitudes rounded once, and NaN with any NaN or infinity (R143, R263). -/
def meanAbs (xs : List Word) : Word :=
  if xs.any (fun x => (f32Val x).nonFinite) then f32Nan
  else f32OfRat false ((xs.map (fun x => match f32Val x with | .fin _ m => m | _ => 0)).foldl (· + ·) 0) (Nat.max 1 xs.length)

/-- The sign code of an element (R64). -/
def signCode (x : Word) : Nat := (quantise .s1 0 0 0 (f32Val x)).code

end Sys2Proof.Machine
end

