-- ==== Sys2Proof/Machine/Forager.lean ====
section
/-! DEFINITION. The Forager: codebook entries (R137, R138), the search (R144), patterns and magnitudes of a tile (R143) and the decode
of gathered frames (R153). -/

namespace Sys2Proof.Machine
open Sys2Proof

/-- A codebook as the Forager reads it: the codeword of an entry, its sixteen neighbour words, and the entries whose reads fail. -/
structure CbView where
  e : Nat
  word : Nat → Nat
  nbr : Nat → List Nat
  bad : Nat → Bool

/-- A candidate of the beam: distance, index, and whether it was expanded (R144). -/
structure Cand where
  dist : Nat
  idx : Nat
  expanded : Bool
deriving DecidableEq, Repr

/-- The key order of candidates (R144). -/
def Cand.lt (a b : Cand) : Bool := decide (a.dist < b.dist) || (a.dist == b.dist && decide (a.idx < b.idx))

/-- The number of bits set in the low `w` bits. -/
def popcount : Nat → Nat → Nat
  | 0, _ => 0
  | w + 1, n => n % 2 + popcount w (n / 2)

/-- A search under way: the beam in key order, the entries scored, the entries excluded (R144, R149). -/
structure Search where
  beam : List Cand
  visited : List Nat
  excluded : List Nat
deriving DecidableEq, Repr

/-- An entry scored, or excluded (R144, R149). DESIGN CHOICE (log entry 87): an excluded entry that the same search meets again is not excluded, and
not counted, a second time. -/
def Search.score (cb : CbView) (q : Nat) (s : Search) (x : Nat) : Search :=
  if s.visited.contains x || s.excluded.contains x then s
  else if cb.bad x then { s with excluded := x :: s.excluded }
  else { s with visited := x :: s.visited, beam := insertBy Cand.lt ⟨popcount 128 (q ^^^ cb.word x), x, false⟩ s.beam }

/-- Marks the first candidate with index `i` expanded. -/
def markExpanded (i : Nat) (l : List Cand) : List Cand :=
  l.map (fun c => if c.idx = i then { c with expanded := true } else c)

/-- Step 3 of R144, at most `t` times. -/
def searchLoop (cb : CbView) (q w : Nat) : Nat → Search → Search
  | 0, s => s
  | t + 1, s =>
    match s.beam.find? (fun c => !c.expanded) with
    | none => s
    | some c =>
      let s1 := { s with beam := markExpanded c.idx s.beam }
      let s2 := ((cb.nbr c.idx).filter (fun n => n < 2 ^ 31 && decide (n % 2 ^ 30 < cb.e))).foldl
        (fun s n => s.score cb q (n % 2 ^ 30)) s1
      searchLoop cb q w t { s2 with beam := s2.beam.take w }

/-- The search of R144 for query `q`: its result and the entries it excluded. -/
def foragerSearch (cb : CbView) (w t q : Nat) : Nat × List Nat :=
  let s0 := (List.range w).foldl (fun s e => s.score cb q e) ⟨[], [], []⟩
  let s := searchLoop cb q w t s0
  (((s.beam.head?).map Cand.idx).getD 0, s.excluded)

/-- The query of a pattern: bit i set where element i is negative (R143). -/
def patternOf (xs : List Word) : Nat := xs.foldr (fun x a => signCode x + 2 * a) 0

/-- The patterns of a tile's elements below n (R143): elements past the end give 0. -/
def tilePatterns (xs : List Word) : List Nat := (chunks 128 xs).map patternOf

/-- The term of one member for an element (R153): −m where the codeword's bit is 1. -/
def cbiTerm (m : Word) (cw k : Nat) : Word := if bitAt cw (k % 128) then f32Of (f32Val m).neg else f32Of (f32Val m)

/-- The group sum of one element from the members' terms in ascending member order (R153). -/
def cbiSum (terms : List Word) : Word := terms.foldl f32Add 0x80000000#32

end Sys2Proof.Machine
end

