-- ==== Sys2Proof/Machine/Infuser.lean ====
section
/-! DEFINITION. The Infuser: its products and sums (R113 to R119), the fused output pipeline (R120), the warm-start seed (R126),
orthogonalisation (R129) and the matrix views of LOWRANK (R124, R125, R128). -/

namespace Sys2Proof.Machine
open Sys2Proof

/-- An Infuser value and whether an overflow from finite operands made part of it (R118, R119). -/
structure Inf where
  v : FVal
  ovf : Bool
deriving DecidableEq, Repr

/-- The exact product, in units of 2^-298; zero times infinity is NaN (R61). -/
def FVal.mulWide : FVal → FVal → FVal
  | .nan, _ => .nan
  | _, .nan => .nan
  | .inf s, .inf t => .inf (s != t)
  | .inf s, .fin t m => if m = 0 then .nan else .inf (s != t)
  | .fin s m, .inf t => if m = 0 then .nan else .inf (s != t)
  | .fin s m, .fin t n => .fin (s != t) (m * n)

/-- A value in units of 2^-298 rounded into P20 (R63). -/
def p20OfWide : FVal → FVal
  | .fin n m => p20Val (p20OfRat n m (2 ^ 149))
  | v => v

/-- A value in units of 2^-298 rounded into F32. -/
def f32OfWide : FVal → Word
  | .fin n m => f32OfRat n m (2 ^ 149)
  | v => f32Of v

/-- A product rounded into P20 (R115 step 1). -/
def p20Mul (a b : FVal) : Inf :=
  let r := p20OfWide (a.mulWide b)
  ⟨r, r.nonFinite && !a.nonFinite && !b.nonFinite⟩

/-- A P20 addition (R115 step 2). -/
def p20Add (a b : Inf) : Inf :=
  let r := p20Val (p20Of (a.v.add b.v))
  ⟨r, a.ovf || b.ovf || (r.nonFinite && !a.v.nonFinite && !b.v.nonFinite)⟩

/-- The zero of the array. -/
def infZero : Inf := ⟨.fin false 0, false⟩

/-- The four-level tree of one group of rows (R115 step 2). -/
def groupSum (ps : List Inf) : Inf := ((lineAux p20Add 4 ps).head?).getD infZero

/-- One step of the promotion chain in F32 (R115 step 4). -/
def chainAdd (acc g : Inf) : Inf :=
  let r := f32Val (f32Of (acc.v.add g.v))
  ⟨r, acc.ovf || g.ovf || (r.nonFinite && !acc.v.nonFinite && !g.v.nonFinite)⟩

/-- One chunk of at most 128 products, padded with +0 (R113, R115). -/
def chunkSum (acc : Inf) (vw : List (FVal × FVal)) : Inf :=
  let ps := vw.map (fun q => p20Mul q.1 q.2)
  let full := ps ++ List.replicate (128 - ps.length) infZero
  ((chunks 16 full).map groupSum).foldl chainAdd acc

/-- One output element: chunks in ascending order from a chain input of −0 (R116). -/
def infuserDot (v w : List FVal) : Inf :=
  (chunks 128 (v.zip w)).foldl chunkSum ⟨.fin true 0, false⟩

/-- A row of a row-major matrix. -/
def matRow {α : Type} (cols : Nat) (m : List α) (k : Nat) : List α := (m.drop (k * cols)).take cols

/-- A column of a row-major matrix. -/
def matCol {α : Type} [Inhabited α] (cols rows : Nat) (m : List α) (l : Nat) : List α :=
  (List.range rows).map (fun k => m.getD (k * cols + l) default)

/-! ### The fused output pipeline (R120) -/

/-- The order that clamps use: −0 below +0 (R120). -/
def leClamp (a b : Word) : Bool :=
  let x := f32Val a
  let y := f32Val b
  x.ltB y || (!y.ltB x && (!(x.isZero && y.isZero) || bitAt a.toNat 31 || !bitAt b.toNat 31))

/-- Clamp (R120): a NaN bound leaves its side unbounded. -/
def clampF32 (lo hi y : Word) : Word :=
  if f32Val y = .nan then f32Nan
  else
    let t := if f32Val lo = .nan || leClamp lo y then y else lo
    if f32Val hi = .nan || leClamp t hi then t else hi

/-- Sign (R120). -/
def signF32 (y : Word) : Word :=
  match f32Val y with
  | .nan => f32Nan
  | .inf n => if n then 0xBF800000#32 else 0x3F800000#32
  | .fin n m => if m = 0 then f32Zero else if n then 0xBF800000#32 else 0x3F800000#32

/-- Absolute value (R120). -/
def absF32 (y : Word) : Word := if f32Val y = .nan then f32Nan else y &&& 0x7FFFFFFF#32

/-- The enabled stages of the pipeline for one element, as an operation sets them (R120, R286). -/
structure Fused where
  scale : Option Word
  bias : Option Word
  addZ : Option Word
  mulZ : Option Word
  act : Word → Word
  out : Fmt

/-- One element through the five stages (R120). -/
def Fused.run (f : Fused) (y : Word) : Conv :=
  let y := match f.scale with | some s => f32Mul y s | none => y
  let y := match f.bias with | some b => f32Add y b | none => y
  let y := match f.addZ with | some z => f32Add y z | none => y
  let y := match f.mulZ with | some z => f32Mul y z | none => y
  toResult f.out (f32Val (f.act y))

/-- Stage 11 in bypass: scale by σ = 1/N and convert (R121). -/
def stage11 (out : Fmt) (n : Nat) (y : Word) : Conv := toResult out (f32Val (f32Mul y (sigmaN n)))

/-! ### LOWRANK -/

/-- The warm-start seed of element (k, j) (R126). -/
def warmSeed (seed k j : Nat) : Word :=
  let x := (seed ^^^ (k * 0x9E3779B1 + j * 0x85EBCA77)) % 2 ^ 32
  let x := x ^^^ (x >>> 15)
  let x := (x * 0x2C1B3C6D) % 2 ^ 32
  let x := x ^^^ (x >>> 12)
  f32OfScaled ((x >>> 8 : Nat) - (2 ^ 23 : Nat) : Int) (-23)

/-- The seeded warm-start Q of b × ρ elements (R126). -/
def warmSeedQ (seed b rho : Nat) : List Word :=
  (List.range b).flatMap (fun k => (List.range rho).map (fun j => warmSeed seed k j))

/-- Converted into an operand format, as an Infuser input (R127, R282). -/
def operandVal (f : Fmt) (x : Word) : FVal :=
  match f.float? with
  | some ff => ff.decode false (toResult f (f32Val x)).code
  | none => .fin false 0

/-- An Infuser output as an F32 code. -/
def Inf.code (i : Inf) : Word := f32Of i.v

/-- dot() of R129: each product rounded, runs of 16 summed by the tree, run sums from −0 in order. -/
def orthDot (u v : List Word) : Word :=
  let ps := (u.zip v).map (fun q => f32Mul q.1 q.2)
  (chunks 16 ps).foldl (fun acc r => f32Add acc (lineF32 (r ++ List.replicate (16 - r.length) f32Zero))) 0x80000000#32

/-- x − c × h rounded once (R129). -/
def mulSub (x c h : Word) : Word :=
  let xw := match f32Val x with | .fin n m => FVal.fin n (m * 2 ^ 149) | v => v
  f32OfWide (xw.add ((f32Val c).mulWide (f32Val h)).neg)

/-- Step 1b and 1c of R129 on one column. -/
def normaliseCol (p : List Word) : List Word :=
  let q := orthDot p p
  match f32Val q with
  | .fin _ m => if m = 0 then p.map (fun _ => f32Zero) else let s := f32Sqrt q; p.map (fun x => f32Div x s)
  | _ => p.map (fun _ => f32Nan)

/-- Modified Gram–Schmidt over columns (R129): `done` holds the finished columns in order. -/
def orthCols (done : List (List Word)) : List (List Word) → List (List Word)
  | [] => done
  | p :: rest =>
    let p' := done.foldl (fun (x : List Word) h =>
      let c := orthDot h x
      (x.zip h).map (fun q => mulSub q.1 c q.2)) p
    orthCols (done ++ [normaliseCol p']) rest

/-- orthogonalise() of R129 on a row-major matrix of `cols` columns. -/
def orthogonalise (rows cols : Nat) (m : List Word) : List Word :=
  let cs := orthCols [] ((List.range cols).map (matCol cols rows m))
  (List.range rows).flatMap (fun k => cs.map (fun c => c.getD k f32Zero))

/-- The product of an a × inner stream and an inner × c weight matrix, row-major, both as Infuser values: elements in row-major
order (R116). `wCol l` is column l of the weights. -/
def infuserProduct (rows cols : Nat) (vRow wCol : Nat → List FVal) : List Inf :=
  (List.range rows).flatMap (fun k => (List.range cols).map (fun l => infuserDot (vRow k) (wCol l)))

/-- A code of an operand format as an Infuser value (R127, R282). -/
def operandCode (f : Fmt) (c : Nat) : FVal := match f.float? with | some ff => ff.decode false c | none => .fin false 0

/-- p = M × qw (R128): M of a × b operand codes, qw of b × ρ. -/
def lowrankP (f : Fmt) (a b rho : Nat) (m : List Nat) (q : List Word) : List Inf :=
  let mv := m.map (operandCode f)
  let qv := q.map (operandVal f)
  infuserProduct a rho (matRow b mv) (fun l => (List.range b).map (fun k => qv.getD (k * rho + l) (.fin false 0)))

/-- qᵀ = phᵀ × M, as q of b × ρ (R128): each element a sum over the a rows. -/
def lowrankQ (f : Fmt) (a b rho : Nat) (m : List Nat) (ph : List Word) : List Inf :=
  let mv := m.map (operandCode f)
  let pv := ph.map (operandVal f)
  infuserProduct b rho (fun k => (List.range a).map (fun r => mv.getD (r * b + k) (.fin false 0)))
    (fun l => (List.range a).map (fun r => pv.getD (r * rho + l) (.fin false 0)))

/-- ph × qᵀ (R128): of a × b elements, one chunk of ρ products each. -/
def lowrankOut (f : Fmt) (a b rho : Nat) (ph q : List Word) : List Inf :=
  let pv := ph.map (operandVal f)
  let qv := q.map (operandVal f)
  infuserProduct a b (matRow rho pv) (matRow rho qv)

/-- Saturations of a factor's conversion into the operand format (R75). -/
def factorSat (f : Fmt) (l : List Word) : Nat := (l.filter (fun x => (toResult f (f32Val x)).sat)).length

end Sys2Proof.Machine
end

