-- ==== Sys2Proof/Machine/Regs.lean ====
section
/-! DEFINITION. The register map (R415 to R437): what a read of each MSP address returns. -/

namespace Sys2Proof.Machine
open Sys2Proof

/-- A control register as it reads (R419). -/
def Ctl.read (c : Ctl) : Nat := c.shown + 2 ^ 31 * b2n c.pend

/-- A mirror as it reads (R418). -/
def Mirror.read (m : Mirror) : Nat := m.val.toNat + 2 ^ 24 * m.mseq.toNat

/-- The chip is in a reset of the non-Kettle domains (R375, R394): until start-up begins (R396), or while the pin, a rail or boundary scan
holds it. -/
def Block.inReset (b : Block) : Bool :=
  b.boot.phase == .none || b.kettle.rstLow || b.kettle.railBad || b.tap.ir == .extest || b.tap.ir == .clamp || b.tap.ir == .highz

/-- The ready bit is not part of this: bits [6:0] of the status byte (R365). -/
def Block.statusLow (b : Block) : Nat :=
  let prev := match b.msp.lastErr.toNat with
    | 0 => 0 | 1 => 1 | 2 => 2 | 3 => 2 | 4 => 1 | 5 => 1 | 6 => 3 | 7 => 1 | _ => 3
  prev + 4 * b2n (b.boot.phase == .failed || b.kettle.haltCode != 0) + 8 * b2n (b.boot.phase == .ready) +
    16 * b2n b.msp.evt + 32 * b2n (decide (b.now < b.msp.lockUntil)) + 64 * b2n b.msp.session

/-- The status byte (R365). -/
def Block.status (b : Block) (ready : Bool) : Nat := b.statusLow + 128 * b2n ready

/-- KTL_ASSUME entry `i` (R421). -/
def Block.assumeAt (b : Block) (i : Nat) : Option Assume := b.remap.assumes.find? (fun a => a.idx == i)

/-- Registers of the KTL block (R421). -/
def Block.readKtl (b : Block) (f : Fuses) (o : Nat) : Option Nat :=
  if o = 0x00 then some 0x0642B001
  else if o = 0x04 then some b.boot.imageId.toNat
  else if o = 0x08 then some b.boot.physCoord.toNat
  else if o = 0x0C then some (
    if b.boot.phase == .layout || b.boot.phase == .ready then b.logCoord.toNat + 2 ^ 31 * b2n b.assumed.isSome else 0)
  else if o = 0x10 then some b.boot.machine
  else if o = 0x14 then some b.boot.phase.code
  else if o = 0x18 then some (b2n b.boot.anchored)
  else if o = 0x1C then some b.boot.code.toNat
  else if o = 0x20 then some b.boot.detail.toNat
  else if o = 0x24 then some b.kettle.haltCode.toNat
  else if o = 0x28 then some (b2n f.anchorSet + 2 * b2n f.pwdSet + 4 * b2n f.busy.isSome)
  else if o = 0x2C then some 0
  else if o = 0x30 then some b.remap.gen
  else if o = 0x34 then some b.remap.held.length
  else if o = 0x38 then some (b.remap.assumes.length + 2 ^ 16 * b.remap.excludes.length)
  else if 0x40 ≤ o ∧ o ≤ 0x4C then some 0
  else if o = 0x50 then some (b.now % 2 ^ 32)
  else if o = 0x54 then some (b.now / 2 ^ 32 % 2 ^ 16)
  else if 0x80 ≤ o ∧ o ≤ 0xAC then some 0
  else if 0xC0 ≤ o ∧ o ≤ 0xEC then some (field f.anchor (o - 0xC0) 4)
  else if 0x1000 ≤ o ∧ o < 0x1800 then
    match b.assumeAt ((o - 0x1000) / 8) with
    | some a => some (if o % 8 = 0 then 2 ^ 31 + a.logical.toNat else a.physical.toNat)
    | none => some 0
  else if 0x1800 ≤ o ∧ o < 0x18C0 then
    match b.remap.excludes.find? (fun e => e.idx == (o - 0x1800) / 4) with
    | some e => some (2 ^ 31 + 256 * e.dim + e.value)
    | none => some 0
  else none

/-- Registers of the MSP block (R379, R423). DEDUCED (log entry 67): MSP_STATUS shows the ready bit as 0, as its reset value has it, since
ready belongs to the bytes of a transaction. -/
def Block.readMsp (b : Block) (o : Nat) : Option Nat :=
  if o = 0x00 then some (b.status false)
  else if o = 0x04 then some (b.now % 2 ^ 32)
  else if o = 0x08 then some b.msp.lastErr.toNat
  else if o = 0x0C then some b.msp.loginFail.toNat
  else if o = 0x10 then some b.msp.resync.toNat
  else if o = 0x14 then some (if b.msp.session then 250000000 - (b.now - b.msp.lastUse) else 0)
  else none

/-- Registers of the NVM block (R424). -/
def Block.readNvm (b : Block) (o : Nat) : Option Nat :=
  if o = 0x00 then some (b2n b.nvm.busy + 2 * b2n (!b.nvm.busy && b.nvm.due.any (fun p => decide ((b.part p).fetchAt ≤ b.now))))
  else if o = 0x04 then some (b2n b.nvm.refetchEn)
  else if o = 0x08 then some b.boot.nvmCfg.toNat
  else if o = 0x0C then some b.nvm.fetches.toNat
  else none

/-- The cells that a partition uses, held next-step data included (R335). -/
def Part.cells (p : Part) : Nat :=
  (match p.run with | some r => (r.rounds.map Round.cells).foldl (· + ·) 0 | none => 0) +
  (p.nextCells.map (fun q => q.2.2)).foldl (· + ·) 0

/-- The counts of every ledger as they stand (R44). -/
def Block.ledgersNow (b : Block) : Ledgers :=
  { cells := (b.hcbFree, (b.parts.toList.map Part.cells).foldl (· + ·) 0)
    sess := (b.host.sessFree, b.host.ctxs.length)
    slots := (b.host.slotsFree, b.host.slots.length)
    toks := b.combs.map (fun x => (x.tokFree, x.tokUsed))
    credits := b.links.map (fun x => (x.tx.free, x.tx.used)) }

/-- The counts that the ledger registers show: after a chip halt on a ledger, those of the failing check (R437). -/
def Block.ledgers (b : Block) : Ledgers := b.frozen.getD b.ledgersNow

/-- Registers of a comb (R425, R437). -/
def Block.readCmb (b : Block) (c : CombId) (o : Nat) : Option Nat :=
  let x := b.comb c
  if o = 0x00 then some (b.mirrors.comb[c]).read
  else if o = 0x04 then some x.ctrl.read
  else if o = 0x08 then some (x.failCode.toNat + 2 ^ 16 * x.failCause.toNat)
  else if o = 0x0C then some x.cnt.steps.toNat
  else if o = 0x10 then some (b.ledgers.toks[c]).1
  else if o = 0x14 then some (b.ledgers.toks[c]).2
  else if o = 0x20 then some x.cnt.selBlocks.toNat
  else if o = 0x24 then some x.cnt.covered.toNat
  else if o = 0x28 then some x.cnt.corr.toNat
  else if o = 0x2C then some x.cnt.poison.toNat
  else if o = 0x30 then some x.cnt.nonfinite.toNat
  else if o = 0x34 then some x.cnt.infOvf.toNat
  else if o = 0x38 then some x.cnt.searches.toNat
  else if o = 0x3C then some x.cnt.excluded.toNat
  else if o = 0x40 then some x.cnt.qntSat.toNat
  else if o = 0x44 then some x.cnt.sramCorr.toNat
  else none

/-- Registers of the HCB block (R427, R437). -/
def Block.readHcb (b : Block) (o : Nat) : Option Nat :=
  if o = 0x00 then some b.ledgers.cells.1
  else if o = 0x04 then some b.ledgers.cells.2
  else if o = 0x08 then some b.hcbResErr.toNat
  else if o = 0x0C then some b.hcbSramCorr.toNat
  else none

/-- Registers of a link (R428, R437). -/
def Block.readLnk (b : Block) (l : LinkId) (o : Nat) : Option Nat :=
  let x := b.link l
  if o = 0x00 then some (b.mirrors.link[l]).read
  else if o = 0x04 then some x.ctrl.read
  else if o = 0x08 then some (match x.partner with | some q => q.2.toNat + 2 ^ 18 * q.1.toNat + 2 ^ 24 | none => 0)
  else if o = 0x0C then some x.wireDelay.toNat
  else if o = 0x10 then some (x.cnt.txBytes.toNat % 2 ^ 32)
  else if o = 0x14 then some (x.cnt.txBytes.toNat / 2 ^ 32)
  else if o = 0x18 then some (x.cnt.rxBytes.toNat % 2 ^ 32)
  else if o = 0x1C then some (x.cnt.rxBytes.toNat / 2 ^ 32)
  else if o = 0x20 then some x.cnt.retry.toNat
  else if o = 0x24 then some x.cnt.dup.toNat
  else if o = 0x28 then some x.cnt.fecCorr.toNat
  else if o = 0x2C then some x.cnt.fecUncorr.toNat
  else if o = 0x30 then some x.cnt.crcErr.toNat
  else if o = 0x34 then some x.cnt.trainFail.toNat
  else if o = 0x38 then some x.cnt.resErr.toNat
  else if o = 0x3C then some x.relayWeight
  else if o = 0x40 then some (b.ledgers.credits[l].1.buzz + 2 ^ 16 * b.ledgers.credits[l].1.bulk)
  else if o = 0x44 then some (b.ledgers.credits[l].1.parcel + 2 ^ 16 * b.ledgers.credits[l].1.tunnel)
  else if o = 0x48 then some (b.ledgers.credits[l].2.buzz + 2 ^ 16 * b.ledgers.credits[l].2.bulk)
  else if o = 0x4C then some (b.ledgers.credits[l].2.parcel + 2 ^ 16 * b.ledgers.credits[l].2.tunnel)
  else if o = 0x50 then some (x.tx.next.toNat + 2 ^ 16 * x.rx.exp.toNat)
  else if o = 0x54 then some (x.tx.bnext.toNat + 2 ^ 16 * x.rx.bexp.toNat)
  else none

/-- Steep pages of a tensor with error feedback (R336). -/
def TensorEntry.pages (t : TensorEntry) : Nat := if t.ef then 2 * ceilDiv (ceilDiv t.n 256) 16 else 0
/-- D_p (R336). -/
def PartImage.demand (i : PartImage) : Nat := (i.tensors.map TensorEntry.pages).foldl (· + ·) 0
/-- Page frames that hold a page. -/
def Part.frames (p : Part) : Nat := (p.pages.filter (fun q => q.spilled.isNone)).length
/-- Poison bits of the codebook as PRT_CBK_STATUS shows them (R430). -/
def Codebook.status (c : Codebook) : Nat := c.st.code + 8 * Nat.min c.poison.length (2 ^ 29 - 1)
/-- Sessions that own a slot of a partition (R430). -/
def Block.sessionsOf (b : Block) (p : PartId) : List Nat :=
  (b.host.ctxs.filter (fun c => c.isOpen && b.host.slots.any (fun s => s.ctx == c.id && s.part == p))).map Ctx.id
/-- Registers of a partition (R430); all 0 while it is not defined. -/
def Block.readPrt (b : Block) (p : PartId) (o : Nat) : Option Nat :=
  if 0x54 < o ∨ o % 4 ≠ 0 then none else
  let x := b.part p
  match x.img with
  | none => some 0
  | some i => some (
    if o = 0x00 then (b.mirrors.part[p]).read
    else if o = 0x04 then x.stepCnt.toNat
    else if o = 0x08 then x.lastAbort.toNat
    else if o = 0x0C then x.redos.toNat
    else if o = 0x10 then x.timeout.read
    else if o = 0x14 then x.weight.read
    else if o = 0x18 then i.quota
    else if o = 0x1C then x.cells
    else if o = 0x20 then i.share
    else if o = 0x24 then i.demand
    else if o = 0x28 then (x.pages.filter (fun q => q.spilled.isNone && q.live)).length
    else if o = 0x2C then x.pageIn.toNat
    else if o = 0x30 then x.pageOut.toNat
    else if o = 0x34 then x.redNonfinite.toNat
    else if o = 0x38 then x.cb.status
    else if o = 0x3C then i.cbE
    else if o = 0x40 then x.progSt.code
    else if o = 0x44 then i.prog.length
    else if o = 0x48 then (match x.spill with | some s => s.recs | none => 0)
    else if o = 0x4C then (b.sessionsOf p).length
    else if o = 0x50 then vsetAt x.vset 0 + 2 ^ 8 * vsetAt x.vset 1 + 2 ^ 16 * vsetAt x.vset 2 + 2 ^ 24 * vsetAt x.vset 3
    else vsetAt x.vset 4 + 2 ^ 8 * vsetAt x.vset 5)

/-- HST_PORT_STATUS of a port (R431). -/
def Port.status (h : Port) : Nat :=
  b2n h.linkUp + 2 * h.speed + 16 * h.width + 2 ^ 9 * b2n h.flit + 2 ^ 16 * b2n h.linkDown +
  2 ^ 24 * (if h.vfEnable then h.numVfs else 0)

/-- HST_CTX_INFO (R431). -/
def Block.ctxInfo (b : Block) : Nat :=
  match b.host.ctxs.find? (fun c => c.id == b.host.ctxSel.toNat) with
  | none => 0
  | some c => b2n c.isOpen + 2 * b2n (!c.isOpen) + 4 * c.port.val + 8 * (c.vf.val + 1) +
      2 ^ 11 * Nat.min 1023 (b.host.slots.filter (fun s => s.ctx == c.id)).length

/-- Registers of the HST block (R431, R437). -/
def Block.readHst (b : Block) (o : Nat) : Option Nat :=
  if o = 0x00 then some (b.host.ports[(0 : PortId)]).status
  else if o = 0x04 then some (b.host.ports[(1 : PortId)]).status
  else if o = 0x08 then some b.host.hsBad.toNat
  else if o = 0x0C then some b.host.dbBad.toNat
  else if o = 0x10 then some b.ledgers.sess.1
  else if o = 0x14 then some b.ledgers.sess.2
  else if o = 0x18 then some b.ledgers.slots.1
  else if o = 0x1C then some b.ledgers.slots.2
  else if o = 0x20 then some b.host.ctxSel.toNat
  else if o = 0x24 then some b.ctxInfo
  else none

/-- Registers of the HBM and STP block (R432). -/
def Block.readHbm (b : Block) (o : Nat) : Option Nat :=
  let st (i : Nat) : StackId := Fin.ofNat 4 i
  let imgs := b.parts.toList
  let share (p : Part) : Nat := match p.img with | some i => i.share | none => 0
  if o < 0x10 ∧ o % 4 = 0 then some (b.mirrors.stack[st (o / 4)]).read
  else if o < 0x20 ∧ o % 4 = 0 then some (b.hbm.stackOf[st ((o - 0x10) / 4)]).temp.toNat
  else if o < 0x30 ∧ o % 4 = 0 then some (b.hbm.stackOf[st ((o - 0x20) / 4)]).eccCorr.toNat
  else if o < 0x40 ∧ o % 4 = 0 then some (b.hbm.stackOf[st ((o - 0x30) / 4)]).eccUncorr.toNat
  else if o = 0x40 then some b.hbm.scrubHours
  else if o = 0x44 then some b.hbm.passes.toNat
  else if o = 0x48 then some b.hbm.next.toNat
  else if o = 0x100 then some ((imgs.map share).foldl (· + ·) 0)
  else if o = 0x104 then some ((imgs.map (fun p => share p - p.frames)).foldl (· + ·) 0)
  else if o = 0x108 then some ((imgs.flatMap Part.tens).map (fun t =>
      ((if t.cur1 then t.poison1 else t.poison0).filter id).length) |>.foldl (· + ·) 0)
  else none

/-- The 32 bytes of entry `seq` of the event log, where it is present (R409 to R411). -/
def Evl.entry (e : Evl) (seq : BitVec 32) : Option (List Byte) :=
  let back := (e.head - seq).toNat
  if back = 0 ∨ 2048 < back then none
  else match e.entries[back - 1]? with
    | none => none
    | some x => some (
      if x.bad then zeros 6 ++ leBytes 2 0x0332 ++ zeros 24
      else leBytes 6 x.kt ++ leBytes 2 x.code.toNat ++ leBytes 4 seq.toNat ++ [x.unit, x.index, x.part, 0] ++
        x.detail.toList.flatMap (fun d => leBytes 4 d.toNat))

/-- Registers of the EVL block (R433); EVL_DATA reads the copy (R434). -/
def Block.readEvl (b : Block) (o : Nat) : Option Nat :=
  let e := b.evl
  if o = 0x00 then some e.head.toNat
  else if o = 0x04 then some e.ack.toNat
  else if o = 0x08 then some e.lost.toNat
  else if o = 0x0C then some e.sel.toNat
  else if o = 0x10 then some (b2n e.miss + 2 * b2n e.lostEvt)
  else if 0x20 ≤ o ∧ o ≤ 0x3C then some (match e.copy with | some c => field c (o - 0x20) 4 | none => 0)
  else none

/-- Registers of the PWR block (R435). -/
def Block.readPwr (b : Block) (o : Nat) : Option Nat :=
  if o = 0x00 then some b.kettle.resetCause.toNat
  else if o = 0x04 then some 0
  else if o = 0x08 then some (((List.finRange 6).map (fun d =>
      b2n (b.pwr.groups[d]).holdUntil.isSome * 2 ^ d.val)).foldl (· + ·) 0)
  else if 0x10 ≤ o ∧ o < 0x50 then
    let c : CombId := Fin.ofNat 4 ((o - 0x10) / 16)
    let k := b.pwr.combCfg[c]
    some (match (o - 0x10) % 16 with
      | 0 => k.floor.read | 4 => k.warm.read | 8 => k.cold.read | _ => (b.mirrors.pcomb[c]).read)
  else if 0x80 ≤ o ∧ o < 0xE0 then
    let d : DimId := Fin.ofNat 6 ((o - 0x80) / 16)
    let k := b.pwr.lnkCfg[d]
    some (match (o - 0x80) % 16 with
      | 0 => k.floor.read | 4 => k.warm.read | 8 => k.cold.read | _ => (b.mirrors.plink[d]).read)
  else none

/-- A read of the register at an MSP address that is a multiple of 4; none outside every register (R415). -/
def Block.readReg (b : Block) (f : Fuses) (a : Nat) : Option Nat :=
  if a < 0x10000 then b.readKtl f a
  else if a < 0x20000 then b.readMsp (a - 0x10000)
  else if a < 0x30000 then b.readNvm (a - 0x20000)
  else if 0x100000 ≤ a ∧ a < 0x200000 then b.readCmb (Fin.ofNat 4 ((a - 0x100000) / 0x40000)) ((a - 0x100000) % 0x40000)
  else if 0x200000 ≤ a ∧ a < 0x200010 then b.readHcb (a - 0x200000)
  else if 0x300000 ≤ a ∧ a < 0x32A000 then b.readLnk (Fin.ofNat 42 ((a - 0x300000) / 0x1000)) ((a - 0x300000) % 0x1000)
  else if 0x400000 ≤ a ∧ a < 0x420000 then b.readPrt (Fin.ofNat 128 ((a - 0x400000) / 0x400)) ((a - 0x400000) % 0x400)
  else if 0x500000 ≤ a ∧ a < 0x500028 then b.readHst (a - 0x500000)
  else if 0x600000 ≤ a ∧ a < 0x600200 then b.readHbm (a - 0x600000)
  else if 0x700000 ≤ a ∧ a < 0x700040 then b.readEvl (a - 0x700000)
  else if 0x800000 ≤ a ∧ a < 0x8000E0 then b.readPwr (a - 0x800000)
  else none

/-- Registers that can be read without a session (R370). -/
def openRead (a : Nat) : Bool :=
  a == 0x00 || a == 0x14 || a == 0x18 || a == 0x1C || a == 0x20 || a == 0x28 || (decide (0x10000 ≤ a) && decide (a ≤ 0x10014))

/-- The effect on the block of a read of EVL_DATA0 (R411, R434): the copy is taken, and miss is set when the entry is absent.
`err` says that the entry's SRAM word shows an error: an uncorrectable one (`true`, R410), or a correctable one, which is logged (R407). -/
def Block.evlSample (b : Block) (err : Option Bool) : Block :=
  let there := (b.evl.entry b.evl.sel).isSome
  let e := if err = some true ∧ there = true then
      { b.evl with entries := b.evl.entries.modify ((b.evl.head - b.evl.sel).toNat - 1) (fun x => { x with bad := true }) }
    else b.evl
  let b := match e.entry e.sel with
    | none => { b with evl := { e with copy := some (zeros 32), miss := true } }
    | some bs => { b with evl := { e with copy := some bs } }
  if err = some false ∧ there = true then b.log 0x0331 .kettle none [] else b

end Sys2Proof.Machine
end

