-- ==== Sys2Proof/Machine/Tensors.lean ====
section
/-! DEFINITION. A tensor of the list and its collectives: bundles (R253), units, formats, frames and cells of each collective (R82,
R240, R241), agreed exponents and codes (R69 to R73), and the decoding of sums (R72, R89). -/

namespace Sys2Proof.Machine
open Sys2Proof

/-! ### Bundles (R253) -/

/-- A tensor entry that stands for none. -/
def TensorEntry.nil : TensorEntry :=
  { method := .dense, xfmt := .f32, gfmt := .f32, rfmt := .f32, ef := false, spec := false, stats := false, gRole := false
    rRole := false, fRole := false, split := 1, bundle := 0, z := 0, x := 0, n := 0, select := 0, a := 0, b := 0, rank := 0
    opfmt := .b16, beam := 0, iters := 0, seed := 0 }

def PartImage.entry (i : PartImage) (t : Nat) : TensorEntry := i.tensors.getD t TensorEntry.nil
/-- The first member of the bundle of tensor `t`, or `t` itself. -/
def PartImage.head (i : PartImage) (t : Nat) : Nat :=
  let b := (i.entry t).bundle
  if b = 0 then t else (i.tensors.findIdx? (fun e => e.bundle == b)).getD t
/-- The tensors exchanged as one with head `h`, in list order. -/
def PartImage.unit (i : PartImage) (h : Nat) : List Nat :=
  let b := (i.entry h).bundle
  if b = 0 then [h] else (List.range i.tensors.length).filter (fun t => (i.entry t).bundle == b)
/-- Blocks of `n` elements. -/
def blocksOf (n : Nat) : Nat := ceilDiv n 256
/-- The element offset of each member of a unit, in list order. -/
def offsetsAux (i : PartImage) : Nat → List Nat → List (Nat × Nat)
  | _, [] => []
  | o, t :: ts => (t, o) :: offsetsAux i (o + 256 * blocksOf (i.entry t).n) ts
def PartImage.offsets (i : PartImage) (h : Nat) : List (Nat × Nat) := offsetsAux i 0 (i.unit h)
/-- The element count of a unit. -/
def PartImage.total (i : PartImage) (h : Nat) : Nat :=
  (i.offsets h).foldl (fun a q => Nat.max a (q.2 + (i.entry q.1).n)) 0

/-! ### HBM contents of a tensor -/

/-- The copies of a tensor when the partition forms from the image (R95, R126). -/
def TMem.form (e : TensorEntry) : TMem :=
  let z := List.replicate (256 * blocksOf e.n) f32Zero
  let c := List.replicate (blocksOf e.n) false
  { copy0 := if e.ef then z else [], copy1 := if e.ef then z else [], poison0 := if e.ef then c else [], poison1 := if e.ef then c else []
    cur1 := false, scratch := if e.ef then [] else z
    idx0 := none, idx1 := none, idxCur1 := false, idxBad := false
    q0 := if e.method = .lowrank then warmSeedQ e.seed e.b e.rank else []
    q1 := if e.method = .lowrank then List.replicate (e.b * e.rank) f32Zero else []
    qCur1 := false, qBad := false, opcopy := [], opBad := false, stats := [] }

def TMem.cur (m : TMem) : List Word := if m.cur1 then m.copy1 else m.copy0
def TMem.alt (m : TMem) : List Word := if m.cur1 then m.copy0 else m.copy1
def TMem.setAlt (m : TMem) (l : List Word) : TMem := if m.cur1 then { m with copy0 := l } else { m with copy1 := l }
def TMem.poison (m : TMem) (copy1 : Bool) : List Bool := if copy1 then m.poison1 else m.poison0
def TMem.setPoison (m : TMem) (copy1 : Bool) (l : List Bool) : TMem :=
  if copy1 then { m with poison1 := l } else { m with poison0 := l }
/-- The poison bit of block `b` in a copy set or cleared (R110). -/
def TMem.mark (m : TMem) (copy1 : Bool) (b : Nat) (v : Bool) : TMem := m.setPoison copy1 ((m.poison copy1).set b v)
/-- The working copy: the alternate copy, or the scratch copy without error feedback (R95, R96). -/
def TMem.work (m : TMem) (ef : Bool) : List Word := if ef then m.alt else m.scratch
def TMem.setWork (m : TMem) (ef : Bool) (l : List Word) : TMem := if ef then m.setAlt l else { m with scratch := l }
def TMem.idxCur (m : TMem) : Option (List Nat) := if m.idxCur1 then m.idx1 else m.idx0
def TMem.setIdxAlt (m : TMem) (l : List Nat) : TMem := if m.idxCur1 then { m with idx0 := some l } else { m with idx1 := some l }
def TMem.qCur (m : TMem) : List Word := if m.qCur1 then m.q1 else m.q0
def TMem.setQAlt (m : TMem) (l : List Word) : TMem := if m.qCur1 then { m with q0 := l } else { m with q1 := l }
/-- The current warm-start Q seeded afresh (R126, R194, R404). -/
def TMem.reseed (m : TMem) (e : TensorEntry) : TMem :=
  if e.method = .lowrank then
    let q := warmSeedQ e.seed e.b e.rank
    { (if m.qCur1 then { m with q1 := q } else { m with q0 := q }) with qBad := false }
  else m

/-- A tensor that has done nothing in the step. -/
def TRun.idle : TRun :=
  { st := .idle, xissued := false, grads := [], left := none, w := [], scores := [], stage := 0, conf := none, pred := none
    predBad := false, group := [], te := [], codes := [], sums := [], sigma := f32Zero, sigmaSum := none, pfac := [], phat := []
    qown := [], qdec := [], qsum := [], cbi := [], mags := [], frames := [], decoded := none, delivered := false, resid := none
    residDone := false, bySteep := false, idxLost := false, qLost := false, bad := [], dirty := [] }

/-! ### Collectives of a tensor -/

/-- The elements of the flattened factor (R125). -/
def TensorEntry.factorN (e : TensorEntry) (q : Bool) : Nat := if q then e.b * e.rank else e.a * e.rank

/-- The element count that a collective's frames carry (R82, R102, R125). -/
def PartImage.kindN (i : PartImage) (h : Nat) (k : RKind) : Nat :=
  match k with
  | .score => blocksOf (i.entry h).n
  | .factorP => (i.entry h).factorN false
  | .factorQ => (i.entry h).factorN true
  | _ => i.total h

/-- The units of a collective, U (R82). -/
def PartImage.kindUnits (i : PartImage) (h : Nat) (k : RKind) : Nat :=
  let e := i.entry h
  match k with
  | .score | .factorP | .factorQ => blocksOf (i.kindN h k)
  | .gather => ceilDiv (i.total h) 128
  | .predicted => kOf (blocksOf e.n) e.select
  | .main => if e.method = .waggle then kOf (blocksOf e.n) e.select else blocksOf (i.total h)

/-- The source format of a collective's frames (R82, R102). -/
def TensorEntry.kindFmt (e : TensorEntry) (k : RKind) : Fmt :=
  match k with | .score => .w64 | _ => e.xfmt
/-- The method of a collective's frames (R102). -/
def TensorEntry.kindMethod (e : TensorEntry) (k : RKind) : Method :=
  match k with | .score => .dense | _ => e.method
/-- The param field of a collective's frames (R82). -/
def TensorEntry.kindParam (e : TensorEntry) (k : RKind) : Nat :=
  match k with
  | .score => codeOf 32 e.z
  | .factorP => e.rank
  | .factorQ => e.rank + 128
  | _ => if e.xfmt = .w32 ∨ e.xfmt = .w64 then codeOf 32 e.x else 0

/-- A statistics stream travels in the same rounds (R174): for LOWRANK that of the Q reduction (R279). -/
def TensorEntry.kindStats (e : TensorEntry) (k : RKind) : Bool :=
  e.stats && (match k with | .score | .factorP => false | _ => true)

/-- Bytes of W64 squares for `u` units (R174). -/
def statsBytes (on : Bool) (u : Nat) : Nat := if on then 2048 * u else 0

/-- The rounds of a collective under the partition's quota (R241): pairs of p0 and u, over `len` units from position `p`. -/
def PartImage.cut (i : PartImage) (v : VSet) (h : Nat) (k : RKind) (p len : Nat) : List (Nat × Nat) :=
  let e := i.entry h
  let big := (dims.map (extent v)).foldl Nat.max 1
  let rs := match k with
    | .gather => cutGather i.quota (groupSize v) len
    | _ => cutReduce i.quota (slotBytes (e.kindFmt k) big (effSplit v e.split) (e.kindStats k)) len
  rs.map (fun q => (p + q.1, q.2))

/-- The cells a round of `u` units takes (R240). -/
def PartImage.cellsFor (i : PartImage) (v : VSet) (h : Nat) (k : RKind) (u : Nat) : Nat :=
  let e := i.entry h
  let big := (dims.map (extent v)).foldl Nat.max 1
  match k with
  | .gather => cellsGather (groupSize v) u
  | _ => cellsOf (slotBytes (e.kindFmt k) big (effSplit v e.split) (e.kindStats k)) u

/-! ### Scales and codes -/

/-- The value kept for a collective. -/
def lookupKind {α : Type} (l : List (RKind × α)) (k : RKind) (d : α) : α :=
  match l.find? (fun q => q.1 == k) with | some q => q.2 | none => d

/-- The elements of unit `i` of a flat list of units of 256. -/
def unitOf {α : Type} (l : List α) (i : Nat) : List α := (l.drop (256 * i)).take 256

/-- Units of 256 elements, the last padded with +0. -/
def padUnits (l : List Word) : List Word := l ++ List.replicate (256 * blocksOf l.length - l.length) f32Zero

/-- The local exponents that scale agreement carries: one per tile, or one per block for BX (R69, R70). -/
def localExps (f : Fmt) (vals : List Word) : List Nat :=
  if f.isBx then (chunks 256 vals).map localExp
  else if f.shift?.isSome then (chunks 4096 vals).map localExp
  else []

/-- The agreed tile exponent and the block shift of the unit at position `i` (R70, R71). -/
def teAt (f : Fmt) (te : List Nat) (i : Nat) : Nat × Nat :=
  if f.isBx then
    let t := ((te.drop (i / 16 * 16)).take 16).foldl Nat.max 0
    (t, bxShift t (te.getD i 0))
  else (te.getD (i / 16) 0, 0)

/-- The scale section of a round (R73, R83). -/
def scaleSection (f : Fmt) (te : List Nat) (p0 u : Nat) : List Byte :=
  (List.range (ceilDiv u 16)).flatMap (fun j =>
    let p := p0 + 16 * j
    let t := (teAt f te p).1
    if f.isBx then
      let w := if t = 0 ∨ t = 0xFF then 0 else
        (List.range (Nat.min 16 (p0 + u - p))).foldl (fun a k => a + (teAt f te (p + k)).2 * 4 ^ k) 0
      byteOf t :: leBytes 4 w
    else if f.shift?.isSome then [byteOf t] else [])

/-- The Quantiser over the units of a collective (R64, R68, R71). -/
def quantiseUnits (e : TensorEntry) (f : Fmt) (te : List Nat) (vals : List Word) : List Conv :=
  ((chunks 256 vals).zipIdx).flatMap (fun q =>
    let s := teAt f te q.2
    q.1.map (fun x => quantise f s.1 s.2 e.x (f32Val x)))

/-- What a contribution's code enters the accumulator as (R160). -/
def enterAcc (f : Fmt) (te c : Nat) : Nat :=
  match f.accum with
  | .f32 => if f.shift?.isSome ∧ (te = 0 ∨ te = 0xFF) then 0 else (widen f te c).toNat
  | .w64 => codeOf 64 (intValue f c)
  | _ => codeOf 32 (intValue f c)

/-- The square that a member contributes beside a code (R174). -/
def enterSq (f : Fmt) (te c : Nat) : Nat := if te = 0 ∨ te = 0xFF then 0 else squareOf f c

/-- The codes of a contribution, unit by unit from position `p0`, as leaves of the accumulator. -/
def leaves (f : Fmt) (te : List Nat) (p0 : Nat) (codes : List Nat) : List Nat :=
  ((chunks 256 codes).zipIdx).flatMap (fun q => q.1.map (enterAcc f (teAt f te (p0 + q.2)).1))

/-- The drained accumulators of a collective in position order. -/
def TRun.drained (r : TRun) (k : RKind) (sq : Bool) : List Nat :=
  let ps := sortBy (fun a b => decide (a.p0 < b.p0)) (r.sums.filter (fun s => s.kind == k))
  ps.flatMap (fun s => if sq then s.sq else s.acc)

/-- Drained accumulators decoded into F32, unit by unit (R72, R78). -/
def decodeUnits (e : TensorEntry) (f : Fmt) (te : List Nat) (acc : List Nat) : List Word :=
  ((chunks 256 acc).zipIdx).flatMap (fun q =>
    let s := teAt f te q.2
    q.1.map (dequantSum f s.1 s.2 e.x))

/-- A chip's own codes decoded (R98). -/
def decodeOwnUnits (e : TensorEntry) (f : Fmt) (te : List Nat) (codes : List Nat) : List Word :=
  ((chunks 256 codes).zipIdx).flatMap (fun q =>
    let s := teAt f te q.2
    q.1.map (decodeOwn f s.1 s.2 e.x))

/-- Units at positions scattered to their blocks of a dense tensor of `b` blocks; every other block +0 (R89). -/
def scatterBlocks (b : Nat) (blocks : List Nat) (vals : List Word) : List Word :=
  (List.range b).flatMap (fun k =>
    match blocks.findIdx? (· == k) with
    | some i => unitOf vals i
    | none => List.replicate 256 f32Zero)

/-- The elements of the blocks named, in order. -/
def gatherBlocks (blocks : List Nat) (vals : List Word) : List Word := blocks.flatMap (unitOf vals)

/-- A unit's flat values from its members' lists. -/
def PartImage.flat (i : PartImage) (h : Nat) (f : Nat → List Word) : List Word := (i.unit h).flatMap f

end Sys2Proof.Machine
end

