-- ==== Sys2Proof/Machine/Fabric.lean ====
section
/-! DEFINITION. The collectives of a step in the fabric: abort messages (R248, R249), buzz operations (R230 to R234), bulk rounds and
their phases (R235 to R242), and cap reports (R244, R245). -/

namespace Sys2Proof.Machine
open Sys2Proof

/-! ### The running step of a partition -/

def Block.run? (b : Block) (p : PartId) : Option StepRun := (b.part p).run
def Block.modRun (b : Block) (p : PartId) (f : StepRun → StepRun) : Block :=
  b.modPart p (fun x => { x with run := x.run.map f })
def Block.image (b : Block) (p : PartId) : PartImage :=
  match (b.part p).img with
  | some i => i
  | none => { tensors := [], prog := [], progOff := 0, vset := Vector.replicate 6 0, quota := 0, share := 0, weight := 1, timeout := 0
              cbE := 0, key := [], cbDigest := [], progDigest := [], entryDigest := [] }
def StepRun.trun (r : StepRun) (h : Nat) : TRun := r.runs.getD h TRun.idle
def StepRun.modT (r : StepRun) (h : Nat) (f : TRun → TRun) : StepRun := { r with runs := r.runs.modify h f }
def Block.modT (b : Block) (p : PartId) (h : Nat) (f : TRun → TRun) : Block := b.modRun p (fun r => r.modT h f)
def Block.tmem (b : Block) (p : PartId) (t : Nat) : TMem := (b.part p).tens.getD t (TMem.form TensorEntry.nil)
def Block.modTMem (b : Block) (p : PartId) (t : Nat) (f : TMem → TMem) : Block :=
  b.modPart p (fun x => { x with tens := x.tens.modify t f })
/-- The step's epoch (R55). -/
def StepRun.epoch (r : StepRun) : Nat := r.stepNo.toNat % 256
/-- The physical coordinate behind a logical one, and the other way, by the table of the step's generation (R188, R194). -/
def StepRun.physOf (r : StepRun) (l : Coord) : Coord :=
  match r.table.find? (fun a => a.logical == l) with | some a => a.physical | none => l
def StepRun.logOf (r : StepRun) (q : Coord) : Coord :=
  match r.table.find? (fun a => a.physical == q) with | some a => a.logical | none => q
/-- Members of the step's group. -/
def StepRun.members (r : StepRun) : Nat := groupSize r.group

/-! ### Cells and tokens (R242, R56) -/

def Block.freeCells (b : Block) (n : Nat) : Block := { b with hcbFree := b.hcbFree + n }
def Block.takeCells (b : Block) (n : Nat) : Block := { b with hcbFree := b.hcbFree - n }
def Block.freeToken (b : Block) (c : CombId) : Block := b.modComb c (fun x => { x with tokFree := x.tokFree + 1, tokUsed := x.tokUsed - 1 })
def Block.takeToken (b : Block) (c : CombId) : Block := b.modComb c (fun x => { x with tokFree := x.tokFree - 1, tokUsed := x.tokUsed + 1 })

/-! ### Sending -/

/-- A buzz message of the step to a member, by its logical coordinate (R204, R233). -/
def Block.sendBuzz (b : Block) (p : PartId) (r : StepRun) (dst : Coord) (op redo opidx : Nat) (src : Coord) (body : List Byte) : Block :=
  let join := (b.part p).joining && !r.agreed && opidx == 0 && op == 8
  let h := headBytes 1 body.length (r.physOf dst) b.boot.physCoord p r.epoch join (BuzzHead.bytes ⟨op, redo, opidx, src⟩)
  b.sendMsg p h body

/-- Every member of each of this chip's lines with extent above 1 (R248). -/
def StepRun.lineMembers (r : StepRun) : List Coord := (openDims r.group).flatMap (fun d => lineOthers r.group d r.me)

/-- The payload of an abort message (R232). -/
def abortBody (code opidx : Nat) (org : Coord) : List Byte := leBytes 2 code ++ leBytes 2 opidx ++ leBytes 4 org.toNat

/-- An abort message to every line member (R248). -/
def Block.sendAborts (b : Block) (p : PartId) (r : StepRun) (code opidx : Nat) (org : Coord) : Block :=
  (r.lineMembers).foldl (fun b q => b.sendBuzz p r q 0x11 0 opidx org (abortBody code opidx org)) b

/-- Bulk messages of the step that have not begun leave the queues (R248). -/
def Link.dropBulk (x : Link) (me : Coord) (p : PartId) (ep : Nat) : Link :=
  { x with tx := { x.tx with qBulk := x.tx.qBulk.filter (fun m => !(hdOrg m.head == me && hdPart m.head == p && hdEpoch m.head == ep)) } }
def Block.stopBulk (b : Block) (p : PartId) (ep : Nat) : Block :=
  { b with links := Vector.ofFn (fun (l : LinkId) => (b.link l).dropBulk b.boot.physCoord p ep)
           heldFlits := b.heldFlits.filter (fun h => !(hdClass h.2.1 == 2 && hdOrg h.2.1 == b.boot.physCoord && hdPart h.2.1 == p &&
             hdEpoch h.2.1 == ep)) }

/-- A waiting abort message of this chip, when `own` says so, with the opidx of a higher cause in its head. -/
def raiseHead (own : List Byte → Bool) (opidx : Nat) (h : List Byte) : List Byte :=
  if own h then h.take 0x12 ++ leBytes 2 opidx ++ h.drop 0x14 else h

/-- A second cause of the same KT with a higher code: the abort that this chip has originated, and that no other has met, carries it (R248).
A copy that a slot of this KT has already taken keeps the lower one (DESIGN CHOICE, log entry 72). -/
def Block.raiseOwn (b : Block) (p : PartId) (r : StepRun) (code opidx : Nat) : Block :=
  let own (h : List Byte) : Bool := hdClass h == 1 && hdOrg h == b.boot.physCoord && hdPart h == p && hdEpoch h == r.epoch &&
    (hdBuzz h).op == 0x11 && (hdBuzz h).contributor == r.me
  let body := padTo 64 (abortBody code opidx r.me)
  let b := b.modRun p (fun r => { r with abort := some code, reseed := r.reseed || code == 0x0311 })
  { b with links := b.links.map (fun x => { x with tx := { x.tx with
             qBuzz := x.tx.qBuzz.map (fun m => (raiseHead own opidx m.1, if own m.1 then body else m.2)) } })
           heldFlits := b.heldFlits.map (fun h => (h.1, raiseHead own opidx h.2.1, if own h.2.1 then [body] else h.2.2)) }

/-- This chip originates the common abort for the step, unless it has met one (R248). -/
def Block.originate (b : Block) (p : PartId) (code opidx : Nat) : Block :=
  match b.run? p with
  | none => b
  | some r =>
    let me := r.me
    match r.abort with
    | some c => if r.seenAbort = [me] ∧ r.abortAt = b.now ∧ c < code then b.raiseOwn p r code opidx else b
    | none =>
      let b := b.modRun p (fun r => { r with abort := some code, abortAt := b.now, seenAbort := me :: r.seenAbort, launches := []
                                             reseed := r.reseed || code == 0x0311 })
      (b.stopBulk p r.epoch).sendAborts p r code opidx me

/-- An abort message of the step arrives (R248, R249): forwarded once, and the highest code is kept. -/
def Block.takeAbort (b : Block) (p : PartId) (r : StepRun) (h body : List Byte) : Block :=
  let org := (hdBuzz h).contributor
  let code := field body 0 2
  if r.seenAbort.contains org then b
  else
    let b := b.modRun p (fun r => { r with
      abort := some (match r.abort with | some c => Nat.max c code | none => code)
      abortAt := if r.abort.isSome then r.abortAt else b.now
      seenAbort := org :: r.seenAbort, launches := [], reseed := r.reseed || code == 0x0311 })
    (b.stopBulk p r.epoch).sendAborts p r code (hdBuzz h).opidx org

/-! ### Buzz operations -/

/-- Bytes of an operand (R232). -/
def buzzWidth (op : Nat) : Nat :=
  match op with | 2 | 4 | 7 => 4 | 3 | 8 => 8 | 6 => 2 | _ => 1
/-- The operator (R232). -/
def buzzOperator (op : Nat) : Operator :=
  match op with | 2 => .sum32 | 3 => .sum64 | 4 => .sumF | 6 => .max 16 | 7 => .max 32 | 8 => .max 64 | _ => .max 8
/-- The operation is a sum, which a cap report ends (R244). -/
def BuzzOp.isSum (o : BuzzOp) : Bool := decide (2 ≤ o.op) && decide (o.op ≤ 4)
/-- The operation is a cap report. -/
def BuzzOp.isReport (o : BuzzOp) : Bool := o.op == 0x10

/-- The part of a split that this chip, or a member, belongs to (R166). -/
def ownPart (v : VSet) (split : Nat) (me : Coord) : Nat :=
  if 1 < split then match splitDim v split with | some d => position v d me % split | none => 0 else 0

/-- Positions of the line of exchange `d`: in d* of a split sum only those of one part (R233, R237). -/
def sameLine (v : VSet) (split d : Nat) (me : Coord) : List Coord :=
  if 1 < split ∧ splitDim v split = some d then
    (line v d me).filter (fun c => position v d c % split == position v d me % split)
  else line v d me
/-- The members a chip sends its partial to in an exchange: 8 and above, the combine exchange (R233, R237). -/
def exchangeTo (v : VSet) (split x : Nat) (me : Coord) : List Coord :=
  if x < 8 then (sameLine v split x me).filter (· != me)
  else
    let d := x - 8
    let k := position v d me
    if k < split then (line v d me).filter (fun c => position v d c % split != k) else []
/-- The order of the values that an exchange combines, and what it knows them by: the position, or the part of a split (R164, R167, R168). -/
def exchangeRank (v : VSet) (split x : Nat) (c : Coord) : Nat :=
  if x < 8 then position v x c else ownPart v split c
/-- The members that an exchange may receive from: this chip's own line of it, or the other parts' members on the line of d* (R233, R237). -/
def exchangeFrom (v : VSet) (split x : Nat) (me : Coord) : List Coord :=
  if x < 8 then (sameLine v split x me).filter (· != me)
  else (line v (x - 8) me).filter (fun c => ownPart v split c != ownPart v split me)
/-- The ranks that an exchange waits for: a value of every other position of the line, or of every other part. -/
def exchangeWants (v : VSet) (split x : Nat) (me : Coord) : List Nat :=
  if x < 8 then (exchangeFrom v split x me).map (exchangeRank v split x)
  else (List.range split).filter (· != ownPart v split me)

/-- The values of an exchange in the order of line(). -/
def inOrder {α : Type} (ls : List (Nat × α)) : List α := (sortBy (fun a b => decide (a.1 < b.1)) ls).map Prod.snd

/-! ### Failed residue checks (R171 to R173) -/

/-- Failed checks are counted for their adders and logged (R173, R459): `tensor` and `rnd` of the round, 0 and 0 for a buzz sum of no tensor
(DEDUCED, log entry 51). -/
def Block.resFails (b : Block) (p : PartId) (tensor rnd : Nat) (fs : Strikes) : Block :=
  fs.foldl (fun b f =>
    match f.2.combine with
    | none => (b.modLink f.1 (fun x => { x with cnt := { x.cnt with resErr := satAdd x.cnt.resErr 1 } })).log 0x0350 (.link f.1) (some p)
        [tensor, rnd]
    | some k => ({ b with hcbResErr := satAdd b.hcbResErr 1 }).log 0x0350 (.honeycomb k) (some p) [tensor, rnd]) b

/-- Free values for what struck FP32 adders answer (R172): the value of addition `k` of element `i`, where strikes are due. -/
def Block.strikeDraw (b : Block) (ss : Strikes) : (Nat → Nat → Word) × Block :=
  if ss.isEmpty then (fun _ _ => f32Zero, b)
  else let d := b.draw; (fun i k => Config.faultyF32 d.1 i k, d.2)

/-- The partial leaves for every member of the exchange in hand (R233). -/
def Block.buzzSend (b : Block) (p : PartId) (r : StepRun) (o : BuzzOp) (x : Nat) : Block :=
  (exchangeTo r.group o.split x r.me).foldl (fun b q =>
    b.sendBuzz p r q o.op o.redo o.opidx r.me (o.cur.flatMap (leBytes (buzzWidth o.op)))) b

/-- The tensor whose adders a buzz sum's strikes are logged for. -/
def Purpose.tensor : Purpose → Nat
  | .score t => t | .sigma t => t | .scale t _ _ => t | .digest t => t | _ => 0

/-- Exchanges run as far as the contributions held allow (R233). A sum without its token sends nothing (R56). -/
def Block.buzzGo (p : PartId) (r : StepRun) : Nat → Block → BuzzOp → Block × BuzzOp
  | 0, b, o => (b, o)
  | n + 1, b, o =>
    match o.dims with
    | [] => (b, o)
    | x :: rest =>
      if o.isSum && !o.token then (b, o)
      else
        let at' := (exchanges r.group o.split).length - o.dims.length
        let b := if at' < o.sent then b else b.buzzSend p r o x
        let o := { o with sent := Nat.max o.sent (at' + 1) }
        let from' := exchangeFrom r.group o.split x r.me
        let rank := exchangeRank r.group o.split x
        let mine := o.got.filter (fun g => from'.contains g.src)
        if (exchangeWants r.group o.split x r.me).all (fun k => mine.any (fun g => rank g.src == k)) then
          let ss := mine.filterMap Contrib.strike
          let d := b.strikeDraw ss
          let y := (buzzOperator o.op).lineLists d.1 ss (inOrder ((rank r.me, o.cur) :: mine.map (fun g => (rank g.src, g.vals))))
          let got := o.got.map (fun g => if from'.contains g.src then { g with strike := none } else g)
          Block.buzzGo p r n (d.2.resFails p o.why.tensor 0 y.2)
            { o with cur := y.1, dims := rest, got := got, resFail := o.resFail || !y.2.isEmpty }
        else (b, o)

/-- The operation has its result on this chip, every message confirmed (R234). -/
def BuzzOp.complete (o : BuzzOp) : Bool :=
  o.dims.isEmpty && o.got.all (fun g => g.conf.isNone) && (!o.isSum || o.token)

/-- The part whose sum a contribution brings to the combine exchange of a split sum (R233). -/
def BuzzOp.combinePart (o : BuzzOp) (v : VSet) (me src : Coord) : Option Nat :=
  match (exchanges v o.split).getLast? with
  | some x => if 8 ≤ x ∧ (exchangeFrom v o.split x me).contains src then some (ownPart v o.split src) else none
  | none => none

/-- The contribution is one that the operation holds: the same identifier (R205), or a part that the combine has recorded (R168). -/
def BuzzOp.holds (o : BuzzOp) (v : VSet) (me src : Coord) : Bool :=
  o.got.any (fun g => g.src == src || (let k := o.combinePart v me src; k.isSome && o.combinePart v me g.src == k))

/-- A contribution joins an operation. -/
def BuzzOp.add (o : BuzzOp) (src : Coord) (body : List Byte) (conf : Option (LinkId × BitVec 12)) (strike : Option (LinkId × Strike)) : BuzzOp :=
  { o with got := o.got ++ [⟨src, (chunks (buzzWidth o.op) body).map leNat, conf, strike⟩] }

/-- Redo counts as the 8 bits of a head carry them: `a` comes before `b` (R204). -/
def redoBefore (a b : Nat) : Bool := let d := (b + 256 - a % 256) % 256; decide (0 < d) && decide (d < 128)

/-- What an arriving buzz message meets in the step. -/
inductive BuzzMeet where
  | join | hold | discard | clash
deriving DecidableEq, Repr

/-- The operation's payload length in bytes. -/
def BuzzOp.len (o : BuzzOp) : Nat := o.own.length * buzzWidth o.op

/-- The reception of a buzz message by the operations of the step (R205, R230). -/
def StepRun.meet (r : StepRun) (h : BuzzHead) (len : Nat) : BuzzMeet :=
  let own := r.buzz.find? (fun o => o.opidx == h.opidx && !o.isReport)
  let rep := r.buzz.find? (fun o => o.opidx == h.opidx && o.isReport && o.redo == h.redo)
  let round := r.rounds.find? (fun o => o.opidx == h.opidx)
  if h.op = 0x10 then
    match own, round with
    | none, none => .hold
    | some o, _ => if !o.isSum then .clash else if rep.isSome then .join else if redoBefore h.redo o.redo then .discard else .hold
    | none, some o => if rep.isSome then .join else if redoBefore h.redo o.redo then .discard else .hold
  else
    match own, round with
    | _, some _ => .clash
    | none, none => .hold
    | some o, _ =>
      if o.op ≠ h.op ∨ o.len ≠ len then .clash
      else if redoBefore h.redo o.redo then .discard else if redoBefore o.redo h.redo then .hold else .join

/-- The operation that a message is for. -/
def BuzzOp.is (o : BuzzOp) (h : BuzzHead) : Bool := o.opidx == h.opidx && o.redo == h.redo && o.op == h.op

/-- The operation of a message takes its contribution, unless it holds it. -/
def StepRun.joinBuzz (r : StepRun) (h : BuzzHead) (body : List Byte) (conf : Option (LinkId × BitVec 12)) (strike : Option (LinkId × Strike)) :
    StepRun :=
  { r with buzz := r.buzz.map (fun o => if o.is h && !o.holds r.group r.me h.contributor then o.add h.contributor body conf strike else o) }

/-- The message brings a part that the combine of its operation has recorded: it is logged (R168). -/
def StepRun.twice (r : StepRun) (h : BuzzHead) : Bool :=
  r.buzz.any (fun o => o.is h && o.holds r.group r.me h.contributor && (o.combinePart r.group r.me h.contributor).isSome)

/-- A buzz message of the running step (R205, R230, R248): nothing is decided on one that is not confirmed (R187, R234). -/
def Block.takeBuzz (b : Block) (p : PartId) (r : StepRun) (m : HeldMsg) : Block :=
  let h := hdBuzz m.head
  let body := m.body.take (hdLen m.head)
  let hold := b.modRun p (fun r => { r with held := r.held ++ [m] })
  if h.op = 0x11 then (if m.conf.isSome then hold else b.takeAbort p r m.head body)
  else if r.abort.isSome then b
  else match r.meet h body.length with
  | .discard => b
  | .clash => if m.conf.isSome then hold else b.originate p 0x0103 h.opidx
  | .hold => hold
  | .join =>
    let b := if r.twice h then b.log 0x0106 (.link m.link) (some p) [] else b
    let strike := match m.fault with | .adder s => some (m.link, s) | _ => none
    b.modRun p (fun r => r.joinBuzz h body (m.conf.map (fun s => (m.link, s))) strike)

/-- Messages held for operations that exist now are taken again (R55, R230). -/
def Block.retakeHeld (b : Block) (p : PartId) : Block :=
  match b.run? p with
  | none => b
  | some r => (r.held.filter HeldMsg.buzz).foldl (fun b m => match b.run? p with | some r => b.takeBuzz p r m | none => b)
      (b.modRun p (fun r => { r with held := r.held.filter (fun m => !m.buzz) }))

/-- The next opidx is taken; beyond 65,535 the step aborts with 0x0104 (R230). -/
def Block.launchBuzz (b : Block) (p : PartId) (op : Nat) (why : Purpose) (own : List Nat) (split : Nat) : Block :=
  match b.run? p with
  | none => b
  | some r =>
    if 65535 < r.next then b.originate p 0x0104 65535
    else
      let o : BuzzOp := { opidx := r.next, redo := 0, op := op, why := why, own := own, split := split, dims := exchanges r.group split
                          cur := own, got := [], sent := 0, token := false, failed := false, resFail := false, counted := 0
                          shown := false, capped := false, since := b.now }
      (b.modRun p (fun r => { r with next := r.next + 1, buzz := r.buzz ++ [o] })).retakeHeld p

/-! ### Bulk rounds -/

/-- The frame header of a round: a contribution frame, or a sum frame (R81, R87). -/
def PartImage.frameHdr (i : PartImage) (p : PartId) (ep : Nat) (src : Coord) (r : Round) (sum : Bool) : FrameHdr :=
  let e := i.entry r.tensor
  let f := e.kindFmt r.kind
  let us := i.kindUnits r.tensor r.kind
  { method := e.kindMethod r.kind, src := f, pay := if sum then f.accum else f, sum := sum, predicted := r.kind == .predicted
    last := r.p0 + r.u == us, partition := p, epoch := ep, tensor := r.tensor, round := r.rnd, n := i.kindN r.tensor r.kind
    p0 := r.p0, u := r.u, uAll := us, param := e.kindParam r.kind, source := src.toNat }

/-- The header of the frame of squares that goes with a round frame (R174): a sum frame of format W64. -/
def FrameHdr.squares (h : FrameHdr) : FrameHdr := { h with src := .w64, pay := .w64, sum := true }

/-- The frames that a chip sends of a round (R174, R235): its codes or sums, and the squares where the tensor has statistics. -/
def PartImage.roundFrames (i : PartImage) (h : FrameHdr) (r : Round) (codes sq : List Nat) : List (List Byte) :=
  frameBytes h r.scales r.blocks (packCodes h.pay.width codes) ::
  (if (i.entry r.tensor).kindStats r.kind then [frameBytes h.squares [] r.blocks (packCodes 64 sq)] else [])

/-- The frames a member of an all-gather holds before phase `d` (R239). -/
def framesBefore (v : VSet) (d : Nat) : Nat := (((openDims v).filter (fun x => decide (x < d))).map (extent v)).foldl (· * ·) 1

/-- One stream of bytes as bulk messages to a member (R203, R235). -/
def Block.sendBulk (b : Block) (p : PartId) (r : StepRun) (dst : Coord) (o : Round) (phase part : Nat) (bytes : List Byte) : Block :=
  ((chunks 4096 bytes).zipIdx).foldl (fun b q =>
    let h := headBytes 2 q.1.length (r.physOf dst) b.boot.physCoord p r.epoch false
      (BulkHead.bytes ⟨o.tensor, o.rnd, phase, part, o.redo, 4096 * q.2⟩)
    b.sendMsg p h q.1) b

/-- The effective split of a round's tensor (R166, R195); an all-gather has none. -/
def PartImage.splitOf (i : PartImage) (v : VSet) (r : Round) : Nat :=
  if r.kind = .gather then 1 else effSplit v (i.entry r.tensor).split

/-- The round's current partial leaves for the phase in hand (R235, R237, R239): each frame as messages of its own, with offsets from 0. -/
def Block.roundSend (b : Block) (p : PartId) (r : StepRun) (o : Round) (first : Bool) : Block :=
  match o.phases with
  | [] => b
  | x :: _ =>
    let i := b.image p
    let me := r.me
    let s := i.splitOf r.group o
    let hdr := i.frameHdr p r.epoch me o (!first && o.kind != .gather)
    let frames := if o.kind = .gather then (sortBy (fun a b => decide (a.1.toNat < b.1.toNat)) o.gathered).map Prod.snd
      else i.roundFrames hdr o (if first then o.own else o.cur) (if first then o.ownSq else o.curSq)
    (exchangeTo r.group s x me).foldl (fun b q =>
      frames.foldl (fun b f => b.sendBulk p r q o (x % 8) (ownPart r.group s me) f) b) b

/-! ### Arriving frames -/

/-- The bytes of a frame from its first on, as far as they have arrived without a gap. -/
def RxFrame.bytes (f : RxFrame) : List Byte :=
  (sortBy (fun a b => decide (a.1 < b.1)) f.pieces).foldl (fun bs q => if q.1 = bs.length then bs ++ q.2 else bs) []

/-- The frame has arrived to the length that its header names. -/
def RxFrame.whole (f : RxFrame) : Bool :=
  let bs := f.bytes
  decide (64 ≤ bs.length) && decide (field bs 0x30 4 ≤ bs.length)

/-- The phase of R237 that a frame belongs to: the combine phase of a split is told from the phase in d* by its part. -/
def phaseDim (v : VSet) (s : Nat) (me : Coord) (phase part : Nat) : Nat :=
  if 1 < s ∧ splitDim v s = some phase ∧ part ≠ ownPart v s me then 8 + phase else phase

/-- What a frame is known by in its phase: the sender's position, or its part number (R168). -/
def frameRank (v : VSet) (x : Nat) (src : Coord) (part : Nat) : Nat := if x < 8 then position v x src else part

/-- The frames that a round expects from each sender in a phase (R174, R239). -/
def PartImage.framesEach (i : PartImage) (v : VSet) (o : Round) (x : Nat) : Nat :=
  if o.kind = .gather then framesBefore v x else 1 + b2n ((i.entry o.tensor).kindStats o.kind)

/-- What the receiver holds for frame `no` of a sender (R92, R230): the squares follow the sums (R174). -/
def PartImage.frameExp (i : PartImage) (p : PartId) (o : Round) (sum : Bool) (no room : Nat) : FrameExp :=
  let e := i.entry o.tensor
  let sq := o.kind != .gather && decide (0 < no)
  { form := some (e.kindMethod o.kind, if sq then .w64 else e.kindFmt o.kind, sum || sq)
    partition := p, tensor := o.tensor, round := o.rnd, n := i.kindN o.tensor o.kind, uAll := i.kindUnits o.tensor o.kind
    param := e.kindParam o.kind, predicted := o.kind == .predicted
    blocks := if e.kindMethod o.kind = .waggle then some o.blocks else none, room := room }

/-- The room that a round gives an arriving frame (check 9 of R92): never less than a frame of the round's own layout, whose header and
scale bytes are not kept in cells (DEDUCED, log entry 73). -/
def PartImage.frameRoom (i : PartImage) (o : Round) : Nat :=
  let e := i.entry o.tensor
  let f := e.kindFmt o.kind
  let len (src pay : Fmt) : Nat := (frameLayout (e.kindMethod o.kind) src pay o.u).frameLen
  Nat.max (4096 * o.cells) (Nat.max (len f f) (Nat.max (if o.kind = .gather then 0 else len f f.accum)
    (if e.kindStats o.kind then len .w64 .w64 else 0)))

/-- Values of units from position `p0` on, those of elements beyond n being 0 (R85). -/
def liveVals (n p0 : Nat) (blocks vals : List Nat) : List Nat :=
  ((chunks 256 vals).zipIdx).flatMap (fun q =>
    let k := n - 256 * (if blocks.isEmpty then p0 + q.2 else blocks.getD q.2 0)
    q.1.take k ++ List.replicate (q.1.length - k) 0)

/-- The values of the units that a frame's bytes hold, as the accumulator takes them (R85, R160); fewer where bytes are still to come. -/
def PartImage.frameVals (i : PartImage) (o : Round) (te : List Nat) (sum : Bool) (no : Nat) (bs : List Byte) : List Nat :=
  let e := i.entry o.tensor
  let f := e.kindFmt o.kind
  let sq := decide (0 < no)
  let src := if sq then .w64 else f
  let lay := frameLayout (e.kindMethod o.kind) src (if sum then src.accum else src) o.u
  let codes := unpackCodes (if sum then src.accum else src).width (slice bs lay.payOff lay.payLen)
  liveVals (i.kindN o.tensor o.kind) o.p0 o.blocks
    (if sum ∨ sq then codes else leaves f te o.p0 codes)

/-- What a phase of a round runs on: its number (8 and above the combine), whether sum frames travel in it, whether the adders are integer, the
operator, the agreed exponents and this chip's part. -/
structure PhaseView where
  x : Nat
  sum : Bool
  isInt : Bool
  op : Operator
  te : List Nat
  split : Nat
  part : Nat

/-- The phase in hand of a round. -/
def Block.phaseView (b : Block) (p : PartId) (r : StepRun) (o : Round) (x : Nat) : PhaseView :=
  let i := b.image p
  let s := i.splitOf r.group o
  let f := (i.entry o.tensor).kindFmt o.kind
  { x := x, sum := o.phases.length != (exchanges r.group s).length && o.kind != .gather, isInt := f.accum != .f32, op := f.operator
    te := lookupKind (r.trun o.tensor).te o.kind [], split := s, part := ownPart r.group s r.me }

/-- The frame belongs to the phase in hand. -/
def PhaseView.has (w : PhaseView) (r : StepRun) (g : RxFrame) : Bool := phaseDim r.group w.split r.me g.phase g.part == w.x

/-- The strikes on the additions of a frame whose values have been added, one by one to a cell: the struck results, and the strikes whose check
failed (R171). -/
def struckInts (op : Operator) (free : Nat → Nat → Word) (ss : Strikes) (xs ys : List Nat) : List Nat × Strikes :=
  ss.foldl (fun st s =>
    match xs[s.2.elem]?, ys[s.2.elem]? with
    | some x, some y =>
      let z := op.struck (free s.2.elem s.2.node) x y s.2.hit
      (st.1.set s.2.elem z.1, if z.2 then st.2 else st.2 ++ [s])
    | _, _ => st) ((xs.zip ys).map (fun q => op.comb q.1 q.2), [])

/-- A whole frame of the phase in hand is taken (R236, R239): integers and squares are added to their cells at once, a float leaf waits for the
line, a gathered frame is kept. -/
def Block.takeFrame (b : Block) (p : PartId) (r : StepRun) (w : PhaseView) (o : Round) (g : RxFrame) : Block × Round :=
  let bs := g.bytes
  let o := { o with frames := o.frames.map (fun y => if y == g then { y with taken := true } else y) }
  if o.kind = .gather then
    (b, { o with gathered := o.gathered ++ [(coordOf (field bs 0x38 4), bs.take (field bs 0x30 4))] })
  else
    let vals := (b.image p).frameVals o w.te w.sum g.no bs
    if 0 < g.no then
      let y := struckInts .sum64 (fun _ _ => f32Zero) g.faults o.curSq vals
      (b.resFails p o.tensor o.rnd y.2, { o with curSq := y.1, resFail := o.resFail || !y.2.isEmpty })
    else if w.isInt then
      let y := struckInts w.op (fun _ _ => f32Zero) g.faults o.cur vals
      (b.resFails p o.tensor o.rnd y.2, { o with cur := y.1, resFail := o.resFail || !y.2.isEmpty })
    else (b, { o with parts := o.parts ++ [(frameRank r.group w.x g.src g.part, vals)] })

/-- The strikes on the float line of the phase in hand (R171). -/
def PhaseView.lineStrikes (w : PhaseView) (r : StepRun) (o : Round) : Strikes :=
  (o.frames.filter (fun g => w.has r g && g.no == 0)).flatMap RxFrame.faults

/-- Frames of the phase in hand are checked as they arrive and taken when they are whole (R92, R93, R236): the block and round after it, and the
code and frame of a rejection. A frame that passes every check but holds other positions than the round's own completes nothing
(DEDUCED, log entry 73). -/
def Block.takeFrames (b : Block) (p : PartId) (r : StepRun) (w : PhaseView) (o : Round) : Block × Round × Option (Nat × RxFrame) :=
  let i := b.image p
  (o.frames.filter (fun g => w.has r g && !g.taken)).foldl (fun (st : Block × Round × Option (Nat × RxFrame)) g =>
    let bs := g.bytes
    if st.2.2.isSome ∨ bs.length < 64 then st
    else
      let e := i.frameExp p o w.sum g.no (i.frameRoom o)
      match checkHead bs e with
      | some code => (st.1, st.2.1, some (code, g))
      | none =>
        if !g.whole then st
        else match checkBody bs e with
        | some code => (st.1, st.2.1, some (code, g))
        | none =>
          if field bs 0x14 4 ≠ o.p0 ∨ field bs 0x18 4 ≠ o.u then st
          else let y := st.1.takeFrame p r w st.2.1 g; (y.1, y.2, none)) (b, o, none)

/-- Every member, or every other part, has sent all its frames of the phase in hand (R235 to R239). -/
def Block.phaseDone (b : Block) (p : PartId) (r : StepRun) (w : PhaseView) (o : Round) : Bool :=
  let each := (b.image p).framesEach r.group o w.x
  (exchangeWants r.group w.split w.x r.me).all (fun k => decide (each ≤
    (o.frames.filter (fun g => w.has r g && g.taken && frameRank r.group w.x g.src g.part == k)).length))

/-- A running round goes on as far as its frames allow (R235 to R239). -/
def Block.roundGo (p : PartId) (r : StepRun) : Nat → Block → Round → Block × Round × Option (Nat × RxFrame)
  | 0, b, o => (b, o, none)
  | n + 1, b, o =>
    match o.phases with
    | [] => (b, { o with st := if o.st = .running then .done else o.st }, none)
    | x :: rest =>
      let w := b.phaseView p r o x
      let t := b.takeFrames p r w o
      if t.2.2.isSome ∨ !t.1.phaseDone p r w t.2.1 then t
      else
        let o := t.2.1
        let ss := if w.isInt ∨ o.kind = .gather then [] else w.lineStrikes r o
        let d := t.1.strikeDraw ss
        let y := if w.isInt ∨ o.kind = .gather then (o.cur, [])
          else w.op.lineLists d.1 ss (inOrder ((exchangeRank r.group w.split x r.me, o.cur) :: o.parts))
        let o := { o with cur := y.1, resFail := o.resFail || !y.2.isEmpty, phases := rest, parts := []
                          frames := o.frames.filter (fun g => !(w.has r g)) }
        let b := d.2.resFails p o.tensor o.rnd y.2
        Block.roundGo p r n (if rest.isEmpty then b else b.roundSend p r o false) o

/-- The strikes that have met an addition of a round which is given up in its phase: their failures still count and are logged (R173). -/
def Block.lateStrikes (b : Block) (p : PartId) (r : StepRun) (o : Round) : Block :=
  match o.st, o.phases with
  | .running, x :: _ =>
    let w := b.phaseView p r o x
    let d := b.strikeDraw (o.frames.flatMap RxFrame.faults)
    let vals (g : RxFrame) : List Nat := (b.image p).frameVals o w.te w.sum g.no g.bytes
    let mine := o.frames.filter (fun g => w.has r g)
    let ints := (mine.filter (fun g => !g.taken && (w.isInt || decide (0 < g.no)))).flatMap (fun g =>
      (struckInts (if 0 < g.no then .sum64 else w.op) d.1 g.faults (if 0 < g.no then o.curSq else o.cur) (vals g)).2)
    let ranks := sortBy (fun a b => decide (a < b)) (exchangeRank r.group w.split x r.me :: exchangeWants r.group w.split x r.me)
    let line (n : Nat) : List (Option Nat) := ranks.map (fun k =>
      if k = exchangeRank r.group w.split x r.me then o.cur[n]?
      else match mine.find? (fun g => g.no == 0 && frameRank r.group x g.src g.part == k) with | some g => (vals g)[n]? | none => none)
    let ss := w.lineStrikes r o
    let floats := if w.isInt then [] else ss.filter (fun s => (w.op.hitLine (d.1 s.2.elem) [s] (line s.2.elem)).2 != [])
    if o.kind = .gather then b else d.2.resFails p o.tensor o.rnd (ints ++ floats)
  | _, _ => b

/-- A round with its cells and its token begins (R242): its first phase leaves. -/
def Block.roundStart (b : Block) (p : PartId) (r : StepRun) (o : Round) : Block × Round :=
  let i := b.image p
  let s := i.splitOf r.group o
  let f := (i.entry o.tensor).kindFmt o.kind
  let te := lookupKind (r.trun o.tensor).te o.kind []
  let me := r.me
  let frame := frameBytes (i.frameHdr p r.epoch me o false) o.scales o.blocks (packCodes f.width o.own)
  let o := { o with st := .running, phases := exchanges r.group s, frames := o.frames, parts := []
                    cur := if o.kind = .gather then [] else
                      liveVals (i.kindN o.tensor o.kind) o.p0 o.blocks (leaves f te o.p0 o.own)
                    curSq := o.ownSq
                    gathered := if o.kind = .gather then [(me, frame)] else [] }
  (b.roundSend p r o true, o)

/-- Rounds of a collective are launched (R230, R240, R241): each takes the next opidx and waits for cells. -/
def Block.launchRounds (b : Block) (p : PartId) (h : Nat) (k : RKind) (rs : List (Nat × Nat × Nat)) (mk : Nat → Nat → Round → Round) : Block :=
  rs.foldl (fun b q =>
    match b.run? p with
    | none => b
    | some r =>
      if 65535 < r.next then b.originate p 0x0104 65535
      else
        let o : Round := { opidx := r.next, redo := 0, tensor := h, rnd := q.1, kind := k, p0 := q.2.1, u := q.2.2, st := .waiting
                           token := false, cells := 0, since := b.now, scales := [], blocks := [], own := [], ownSq := [], phases := []
                           cur := [], curSq := [], frames := [], parts := [], gathered := [], linkFail := false, resFail := false
                           counted := 0, sat := 0 }
        (b.modRun p (fun r => { r with next := r.next + 1, rounds := r.rounds ++ [mk q.2.1 q.2.2 o] })).retakeHeld p) b

/-- The rounds of a collective numbered from `k` (R88). -/
def numbered (k : Nat) (l : List (Nat × Nat)) : List (Nat × Nat × Nat) := l.zipIdx.map (fun q => (k + q.2, q.1.1, q.1.2))

/-- A round changed by its opidx. -/
def Block.modRound (b : Block) (p : PartId) (opidx : Nat) (f : Round → Round) : Block :=
  b.modRun p (fun r => { r with rounds := r.rounds.map (fun o => if o.opidx == opidx then f o else o) })
/-- A buzz operation (not a report) changed by its opidx. -/
def Block.modBuzz (b : Block) (p : PartId) (opidx : Nat) (f : BuzzOp → BuzzOp) : Block :=
  b.modRun p (fun r => { r with buzz := r.buzz.map (fun o => if o.opidx == opidx && !o.isReport then f o else o) })

/-- A running round runs as far as it can; a rejected frame is logged and aborts the step (R93). -/
def Block.runRound (b : Block) (p : PartId) (opidx : Nat) : Block :=
  match b.run? p with
  | none => b
  | some r =>
    match r.rounds.find? (fun o => o.opidx == opidx) with
    | none => b
    | some o =>
      if o.st ≠ .running ∨ r.abort.isSome then b
      else
        let g := Block.roundGo p r (o.phases.length + 1) b o
        let b := g.1.modRound p opidx (fun _ => g.2.1)
        match g.2.2 with
        | none => b
        | some (code, f) => (b.log code (.link f.link) (some p) [o.tensor, o.rnd, field f.bytes 0x38 4]).originate p code opidx

/-- The cells and the token of a round go back (R242, R56). -/
def Block.releaseRound (b : Block) (p : PartId) (c : CombId) (o : Round) : Block :=
  let b := b.freeCells o.cells
  let b := if o.token then b.freeToken c else b
  b.modRound p o.opidx (fun o => { o with cells := 0, token := false })

/-- Every cell and token of a partition's running step goes back (R250, R332). -/
def Block.returnAll (b : Block) (p : PartId) : Block :=
  match b.run? p with
  | none => b
  | some r =>
    let b := r.rounds.foldl (fun b o => b.releaseRound p r.comb o) b
    let b := r.buzz.foldl (fun b o => if o.token then b.freeToken r.comb else b) b
    b.modRun p (fun r => { r with buzz := r.buzz.map (fun o => { o with token := false }) })

/-- A round is discarded and redone from capped inputs (R53, R245): it asks for cells afresh. The fourth failure that counts ends the step. -/
def Block.redoRound (b : Block) (p : PartId) (c : CombId) (o : Round) (counted : Bool) : Block :=
  let b := match b.run? p with | some r => b.lateStrikes p r o | none => b
  let b := b.releaseRound p c o
  let n := o.counted + b2n counted
  if counted ∧ 3 < n then b.originate p 0x0102 o.opidx
  else ((b.modPart p (fun x => { x with redos := wrapAdd x.redos 1 })).modRound p o.opidx (fun o => { o with
    redo := (o.redo + 1) % 256, st := .waiting, phases := [], cur := [], curSq := [], frames := [], parts := [], gathered := []
    linkFail := false, resFail := false, counted := n })).retakeHeld p

/-- A buzz sum is discarded and redone (R53, R245). -/
def Block.redoBuzz (b : Block) (p : PartId) (c : CombId) (o : BuzzOp) (v : VSet) (counted : Bool) : Block :=
  let b := if o.token then b.freeToken c else b
  let n := o.counted + b2n counted
  if counted ∧ 3 < n then b.originate p 0x0102 o.opidx
  else ((b.modPart p (fun x => { x with redos := wrapAdd x.redos 1 })).modBuzz p o.opidx (fun o => { o with
    redo := (o.redo + 1) % 256, cur := o.own, dims := exchanges v o.split, got := [], sent := 0, token := false, failed := false
    resFail := false, counted := n })).retakeHeld p

end Sys2Proof.Machine
end

