-- ==== Sys2Proof/Machine/Exchange.lean ====
section
/-! DEFINITION. How the collectives of a step go on: capping (R244, R245), launches in program order (R229, R230, R259, R262), bulk
messages at the ingress (R55, R238, R242), and cells and tokens (R242, R56). -/

namespace Sys2Proof.Machine
open Sys2Proof

/-- A comb's counters changed. -/
def Block.count (b : Block) (c : CombId) (f : CombCnt → CombCnt) : Block := b.modComb c (fun x => { x with cnt := f x.cnt })

/-! ### Client memory and result slots -/

/-- The context with a number. -/
def Block.ctx? (b : Block) (id : Nat) : Option Ctx := b.host.ctxs.find? (fun c => c.id == id)

/-- A write to client memory (R299). -/
def Block.hostWrite (b : Block) (h : PortId) (vf : VfId) (addr : Nat) (bytes : List Byte) (relaxed : Bool) : Block :=
  { b with out := { writes := b.out.writes ++ [.mem h vf addr bytes relaxed] } }

/-- The slot of a tensor and role, where one is registered (R312). -/
def Block.slotOf (b : Block) (p : PartId) (t role : Nat) : Option SlotRec :=
  b.host.slots.find? (fun s => s.part == p && s.tensor == t && s.role == role)

/-- Bytes to a tensor's result slot from element `o` upward (R299): dropped where the slot's session is gone. -/
def Block.resultWrite (b : Block) (p : PartId) (t : Nat) (o : Nat) (bytes : List Byte) : Block :=
  match b.slotOf p t 1 with
  | none => b
  | some s =>
    match s.inUse, b.ctx? s.ctx with
    | some a, some c => b.hostWrite c.port c.vf (a + o * ((b.image p).entry t).rfmt.bytes) bytes true
    | _, _ => b

/-! ### Rows of a product taken on uncapped data (R134) -/

/-- What an early row held back happens: its exceptions count, and its bytes go to the result slot (R54, R264). -/
def Block.putEarly (b : Block) (p : PartId) (c : CombId) (g : GProd) (e : EarlyRow) : Block :=
  let b := b.count c (fun x => { x with qntSat := wrapAdd x.qntSat e.sat, infOvf := wrapAdd x.infOvf e.ovf })
  if e.bytes.isEmpty then b else b.resultWrite p g.dst.tensor (g.dst.base + e.row * g.cols) e.bytes

/-- The products of a comb that have not ended: each ends once every row is taken and capped (R133). -/
def liveProds (l : List GProd) : List GProd := l.filter (fun g => !(g.taken.length == g.rows && g.early.isEmpty))

/-- The round or sum at `opidx` is capped: the rows that waited on nothing else become capped without being taken again (R134). -/
def Block.capRows (b : Block) (p : PartId) (c : CombId) (opidx : Nat) : Block :=
  let ps := (b.comb c).prods.map (fun g => (g, g.early.map (fun e => { e with uses := e.uses.filter (· != opidx) })))
  let b := ps.foldl (fun b q => (q.2.filter (fun e => e.uses.isEmpty)).foldl (fun b e => b.putEarly p c q.1 e) b) b
  b.modComb c (fun x => { x with prods := liveProds (ps.map (fun q => { q.1 with early := q.2.filter (fun e => !e.uses.isEmpty) })) })

/-- The product without the rows that were computed from the round or sum at `opidx`: they are to be taken again (R134). -/
def GProd.dropRows (g : GProd) (opidx : Nat) : GProd :=
  let gone := (g.early.filter (fun e => e.uses.contains opidx)).map EarlyRow.row
  { g with taken := g.taken.filter (fun k => !gone.contains k), early := g.early.filter (fun e => !e.uses.contains opidx) }

/-- The round or sum at `opidx` is discarded, and with it every output row that was computed from it (R134). -/
def Block.dropRows (b : Block) (c : CombId) (opidx : Nat) : Block :=
  b.modComb c (fun x => { x with prods := x.prods.map (fun g => g.dropRows opidx) })

/-! ### Capping (R234, R244, R245) -/

/-- The element-wise count of non-finite F32 sums (R179). -/
def nonFiniteCount (l : List Nat) : Nat := (l.filter (fun x => (f32Val (BitVec.ofNat 32 x)).nonFinite)).length

/-- A round is capped: its token returns, and its saturations and non-finite sums count (R75, R179); those of a predicted round wait
for its coverage (R107). -/
def Block.capRound (b : Block) (p : PartId) (r : StepRun) (o : Round) : Block :=
  let b := if o.token then b.freeToken r.comb else b
  let f := ((b.image p).entry o.tensor).kindFmt o.kind
  let b := if o.kind = .predicted then b else b.count r.comb (fun c => { c with qntSat := wrapAdd c.qntSat o.sat })
  let b := if o.kind ≠ .predicted ∧ f.accum = .f32 then
      b.modPart p (fun x => { x with redNonfinite := wrapAdd x.redNonfinite (nonFiniteCount o.cur) }) else b
  b.modRound p o.opidx (fun o => { o with st := .capped, token := false })

/-- A capped round leaves Honeycomb: its cells are free, and what is kept of its sums stays with the tensor (R242). -/
def Block.keepSums (b : Block) (p : PartId) (o : Round) (ks : List SumPart) : Block :=
  ((b.freeCells o.cells).modRound p o.opidx (fun o => { o with cells := 0, st := .drained, cur := [], curSq := [], gathered := [] })).modT p o.tensor
    (fun t => { t with sums := t.sums ++ ks })

/-- The results of an SRED as its registers take them (R293). -/
def sredValue (op v : Nat) : DWord :=
  if op = 2 then (BitVec.ofNat 32 v).signExtend 64 else BitVec.ofNat 64 v

/-- The results of an SRED are written from register `sd` upward (R293). -/
def Seqr.writeSred (q : Seqr) (op : Nat) : Nat → List Nat → Seqr
  | _, [] => q
  | k, v :: vs => Seqr.writeSred (q.setS (Fin.ofNat 32 k) (sredValue op v)) op (k + 1) vs

/-- The same for a sum that has still to be capped: its results are uncapped (R264, R293). -/
def Seqr.writeSum (q : Seqr) (op opidx sd : Nat) (vs : List Nat) : Seqr :=
  (vs.zipIdx).foldl (fun (q : Seqr) (x : Nat × Nat) =>
    { q with s := q.s.set (Fin.ofNat 32 (sd + x.2)) ⟨sredValue op x.1, false, some (.sum opidx x.2 (sredValue op x.1))⟩ }) q

/-- Every scalar that a comb holds, in its registers, its predicates, the products that it has issued and the launches of its step, through a
function. -/
def Block.mapScal (b : Block) (p : PartId) (c : CombId) (f : Scal → Scal) : Block :=
  (b.modComb c (fun x => { x with seq := x.seq.mapScal f, ops := x.ops.map (InfOp.mapScal f) })).modRun p (fun r => { r with
    launches := r.launches.map (fun l => match l with | .sred c sd op w vs => .sred c sd op w (vs.map f) | l => l) })

/-- The sum of an SRED is complete: its registers take the results, uncapped, and after a redo every value that was computed from them takes
its redone value (R264, R293). -/
def Block.showSum (b : Block) (p : PartId) (o : BuzzOp) : Block :=
  match o.why with
  | .sred c sd _ =>
    if o.shown then b.mapScal p c (Scal.refresh o.opidx (fun k => sredValue o.op (o.cur.getD k 0)))
    else (b.modSeq c (fun q => q.writeSum o.op o.opidx sd o.cur)).modBuzz p o.opidx (fun o => { o with shown := true })
  | _ => b

/-- The effect of a buzz result that is capped: its non-finite F32 sums count (R179), and the result registers of an SRED take it: a maximum
is written; what was computed from a sum is capped as it stands (R49, R293). -/
def Block.buzzEffect (b : Block) (p : PartId) (o : BuzzOp) : Block :=
  let b := if o.op = 4 then b.modPart p (fun x => { x with redNonfinite := wrapAdd x.redNonfinite (nonFiniteCount o.cur) }) else b
  match o.why with
  | .sred c sd _ => if o.isSum then (b.showSum p o).mapScal p c (Scal.settle o.opidx) else b.modSeq c (fun q => q.writeSred o.op sd o.cur)
  | _ => b

/-- The reduced status of a cap report decides its round or sum (R245). -/
def Block.applyReport (b : Block) (p : PartId) (opidx redo status : Nat) : Block :=
  match b.run? p with
  | none => b
  | some r =>
    match r.rounds.find? (fun o => o.opidx == opidx) with
    | some o =>
      if o.redo ≠ redo then b
      else if status = 0 then
        -- DEDUCED (log entry 74): the scores of a round are read out as it is capped
        let b := if o.kind = .score then (b.capRound p r o).keepSums p o [⟨.score, o.p0, o.cur, []⟩] else b.capRound p r o
        if o.kind = .predicted ∧ (r.trun o.tensor).conf.isNone then b else b.capRows p r.comb opidx
      else if status = 3 then
        (((b.lateStrikes p r o).dropRows r.comb opidx).releaseRound p r.comb o).modRound p opidx (fun o => { o with st := .drained, frames := [], gathered := [] })
      else (b.dropRows r.comb opidx).redoRound p r.comb o (status == 2)
    | none =>
      match r.buzz.find? (fun o => o.opidx == opidx && !o.isReport) with
      | none => b
      | some o =>
        if o.redo ≠ redo then b
        else if status = 0 then
          let b := if o.token then b.freeToken r.comb else b
          ((b.modBuzz p opidx (fun o => { o with capped := true, token := false })).buzzEffect p o).capRows p r.comb opidx
        else (b.dropRows r.comb opidx).redoBuzz p r.comb o r.group (status == 2)

/-- The key of a buzz operation of the step. -/
def BuzzOp.key (o : BuzzOp) : Nat × Nat × Bool := (o.opidx, o.redo, o.isReport)

/-- The operation with a key replaced. -/
def Block.putBuzz (b : Block) (p : PartId) (k : Nat × Nat × Bool) (o : BuzzOp) : Block :=
  b.modRun p (fun r => { r with buzz := r.buzz.map (fun x => if x.key = k then o else x) })

/-- One buzz operation goes on as far as it can; a maximum, a barrier and a report are capped when complete (R234); a complete sum shows its
uncapped results (R293). -/
def Block.settleOp (p : PartId) (b : Block) (k : Nat × Nat × Bool) : Block :=
  match b.run? p with
  | none => b
  | some r =>
    match r.buzz.find? (fun o => o.key = k) with
    | none => b
    | some o =>
      if o.capped ∨ r.abort.isSome then b
      else
        let g := Block.buzzGo p r 8 b o
        let b := g.1.putBuzz p k g.2
        if !g.2.complete then b
        else if g.2.isSum then b.showSum p g.2
        else
          let b := b.putBuzz p k { g.2 with capped := true }
          match g.2.why with
          | .report opidx => b.applyReport p opidx g.2.redo (g.2.cur.getD 0 0)
          | _ => b.buzzEffect p g.2

/-- Every buzz operation of the step goes on. -/
def Block.settle (b : Block) (p : PartId) : Block :=
  match b.run? p with
  | none => b
  | some r => (r.buzz.map BuzzOp.key).foldl (Block.settleOp p) b

/-! ### Launches (R229, R230, R259, R262) -/

/-- Scale agreement: 64 bytes an operation (R231). -/
def Block.launchScale (b : Block) (p : PartId) (h : Nat) (k : RKind) (exps : List Nat) : Block :=
  ((chunks 64 exps).zipIdx).foldl (fun b q => b.launchBuzz p 5 (.scale h k q.2) q.1 1) b

/-- The agreed exponents of a collective, once every operation of its scale agreement is capped. -/
def StepRun.scaleDone (r : StepRun) (h : Nat) (k : RKind) : Option (List Nat) :=
  let mine := r.buzz.filter (fun o => match o.why with | .scale t j _ => t == h && j == k | _ => false)
  if mine.all BuzzOp.capped then some (mine.flatMap BuzzOp.cur) else none

/-- The confirmed set's or the predicted set's elements of w, or all of w (R71, R82). -/
def TRun.kindVals (t : TRun) (k : RKind) : List Word :=
  match k with
  | .predicted => gatherBlocks (t.pred.getD []) t.w
  | .main => match t.conf with | some c => gatherBlocks c t.w | none => t.w
  | .factorP => padUnits t.pfac
  | .factorQ => padUnits t.qown
  | _ => t.w

/-- Local exponents of a collective; for an unreadable index table 0x00 everywhere (R106). -/
def TRun.kindExps (t : TRun) (e : TensorEntry) (k : RKind) (units : Nat) : List Nat :=
  if k = .predicted ∧ t.predBad then
    (if e.xfmt.isBx then List.replicate units 0 else if e.xfmt.shift?.isSome then List.replicate (ceilDiv units 16) 0 else [])
  else localExps e.xfmt (t.kindVals k)

/-- The head of the launch queue leaves. -/
def Block.popLaunch (b : Block) (p : PartId) : Block := b.modRun p (fun r => { r with launches := r.launches.drop 1 })

/-- The score vector's codes, padded to whole units (R102). -/
def scoreCodes (ss : List Nat) : List Nat := ss ++ List.replicate (256 * blocksOf ss.length - ss.length) 0

/-- The next collectives of the tensor at the head of the launch queue, where no other command launches them: none while they must
wait. -/
def Block.pumpTensor (b : Block) (p : PartId) (r : StepRun) (h : Nat) : Option Block :=
  let i := b.image p
  let e := i.entry h
  let t := r.trun h
  let stage (b : Block) (k : Nat) : Block := b.modT p h (fun t => { t with stage := k })
  let units (k : RKind) : Nat := i.kindUnits h k
  if t.left.isSome then none
  else match e.method, t.stage with
  | .dense, 0 => some (stage (b.launchScale p h .main (t.kindExps e .main (units .main))) 1)
  | .dense, 2 => some (b.popLaunch p)
  | .waggle, 0 =>
    let b1 := if blocksOf e.n ≤ 8 then b.launchBuzz p 3 (.score h) t.scores (effSplit r.group e.split)
      else
        let codes := scoreCodes t.scores
        b.launchRounds p h .score (numbered 0 (i.cut r.group h .score 0 (units .score)))
          (fun p0 u o => { o with own := (codes.drop (256 * p0)).take (256 * u) })
    some (stage b1 1)
  | .waggle, 1 =>
    let m := b.tmem p h
    if e.spec ∧ m.idxCur.isSome then
      let t' := { t with pred := m.idxCur, predBad := m.idxBad || t.idxLost }
      let b1 := b.modT p h (fun t => { t with pred := m.idxCur, predBad := m.idxBad || t.idxLost })
      some (stage (b1.launchScale p h .predicted (t'.kindExps e .predicted (units .predicted))) 2)
    else some (stage b 4)
  | .waggle, 6 => some (b.popLaunch p)
  | .lowrank, 0 =>
    let m := b.tmem p h
    if m.opBad || m.qBad || t.qLost then some (b.originate p (if m.opBad then 0x0312 else 0x0311) r.next)
    else
      let ps := lowrankP e.opfmt e.a e.b e.rank m.opcopy m.qCur
      let t' := { t with pfac := ps.map Inf.code }
      let b1 := (b.modT p h (fun t => { t with pfac := ps.map Inf.code })).count r.comb (fun c => { c with
        infOvf := wrapAdd c.infOvf (ps.filter Inf.ovf).length, qntSat := wrapAdd c.qntSat (factorSat e.opfmt m.qCur) })
      some (stage (b1.launchScale p h .factorP (t'.kindExps e .factorP (units .factorP))) 1)
  | .lowrank, 5 => some (b.popLaunch p)
  | .sign, 2 => some (b.popLaunch p)
  | .codebook, 0 =>
    let cb := (b.part p).cb
    let x := field i.cbDigest 0 8
    let ops := if cb.st = .accepted then [x, 2 ^ 64 - 1 - x, 0] else [0, 0, 1]
    some (stage (b.launchBuzz p 8 (.digest h) ops 1) 1)
  | .codebook, 2 => some (b.popLaunch p)
  | _, _ => none

/-- The next launch of the step, in program order (R259): none while it must wait. -/
def Block.pump (b : Block) (p : PartId) : Option Block :=
  match b.run? p with
  | none => none
  | some r =>
    if !r.agreed || r.abort.isSome then none
    else match r.launches with
      | [] => none
      | .barrier c :: _ => some ((b.popLaunch p).launchBuzz p 1 (.barrier c) [0] 1)
      | .sred c sd op w vs :: _ =>
        -- DESIGN CHOICE (log entry 17): a reduction of uncapped operands is launched once they are capped
        if vs.all (fun x => x.ex.isNone) then
          some ((b.popLaunch p).launchBuzz p op (.sred c sd w) (vs.map (fun x => x.v.toNat % 2 ^ w)) 1)
        else none
      | .tensor h :: _ => b.pumpTensor p r h

/-- Buzz operations and launches go on in turn; `fuel` bounds the turns. -/
def Block.driveAux (p : PartId) : Nat → Block → Block
  | 0, b => b
  | n + 1, b =>
    let b := b.settle p
    match b.pump p with
    | none => b
    | some b => Block.driveAux p n b

/-- Everything that the step can do without a further command. -/
def Block.drive (b : Block) (p : PartId) : Block :=
  match b.run? p with
  | none => b
  | some r => (Block.driveAux p (3 * r.launches.length + 4) b).settle p

/-! ### Bulk messages (R55, R235 to R238, R242) -/

/-- What a round does with a piece of a bulk message: takes it, leaves it to wait at the ingress, discards it, or discards it as a part that the
combine has recorded (R168). -/
inductive PieceMeet where
  | take | wait | drop | twice
deriving DecidableEq, Repr

/-- The frames of a phase that a piece may belong to: those of its sender, or, in the combine, those of its part (R168). -/
def Round.line (o : Round) (x : Nat) (src : Coord) (h : BulkHead) : List RxFrame :=
  o.frames.filter (fun f => f.phase == h.phase && f.part == h.part && (decide (8 ≤ x) || f.src == src))

/-- The piece goes on with a frame that it follows, or begins the next one. -/
def Round.follows (fs : List RxFrame) (each : Nat) (src : Coord) (h : BulkHead) : Bool :=
  fs.all (fun f => f.src == src) &&
  (match fs.getLast? with
   | none => decide (0 < each)
   | some f => if h.offset = 0 then f.whole && decide (fs.length < each) else !f.whole && !f.pieces.any (fun q => q.1 == h.offset))

/-- The piece's place in a round with the same collective, round number and redo count (R168, R237, R238). A member that does not run a
withdrawn round discards what arrives for it (R246). -/
def Block.pieceMeet (b : Block) (p : PartId) (r : StepRun) (o : Round) (src : Coord) (h : BulkHead) : PieceMeet :=
  let i := b.image p
  let s := i.splitOf r.group o
  let x := phaseDim r.group s r.me h.phase h.part
  let mine := if x < 8 then decide (h.part = ownPart r.group s r.me) && (exchangeFrom r.group s x r.me).contains src else decide (h.part < s)
  let again : PieceMeet := if x < 8 then .drop else .twice
  if !mine then .drop
  else match o.st with
  | .waiting => .wait
  | .running =>
    if o.phases.head? = some x ∨ (8 ≤ x ∧ o.phases.contains x) then
      if Round.follows (o.line x src h) (i.framesEach r.group o x) src h then .take else again
    else if o.phases.contains x then .wait else again
  | .dropped => .drop
  | _ => again

/-- The piece joins the frame that it goes on with, or begins one. -/
def Round.addPiece (o : Round) (x : Nat) (src : Coord) (l : LinkId) (h : BulkHead) (body : List Byte) (fault : AddFault) : Round :=
  let fs := match fault with | .adder s => [(l, s)] | _ => []
  let n := (o.line x src h).length
  if h.offset = 0 ∨ n = 0 then { o with frames := o.frames ++ [⟨src, l, h.phase, h.part, n, [(h.offset, body)], fs, false⟩] }
  else { o with frames := o.frames.map (fun f =>
      if f.src == src && f.phase == h.phase && f.part == h.part && f.no + 1 == n then
        { f with link := l, pieces := f.pieces ++ [(h.offset, body)], faults := f.faults ++ fs } else f) }

/-- An SRAM error in a Honeycomb word that an addition reads (R407). -/
def Block.hcbFault (b : Block) (p : PartId) (opidx : Nat) (fault : AddFault) : Block :=
  match fault with
  | .sram true => (b.log 0x0330 (.honeycomb 0) (some p) []).originate p 0x0330 opidx
  | .sram false => ({ b with hcbSramCorr := satAdd b.hcbSramCorr 1 }).log 0x0331 (.honeycomb 0) (some p) []
  | _ => b

/-- An SRAM error in a Honeycomb word that is read as rounds of a tensor are drained (R407): uncorrectable where `sram` is `some true`. -/
def Block.hcbRead (b : Block) (p : PartId) (h : Nat) (sram : Option Bool) : Block :=
  match sram, b.run? p with
  | some ue, some r =>
    (match r.rounds.find? (fun o => o.tensor == h && decide (0 < o.cells)) with
     | some o => b.hcbFault p o.opidx (.sram ue)
     | none => b)
  | _, _ => b

/-- The tensor has collectives still to launch in the step. -/
def StepRun.moreOf (r : StepRun) (h : Nat) : Bool :=
  !(r.trun h).xissued || r.launches.any (fun l => match l with | .tensor t => t == h | _ => false)

/-- The collective that a frame header belongs to (R81, R82, R102). -/
def PartImage.kindOfHdr (i : PartImage) (h : Nat) (f : FrameHdr) : RKind :=
  match (i.entry h).method with
  | .waggle => if f.method = .dense then .score else if f.predicted then .predicted else .main
  | .lowrank => if f.param / 128 % 2 = 1 then .factorQ else .factorP
  | .codebook => .gather
  | _ => .main

/-- The collective that a piece is for: by its frame's header, or by the frame that it goes on with (R238). -/
def Block.pieceKind (b : Block) (p : PartId) (r : StepRun) (src : Coord) (h : BulkHead) (body : List Byte) : Option RKind :=
  if h.offset = 0 then (FrameHdr.parse body).map ((b.image p).kindOfHdr h.tensor)
  else
    (r.rounds.find? (fun o => o.tensor == h.tensor && o.rnd == h.round && o.redo == h.redo &&
      o.frames.any (fun g => g.src == src && g.phase == h.phase && g.part == h.part && !g.whole))).map Round.kind

/-- A bulk message of the running step meets its rounds: the block after it, and whether the message has left the ingress. A piece that names a
round of a collective which this chip does not hold does not match the round it holds (R230). -/
def Block.takePiece (b : Block) (p : PartId) (r : StepRun) (l : LinkId) (head body : List Byte) (fault : AddFault) : Block × Bool :=
  let h := hdBulk head
  let src := r.logOf (hdOrg head)
  let body := body.take (hdLen head)
  let same := r.rounds.filter (fun o => o.tensor == h.tensor && o.rnd == h.round)
  let kind := b.pieceKind p r src h body
  let mine := same.filter (fun o => match kind with | some k => o.kind == k | none => true)
  match mine.reverse.find? (fun o => o.redo == h.redo) with
  | some o =>
    match b.pieceMeet p r o src h with
    | .wait => (b, false)
    | .drop => (b, true)
    | .twice => (b.log 0x0106 (.link l) (some p) [], true)
    | .take =>
      let x := phaseDim r.group ((b.image p).splitOf r.group o) r.me h.phase h.part
      let b := b.modRound p o.opidx (fun o => o.addPiece x src l h body fault)
      ((b.runRound p o.opidx).hcbFault p o.opidx fault, true)
  | none =>
    if mine.any (fun o => redoBefore h.redo o.redo) then (b, true)
    else if !mine.isEmpty || r.moreOf h.tensor then (b, false)
    else match same.getLast? with
      | some o => (((b.log 0x0604 (.link l) (some p) [h.tensor, h.round, field body 0x38 4])).originate p 0x0604 o.opidx, true)
      | none => (b, true)

/-- The first bulk collective of a tensor (R229). -/
def TensorEntry.firstKind (e : TensorEntry) : RKind :=
  match e.method with
  | .waggle => if blocksOf e.n ≤ 8 then (if e.spec then .predicted else .main) else .score
  | .lowrank => .factorP | .codebook => .gather | _ => .main

/-- Data of the next step is held within the quota (R55, R242): the first message of a round takes the round's cells. -/
def Block.holdNext (b : Block) (p : PartId) (m : HeldMsg) : Block × Bool :=
  let h := hdBulk m.head
  let x := b.part p
  let i := b.image p
  let keep (b : Block) : Block := b.modPart p (fun x => { x with heldNext := x.heldNext ++ [m] })
  if x.nextCells.any (fun q => q.1 == h.tensor && q.2.1 == h.round) then (keep b, true)
  else
    let need := match if h.offset = 0 then FrameHdr.parse m.body else none with
      | some f => i.cellsFor x.vset h.tensor (i.kindOfHdr h.tensor f) f.u
      | none =>
        -- the frame's first piece has not come: the round of the tensor's first collective with that number
        let k := (i.entry h.tensor).firstKind
        match (i.cut x.vset h.tensor k 0 (i.kindUnits h.tensor k))[h.round]? with
        | some q => i.cellsFor x.vset h.tensor k q.2
        | none => 0
    if i.quota < x.cells + need ∨ b.hcbFree < need then (b, false)
    else (keep ((b.takeCells need).modPart p (fun x => { x with nextCells := x.nextCells ++ [(h.tensor, h.round, need)] })), true)

/-- The epoch of the partition on this chip, and whether a message's epoch is the current one, the next one or stale (R55). -/
def Block.epochDiff (b : Block) (p : PartId) (e : Nat) : Nat :=
  let c := match b.run? p with | some r => r.epoch | none => (b.part p).stepCnt.toNat % 256
  (e + 256 - c) % 256

/-- A bulk message for this chip (R55, R238): the block after it, and whether the message has left the ingress. A chip that joins has no
epoch before its agreement completes (R194). -/
def Block.takeBulk (b : Block) (l : LinkId) (head body : List Byte) (fault : AddFault) : Block × Bool :=
  let p := hdPart head
  let x := b.part p
  let d := b.epochDiff p (hdEpoch head)
  let m : HeldMsg := ⟨false, head, body.take (hdLen head), l, none, fault⟩
  if x.img.isNone then (b.log 0x0105 (.link l) (some p) [], true)
  else if x.joining && (match x.run with | some r => !r.agreed | none => true) then (b, false)
  else match x.run with
    | some r =>
      if d = 0 then
        if r.abort.isSome then (b, true)
        else
          let t := b.takePiece p r l head body fault
          (t.1.drive p, t.2)
      else if d = 1 then b.holdNext p m
      else (b.log 0x0105 (.link l) (some p) [], true)
    | none => if d ≤ 1 then b.holdNext p m else (b.log 0x0105 (.link l) (some p) [], true)

/-- Bulk messages held for the step are taken when their rounds exist. -/
def Block.retakeBulk (b : Block) (p : PartId) : Block :=
  match b.run? p with
  | none => b
  | some r =>
    let ms := r.held.filter (fun m => !m.buzz)
    ms.foldl (fun b m =>
      match b.run? p with
      | none => b
      | some r =>
        let t := b.takePiece p r m.link m.head m.body m.fault
        if t.2 then t.1 else b.modRun p (fun r => { r with held := r.held ++ [m] }))
      (b.modRun p (fun r => { r with held := r.held.filter HeldMsg.buzz }))

/-! ### Cells and tokens (R56, R242) -/

/-- The launched round with the lowest opidx that waits for its cells. -/
def StepRun.firstWaiting (r : StepRun) : Option Round := r.rounds.find? (fun o => o.st == .waiting)

/-- The cells that a round has from data held before the step (R242). -/
def Part.credit (x : Part) (o : Round) : Nat :=
  match x.nextCells.find? (fun q => q.1 == o.tensor && q.2.1 == o.rnd) with | some q => q.2.2 | none => 0

/-- A waiting round takes its cells and token and begins, or, predicted and short of a token, is dropped (R56, R106, R242, R246). -/
def Block.allocRound (b : Block) (p : PartId) (r : StepRun) (o : Round) : Block :=
  let x := b.part p
  let i := b.image p
  let tok := (b.comb r.comb).tokFree
  let need := i.cellsFor r.group o.tensor o.kind o.u
  let have' := x.credit o
  let spend (b : Block) : Block := b.modPart p (fun x => { x with nextCells := x.nextCells.filter (fun q => !(q.1 == o.tensor && q.2.1 == o.rnd)) })
  if o.kind = .predicted ∧ (tok < 32 ∨ (r.trun o.tensor).predBad) then
    ((spend (b.freeCells have')).modRound p o.opidx (fun o => { o with st := .dropped })).retakeBulk p
  else if tok = 0 ∨ i.quota < x.cells - have' + need ∨ b.hcbFree + have' < need then b
  else
    let b := (spend ((b.freeCells have').takeCells need)).takeToken r.comb
    let g := b.roundStart p r { o with cells := need, token := true }
    let b := g.1.modRound p o.opidx (fun _ => g.2)
    (b.retakeBulk p).runRound p o.opidx

/-- A buzz sum takes any free token (R56). -/
def Block.allocSum (b : Block) (p : PartId) (r : StepRun) (opidx : Nat) : Block :=
  match r.buzz.find? (fun o => o.opidx == opidx && o.isSum && !o.token && !o.capped) with
  | none => b
  | some _ =>
    if (b.comb r.comb).tokFree = 0 then b
    else ((b.takeToken r.comb).modBuzz p opidx (fun o => { o with token := true })).drive p

/-- ROUND_ALLOCATE: a bulk round in its turn, or a buzz sum that waits for its token. -/
def Block.allocate (b : Block) (p : PartId) (opidx : Nat) : Block :=
  match b.run? p with
  | none => b
  | some r =>
    if r.abort.isSome then b
    else if r.rounds.any (fun o => o.opidx == opidx) then
      match r.firstWaiting with
      | some o => if o.opidx = opidx then (b.allocRound p r o).drive p else b
      | none => b
    else b.allocSum p r opidx

/-! ### Cap reports (R244) -/

/-- A bulk head of this chip's own round. -/
def Block.ownBulk (b : Block) (p : PartId) (r : StepRun) (o : Round) (h : List Byte) : Bool :=
  hdClass h == 2 && hdOrg h == b.boot.physCoord && hdPart h == p && hdEpoch h == r.epoch && o.named (hdBulk h)

/-- A buzz head of this chip's own sum. -/
def Block.ownBuzz (b : Block) (p : PartId) (r : StepRun) (o : BuzzOp) (h : List Byte) : Bool :=
  let z := hdBuzz h
  hdClass h == 1 && hdOrg h == b.boot.physCoord && hdPart h == p && hdEpoch h == r.epoch && z.op == o.op && z.opidx == o.opidx &&
  z.redo == o.redo && z.contributor == r.me

/-- A head that passes `f` is still unacknowledged: queued, kept for resending, or held for a route (R244). -/
def Block.unacked (b : Block) (f : List Byte → Bool) : Bool :=
  b.links.toList.any (fun x => x.tx.qBuzz.any (fun m => f m.1) || x.tx.qBulk.any (fun m => f m.head) ||
    (!x.tx.curBulk.1.isEmpty && f x.tx.curBulk.2) || x.tx.qParcel.any (fun m => f m.head) ||
    (!x.tx.curParcel.1.isEmpty && f x.tx.curParcel.2) || x.tx.kept.any (fun m => f m.head) || x.tx.keptBuzz.any (fun m => f m.head)) ||
  b.heldFlits.any (fun h => f h.2.1)

/-- A report of the same redo with a positive status is held or has met this member: the round ends at once (R246). -/
def StepRun.positive (r : StepRun) (opidx redo : Nat) : Bool :=
  r.held.any (fun m => m.buzz && (hdBuzz m.head).op == 0x10 && (hdBuzz m.head).opidx == opidx && (hdBuzz m.head).redo == redo &&
    field m.body 0 1 != 0)

/-- This member's report begins (R244). -/
def Block.sendReport (b : Block) (p : PartId) (opidx redo status : Nat) : Block :=
  match b.run? p with
  | none => b
  | some r =>
    let o : BuzzOp := { opidx := opidx, redo := redo, op := 0x10, why := .report opidx, own := [status], split := 1
                        dims := openDims r.group, cur := [status], got := [], sent := 0, token := false, failed := false
                        resFail := false, counted := 0, shown := false, capped := false, since := b.now }
    ((b.modRun p (fun r => { r with buzz := r.buzz ++ [o] })).retakeHeld p).drive p

/-- CAP_REPORT_SEND: this member's report of the round or sum at `opidx`, when the conditions of R244 hold. A member whose round has failed, or
that has met a positive report, does not wait for what it must still receive (R246; DEDUCED, log entry 88). -/
def Block.capReport (b : Block) (p : PartId) (opidx : Nat) : Block :=
  match b.run? p with
  | none => b
  | some r =>
    if r.abort.isSome then b
    else match r.rounds.find? (fun o => o.opidx == opidx) with
      | some o =>
        if r.buzz.any (fun x => x.isReport && x.opidx == opidx && x.redo == o.redo) then b
        else
          let status := if o.st = .dropped then 3 else if o.resFail then 2 else if o.linkFail then 1 else 0
          let ended := o.linkFail || r.positive opidx o.redo
          let ok := match o.st with
            | .dropped => (r.trun o.tensor).conf.isSome
            | .done => ended || !b.unacked (b.ownBulk p r o)
            | .running => ended
            | _ => false
          if ok then b.sendReport p opidx o.redo status else b
      | none =>
        match r.buzz.find? (fun o => o.opidx == opidx && !o.isReport) with
        | none => b
        | some o =>
          if !o.isSum || o.capped || r.buzz.any (fun x => x.isReport && x.opidx == opidx && x.redo == o.redo) then b
          else if o.failed || r.positive opidx o.redo || (o.complete && !b.unacked (b.ownBuzz p r o)) then
            b.sendReport p opidx o.redo (if o.resFail then 2 else b2n o.failed)
          else b

end Sys2Proof.Machine
end

