-- ==== Sys2Proof/Machine/Hbm.lean ====
section
/-! DEFINITION. HBM: the layout of R328 and R400, and what the read of a sector with an error does (R402, R403, R459). -/

namespace Sys2Proof.Machine
open Sys2Proof

/-- What an HBM address belongs to (R328). -/
inductive HKind where
  | sys | index (p : PartId) (t : Nat) (copy1 : Bool) | warm (p : PartId) (t : Nat) (copy1 : Bool) | opcopy (p : PartId) (t : Nat)
  | stats (p : PartId) (t : Nat) | poison (p : PartId) (t : Nat) (copy1 : Bool) | scratch (p : PartId) (t : Nat) | hdrs (p : PartId)
  | staging (p : PartId) | steep (p : PartId) | cbk (p : PartId) | cbkPoison (p : PartId) | unassigned
deriving DecidableEq, Repr

/-- Bytes rounded up to a multiple of 4 KiB. -/
def kib4 (n : Nat) : Nat := roundUp n 4096

/-- An item of two copies: the first half, the second, and the padding. -/
def twoCopies (half : Nat) (k : Bool → HKind) : List (Nat × HKind) :=
  [(half, k false), (half, k true), (kib4 (2 * half) - 2 * half, .unassigned)]
/-- An item with its padding. -/
def oneItem (len : Nat) (k : HKind) : List (Nat × HKind) := [(len, k), (kib4 len - len, .unassigned)]

/-- The elements that statistics staging covers (R328). -/
def TensorEntry.statsElems (e : TensorEntry) : Nat := if e.method = .waggle then 256 * kOf (blocksOf e.n) e.select else e.n

/-- A tensor's items of the fixed area, in table order (R328). -/
def TensorEntry.items (e : TensorEntry) (p : PartId) (t : Nat) : List (Nat × HKind) :=
  (if e.method = .waggle then twoCopies (8 * kOf (blocksOf e.n) e.select) (.index p t) else []) ++
  (if e.method = .lowrank then twoCopies (4 * e.b * e.rank) (.warm p t) ++ oneItem (2 * e.n) (.opcopy p t) else []) ++
  (if e.stats then oneItem (12 * e.statsElems) (.stats p t) else []) ++
  (if e.ef then twoCopies (ceilDiv (blocksOf e.n) 8) (.poison p t) else []) ++
  (if e.ef then [] else oneItem (1024 * blocksOf e.n) (.scratch p t))

/-- A partition's areas (R328). -/
def PartImage.areas (i : PartImage) (p : PartId) : List (Nat × HKind) :=
  (i.tensors.zipIdx.flatMap (fun q => q.1.items p q.2)) ++
  (if i.tensors.any TensorEntry.ef then oneItem (64 * i.demand) (.hdrs p) else []) ++
  oneItem (4096 * i.quota) (.staging p) ++ [(16384 * i.share, .steep p)] ++
  (if i.cbE = 0 then [] else oneItem (80 * i.cbE) (.cbk p) ++ oneItem (ceilDiv i.cbE 8) (.cbkPoison p))

/-- The layout of HBM (R328). -/
def Block.areas (b : Block) : List (Nat × HKind) :=
  (2 ^ 28, .sys) :: allParts.flatMap (fun p => match (b.part p).img with | some i => i.areas p | none => [])

/-- The area that an address lies in, and the offset within it. -/
def locateIn : List (Nat × HKind) → Nat → HKind × Nat
  | [], a => (.unassigned, a)
  | q :: t, a => if a < q.1 then (q.2, a) else locateIn t (a - q.1)

/-- The area of an address. -/
def Block.locate (b : Block) (a : Nat) : HKind × Nat := locateIn b.areas a

/-- The places that `len` bytes from an address on lie in, each with the offset of its first byte: two copies of an item are packed, and may share
a sector. -/
def placesIn : List (Nat × HKind) → Nat → Nat → List (HKind × Nat)
  | [], a, _ => [(.unassigned, a)]
  | q :: t, a, len =>
    if a < q.1 then (q.2, a) :: (if q.1 < a + len then placesIn t 0 (a + len - q.1) else [])
    else placesIn t (a - q.1) len

/-- The places of a sector. -/
def Block.places (b : Block) (sector : Nat) : List (HKind × Nat) := placesIn b.areas (32 * sector) 32

/-- The resident steep page in a frame of the share. -/
def Part.pageAt (x : Part) (frame : Nat) : Option Page := (x.pages.filter (fun q => q.spilled.isNone))[frame]?

/-- The residual block that a byte of the steep share holds (R336): tensor, copy and block. -/
def Part.blockAt (x : Part) (off : Nat) : Option (Nat × Bool × Nat) :=
  match x.pageAt (off / 16384) with
  | some q => if q.live then some (q.tensor, q.copy, 16 * q.page + off % 16384 / 1024) else none
  | none => none

/-- The partition of an area. -/
def HKind.part? : HKind → Option PartId
  | .index p _ _ | .warm p _ _ | .opcopy p _ | .stats p _ | .poison p _ _ | .scratch p _ | .hdrs p | .staging p | .steep p | .cbk p
  | .cbkPoison p => some p
  | .sys | .unassigned => none

/-- Region codes (R459). -/
def Block.regionCode (b : Block) (q : HKind × Nat) (prog : Bool) : Nat :=
  match q.1 with
  | .steep p => if ((b.part p).blockAt q.2).isSome then 1 else 0xE
  | .poison _ _ _ => 2 | .index _ _ _ => 3 | .warm _ _ _ => 4 | .opcopy _ _ => 5 | .stats _ _ => 6 | .scratch _ _ => 7
  | .cbk _ => 8 | .cbkPoison _ => 9 | .staging _ => 0xB | .hdrs _ => 0xC
  | .sys => if prog then 0xA else 0xD
  | .unassigned => 0xE

/-- The stack of an address (R400). -/
def stackOf (a : Nat) : StackId := Fin.ofNat 4 (a / 256 % 128 / 32)

/-- An error of a sector read is counted and logged (R402, R403, R408, R459). -/
def Block.hbmError (b : Block) (e : MemErr) (scrub : Bool) (progOf : Option PartId) : Block :=
  let a := 32 * e.sector
  let s := stackOf a
  let q := b.locate a
  let x := b.hbm.stackOf[s]
  let x := if e.ue then
      { x with eccUncorr := satAdd x.eccUncorr 1
               ueAt := (e.sector, b.now) :: x.ueAt.filter (fun u => decide (b.now < u.2 + 25000)) }
    else { x with eccCorr := satAdd x.eccCorr 1 }
  let code := if e.ue then (if scrub then 0x0304 else 0x0303) else (if scrub then 0x0302 else 0x0301)
  ({ b with hbm := { b.hbm with stackOf := b.hbm.stackOf.set s x } }).log code (.stack s) (progOf.orElse (fun _ => q.1.part?))
    [a % 2 ^ 32, a / 2 ^ 32, b.regionCode q progOf.isSome]

/-- The errors of a demand read: those of sectors of which the command reads some byte are counted and logged, and the uncorrectable ones come
back with the places read. `progOf` is the partition whose program copy the command reads. -/
def Block.demandOf (b : Block) (progOf : Option PartId) (errs : List MemErr) (reads : HKind × Nat → Bool) : Block × List (HKind × Nat) :=
  errs.foldl (fun st e =>
    let qs := (st.1.places e.sector).filter reads
    if qs.isEmpty then st else (st.1.hbmError e false progOf, if e.ue then st.2 ++ qs else st.2)) (b, [])
/-- The errors of a demand read of anything but a program copy. -/
def Block.demand (b : Block) (errs : List MemErr) (reads : HKind × Nat → Bool) : Block × List (HKind × Nat) := b.demandOf none errs reads

/-- Where the second copy of a packed item begins, from the start of the item. -/
def copyShift (copy1 : Bool) (half : Nat) : Nat := if copy1 then half else 0
/-- Byte `x` of a copy lies in the sector of byte `off` of it; the copy begins `shift` bytes into its item. -/
def sameSector (shift off x : Nat) : Bool := (shift + x) / 32 == (shift + off) / 32

/-- Blocks whose poison bit lies in the sector of byte `off` of a copy's poison-bit storage. -/
def sectorBlocks (shift off nb : Nat) : List Nat := (List.range nb).filter (fun k => sameSector shift off (k / 8))
/-- Those of a residual copy (R328). -/
def poisonBlocks (copy1 : Bool) (off nb : Nat) : List Nat := sectorBlocks (copyShift copy1 (ceilDiv nb 8)) off nb

/-- The poison-bit sector at an offset reads as all poisoned, and is rewritten so (R403). -/
def Block.poisonSector (b : Block) (p : PartId) (t : Nat) (copy1 : Bool) (off : Nat) : Block :=
  let nb := blocksOf ((b.image p).entry t).n
  b.modTMem p t (fun m => (poisonBlocks copy1 off nb).foldl (fun m k => m.mark copy1 k true) m)

/-- A block of a residual copy is poisoned (R110, R403). -/
def Block.poisonBlock (b : Block) (p : PartId) (t : Nat) (copy1 : Bool) (k : Nat) : Block := b.modTMem p t (fun m => m.mark copy1 k true)

/-- Codebook entries of the sectors of an entry's 80 bytes at an offset. -/
def entriesAt (off : Nat) : List Nat :=
  if off / 80 = (off + 31) / 80 then [off / 80] else [off / 80, (off + 31) / 80]

/-- The address at which an area begins. -/
def baseIn : List (Nat × HKind) → HKind → Nat → Nat
  | [], _, a => a
  | q :: t, k, a => if q.2 = k then a else baseIn t k (a + q.1)

/-- An entry of the codebook is poisoned and logged (R148, R149, R459): the detail words are those of an HBM event. DESIGN CHOICE (log entry 80):
the address, which carries the entry index, and the stack are those of the entry's first byte, also where the entry spans two stacks. -/
def Block.poisonEntry (b : Block) (p : PartId) (k : Nat) : Block :=
  if (b.part p).cb.poison.contains k ∨ (b.image p).cbE ≤ k then b
  else
    let a := baseIn b.areas (.cbk p) 0 + 80 * k
    (b.modPart p (fun x => { x with cb := { x.cb with poison := k :: x.cb.poison } })).log 0x0306 (.stack (stackOf a)) (some p)
      [a % 2 ^ 32, a / 2 ^ 32, 8]

/-- A sector of the codebook's poison storage cannot be read: every entry whose bit lies in it is taken as poisoned, and it is rewritten so (R403). -/
def Block.poisonCbSector (b : Block) (p : PartId) (off : Nat) : Block :=
  let ks := (sectorBlocks 0 off (b.image p).cbE).filter (fun k => !(b.part p).cb.poison.contains k)
  b.modPart p (fun x => { x with cb := { x.cb with poison := ks ++ x.cb.poison } })

/-- The entries some sector of which could not be read. -/
def badEntries (qs : List (HKind × Nat)) : List Nat :=
  qs.flatMap (fun q => match q.1 with | .cbk _ => entriesAt q.2 | _ => [])

/-- Sectors of the codebook's poison storage that could not be read. -/
def Block.poisonCb (b : Block) (p : PartId) (qs : List (HKind × Nat)) : Block :=
  qs.foldl (fun b q => match q.1 with | .cbkPoison _ => b.poisonCbSector p q.2 | _ => b) b

end Sys2Proof.Machine
end

