-- ==== Sys2Proof/Machine/HostOps.lean ====
section
/-! DEFINITION. Sessions as the rest of the chip uses them: records and interrupts (R315, R316), slots (R312), closing (R317), the start
conditions of a step and the ready queue (R314, R329). -/

namespace Sys2Proof.Machine
open Sys2Proof

/-! ### Contexts and records -/

def Block.modCtx (b : Block) (id : Nat) (f : Ctx → Ctx) : Block :=
  { b with host := { b.host with ctxs := b.host.ctxs.map (fun c => if c.id == id then f c else c) } }
/-- The context number that stands for the owner of a slot whose context a reset removed while a step used it (R317). -/
def orphanCtx : Nat := 4096

/-- Completion records that are neither posted nor reserved (R311, R314). -/
def Ctx.room (c : Ctx) : Nat := 2 ^ c.cqLog - (c.cqTail + 65536 - c.cqHead) % 65536 - c.reserved

/-- The fields of a completion record (R315). -/
structure Rec where
  status : Nat
  kind : Nat
  req : Nat
  slot : Nat
  step : Nat
  aux : Nat
  scal : List Byte
  irq : Bool
deriving DecidableEq, Repr

/-- A descriptor's record. -/
def Rec.desc (status req : Nat) (irq : Bool) : Rec := ⟨status, 1, req, 0xFFFFFFFF, 0, 0, [], irq⟩
/-- A kind 0x04 record. -/
def Rec.closed (status : Nat) : Rec := ⟨status, 4, 0, 0xFFFFFFFF, 0, 0, [], false⟩

/-- The 64 bytes of a record in a context's ring (R315). -/
def Rec.bytes (r : Rec) (c : Ctx) : List Byte :=
  leBytes 2 r.status ++ [byteOf r.kind, byteOf (b2n (c.cqTail / 2 ^ c.cqLog % 2 == 0))] ++ leBytes 4 r.req ++ leBytes 2 c.sqHead ++
  leBytes 2 c.id ++ leBytes 4 r.slot ++ leBytes 4 r.step ++ leBytes 4 r.aux ++ padTo 32 r.scal ++ zeros 8

/-- A record is written and, where R316 asks for it, the session's MSI-X message is sent after it. -/
def Block.postRec (b : Block) (id : Nat) (r : Rec) : Block :=
  match b.ctx? id with
  | none => b
  | some c =>
    let b := b.hostWrite c.port c.vf (c.cqBase + 64 * (c.cqTail % 2 ^ c.cqLog)) (r.bytes c) false
    let b := b.modCtx id (fun c => { c with cqTail := (c.cqTail + 1) % 65536 })
    if c.vector ≠ 0xFFFF ∧ (r.kind ≠ 1 ∨ r.status ≠ 0 ∨ r.irq) then
      { b with out := { writes := b.out.writes ++ [.msix c.port c.vf c.vector] } }
    else b

/-! ### Slots -/

def Block.modSlots (b : Block) (f : List SlotRec → List SlotRec) : Block := { b with host := { b.host with slots := f b.host.slots } }
/-- The lowest number at or above `n` that the list lacks; `fuel` bounds the search. -/
def lowestFree (l : List Nat) : Nat → Nat → Nat
  | 0, n => n
  | k + 1, n => if l.contains n then lowestFree l k (n + 1) else n
/-- Slots leave their owner; one that a running step uses stays until the step ends (R317). -/
def Block.dropSlots (b : Block) (ctx : Nat) : Block :=
  let mine := b.host.slots.filter (fun s => s.ctx == ctx && s.inUse.isNone)
  let b := b.modSlots (fun l => (l.filter (fun s => !(s.ctx == ctx && s.inUse.isNone))).map (fun s =>
    if s.ctx == ctx then { s with ctx := orphanCtx } else s))
  { b with host := { b.host with slotsFree := b.host.slotsFree + mine.length } }
/-- Sessions that own a slot of the partition. -/
def Block.owners (b : Block) (p : PartId) : List Nat :=
  (b.host.ctxs.filter (fun c => c.isOpen && b.host.slots.any (fun s => s.ctx == c.id && s.part == p))).map Ctx.id

/-! ### Start conditions and the ready queue (R314, R329) -/

/-- A comb that can take a step: in service, with no step and no release asked for (R331). -/
def Comb.free (c : Comb) : Bool := c.svc == .idle && !(c.ctrl.pend && c.ctrl.shown == 1)
/-- The comb that a partition starts on (R329). -/
def Block.freeComb (b : Block) (p : PartId) : Option CombId :=
  let l := (b.part p).lastComb
  if (b.comb l).free && (b.part p).lastStart.isSome then some l else allCombs.find? (fun c => (b.comb c).free)

/-- The conditions of R314 (and R141: no codebook load is under way) apart from the chip's membership. -/
def Block.startConds (b : Block) (p : PartId) : Bool :=
  let x := b.part p
  let i := b.image p
  b.serving && b.defined p && x.run.isNone &&
  (match x.lastStart with | some t => decide (t + 4000 ≤ b.now) | none => true) &&
  x.cb.st != .loading && x.cb.st != .hashing &&
  i.tensors.zipIdx.all (fun q =>
    (!q.1.gRole || (match b.slotOf p q.2 0 with | some s => s.armed.isSome | none => false)) &&
    (!q.1.rRole || (b.slotOf p q.2 1).isSome)) &&
  (b.owners p).all (fun id => match b.ctx? id with | some c => decide (2 ≤ c.room) | none => false)

/-- The start conditions of a step on a member (R314, R182). -/
def Block.stepDue (b : Block) (p : PartId) : Bool := b.active p && b.startConds p

/-- An EXCLUDE has taken this chip out of the partition's group (R195). -/
def Block.leftGroup (b : Block) (p : PartId) : Bool := inGroup (b.image p).vset b.logCoord && !inGroup (b.part p).vset b.logCoord

/-- A step posted on a chip that has left the group completes with 0x0131 (R195): every owner's record, and the gradients' slots disarmed. -/
def Block.excludedStep (b : Block) (p : PartId) : Block :=
  let b := (b.owners p).foldl (fun b id =>
    b.postRec id ⟨0x0131, 2, 0, 0xFFFFFFFF, (b.part p).stepCnt.toNat, 0, [], false⟩) b
  let b := b.modSlots (fun l => l.map (fun s => if s.part == p && s.role == 0 then { s with armed := none } else s))
  b.modPart p (fun x => { x with lastStart := some b.now })

/-- When a partition that has become ready since the last scan became so: as its 4,000 KT ended (R314), or now (DEDUCED, log entry 89). -/
def Block.readyAt (b : Block) (p : PartId) : Nat :=
  match (b.part p).lastStart with
  | some t => if b.scanAt < t + 4000 then t + 4000 else b.now
  | none => b.now

/-- Partitions that have become ready join the queue in the order of R329: by the time at which each became ready, lower numbers first among
equals; those that are no longer ready leave it. -/
def Block.scanReady (b : Block) : Block :=
  let keep := b.ready.filter (fun p => b.stepDue p)
  let new := sortBy (fun p q => decide (b.readyAt p < b.readyAt q)) (allParts.filter (fun p => !keep.contains p && b.stepDue p))
  { b with ready := keep ++ new, scanAt := b.now }

/-! ### Closing (R317) -/

/-- A descriptor of the context is still under way: a parcel move, or a codebook load that is being hashed (R311). -/
def Block.ctxHeld (b : Block) (id : Nat) : Bool :=
  b.host.parcelsOut.any (fun m => m.ctx == id) || b.parts.toList.any (fun x => match x.cb.last with | some q => q.1 == id | none => false)

/-- The context waits for a descriptor under way, or for a step that uses its slots or starts with them now. -/
def Block.closeWaits (b : Block) (c : Ctx) : Bool :=
  b.ctxHeld c.id ||
  b.host.slots.any (fun s => s.ctx == c.id && (s.inUse.isSome || (b.ready.contains s.part && (b.freeComb s.part).isSome)))

/-- A closed context goes, and its token returns. A step that has the session among its owners posts no record to it, nor to a later session that
takes the number (R316). -/
def Block.freeCtx (b : Block) (id : Nat) : Block :=
  { b with host := { b.host with ctxs := b.host.ctxs.filter (fun c => c.id != id), sessFree := b.host.sessFree + 1
                                 parcelsOut := b.host.parcelsOut.filter (fun m => m.ctx != id) }
           parts := b.parts.map (fun x => { x with
             run := x.run.map (fun r => { r with owners := r.owners.filter (· != id) })
             cb := { x.cb with
             owner := if x.cb.owner = some id then none else x.cb.owner
             last := match x.cb.last with | some q => if q.1 = id then none else some q | none => none } }) }

/-- A context that is to close does so when it need not wait: its slots, its CLOSE record, its kind 0x04 record, its token. -/
def Block.tryClose (b : Block) (id : Nat) : Block :=
  match b.ctx? id with
  | none => b
  | some c =>
    match c.closing with
    | none => b
    | some (status, desc) =>
      if b.closeWaits c then b
      else
        let b := b.dropSlots id
        let b := match desc with
          | some d => b.postRec id (Rec.desc 0 (field d 4 4) (bitAt (field d 1 1) 0))
          | none => b
        ((b.postRec id (Rec.closed status)).freeCtx id).scanReady

/-- Every context that is to close. -/
def Block.tryCloses (b : Block) : Block := (b.host.ctxs.map Ctx.id).foldl Block.tryClose b

/-- A context is closed at once by a reset of its function (R317): no further record or access. -/
def Block.cutCtx (b : Block) (id : Nat) : Block := (b.dropSlots id).freeCtx id

end Sys2Proof.Machine
end

