-- ==== Sys2Proof/Machine/Pager.lean ====
section
/-! DEFINITION. Stage 1 of a tensor (R96 to R101, R110, R111, R127) and the pager beneath it (R322, R323, R336 to R340). -/

namespace Sys2Proof.Machine
open Sys2Proof

/-! ### Page frames (R338, R339) -/

/-- The page of a copy of a tensor. -/
def Page.is (q : Page) (t : Nat) (copy1 : Bool) (k : Nat) : Bool := q.tensor == t && q.copy == copy1 && q.page == k
/-- A page in the pager's queue: tensor, copy, page. -/
abbrev PageKey := Nat × Bool × Nat
/-- The page of a key. -/
def Page.key (q : Page) : PageKey := (q.tensor, q.copy, q.page)
/-- A stamp later than every use so far. -/
def Part.stamp (x : Part) : Nat := (x.pages.map Page.used).foldl Nat.max 0 + 1
/-- Lower tensor, then lower block, then lower copy. -/
def Page.before (a b : Page) : Bool :=
  decide (a.tensor < b.tensor) || (a.tensor == b.tensor && (decide (a.page < b.page) || (a.page == b.page && !a.copy && b.copy)))
/-- The dead page in HBM that the pager drops first. -/
def Part.deadPage (x : Part) : Option Page := (sortBy Page.before (x.pages.filter (fun q => q.spilled.isNone && !q.live))).head?
/-- A frame for one more page: free, or that of a dead page, which is dropped (R339). -/
def Part.makeRoom (x : Part) (share : Nat) : Option Part :=
  if x.frames < share then some x
  else match x.deadPage with
    | some d => some { x with pages := x.pages.filter (fun q => !q.is d.tensor d.copy d.page) }
    | none => none
/-- A page brought to use: touched where it is in HBM, given a fresh frame where it is nowhere (R338); none while it is paged out or no
frame is to be had. -/
def Part.place (x : Part) (share t : Nat) (copy1 : Bool) (k : Nat) (live : Bool) : Option Part :=
  match x.pages.find? (fun q => q.is t copy1 k) with
  | some q =>
    if q.spilled.isSome then none
    else some { x with pages := x.pages.map (fun q => if q.is t copy1 k then { q with live := q.live || live, used := x.stamp } else q) }
  | none => (x.makeRoom share).map (fun x => { x with pages := x.pages ++ [⟨t, copy1, k, none, live, x.stamp⟩] })
/-- Pages of a copy become live or dead; a dead page that is paged out is forgotten, and its record is free (R338, R339). -/
def Part.setLive (x : Part) (t : Nat) (copy1 live : Bool) : Part :=
  let gone := if live then [] else (x.pages.filter (fun q => q.tensor == t && q.copy == copy1)).filterMap Page.spilled
  { x with
    pages := (x.pages.filter (fun q => live || !(q.tensor == t && q.copy == copy1 && q.spilled.isSome))).map (fun q =>
      if q.tensor == t && q.copy == copy1 then { q with live := live } else q)
    spill := x.spill.map (fun s => { s with kept := s.kept.filter (fun r => !gone.contains r.num) }) }

/-- The page is paged out. -/
def Part.away (x : Part) (k : PageKey) : Bool := x.pages.any (fun q => q.is k.1 k.2.1 k.2.2 && q.spilled.isSome)
/-- Page-ins are queued for those of the pages that are paged out and not yet asked for (R339). -/
def Part.ask (x : Part) (ks : List PageKey) : Part :=
  { x with pageQ := x.pageQ ++ (ks.filter (fun k => x.away k && !x.pageQ.contains k)).eraseDups }
def Block.askPages (b : Block) (p : PartId) (ks : List PageKey) : Block := b.modPart p (fun x => x.ask ks)
/-- Pages that an operation needs at once: each is placed where it can be, and asked for where it is paged out; whether all are there. -/
def Block.getPages (b : Block) (p : PartId) (ks : List PageKey) : Block × Bool :=
  ks.foldl (fun st k =>
    match (st.1.part p).place (st.1.image p).share k.1 k.2.1 k.2.2 true with
    | some x => (st.1.setPart p x, st.2)
    | none => (st.1.askPages p [k], false)) (b, true)

/-- The pages that hold a frame when both copies are set to +0 (R112, R338, R358): those of the current copies, which are live, then those
of the alternate copies, in order, up to the share. -/
def PartImage.firstPages (i : PartImage) : List Page :=
  let of (copy live : Bool) : List Page := (i.tensors.zipIdx.filter (fun q => q.1.ef)).flatMap (fun q =>
    (List.range (ceilDiv (blocksOf q.1.n) 16)).map (fun k => (⟨q.2, copy, k, none, live, 0⟩ : Page)))
  (of false true ++ of true false).take i.share
/-- A partition's tensor memory as it forms, every residual at +0 (R112, R126, R358). -/
def Part.formed (x : Part) (i : PartImage) : Part :=
  { x with tens := i.tensors.map TMem.form, pages := i.firstPages, pageQ := [], spill := x.spill.map (fun s => { s with kept := [], writing := none }) }

/-! ### Stage 1 -/

/-- The member and local block of a unit's flat block. -/
def PartImage.memberAt (i : PartImage) (h k : Nat) : Option (Nat × Nat) :=
  ((i.offsets h).find? (fun q => decide (q.2 ≤ 256 * k) && decide (256 * k < q.2 + 256 * blocksOf (i.entry q.1).n))).map
    (fun q => (q.1, k - q.2 / 256))

/-- The blocks of a unit. -/
def PartImage.unitBlocks (i : PartImage) (h : Nat) : Nat := ((i.unit h).map (fun t => blocksOf (i.entry t).n)).foldl (· + ·) 0

/-- Elements `256 b` to `256 b + 255` of a list replaced. -/
def putBlock (l : List Word) (b : Nat) (ws : List Word) : List Word := l.take (256 * b) ++ ws ++ l.drop (256 * b + 256)

/-- A poisoned block used as +0 (R110, R111): counted and logged. DESIGN CHOICE (log entry 51): the partition that R110 names first goes into the
entry's part field, the tensor and the block into detail words 0 and 1. -/
def Block.poisonUse (b : Block) (p : PartId) (c : CombId) (t k : Nat) : Block :=
  (b.count c (fun x => { x with poison := wrapAdd x.poison 1 })).log 0x0305 (.comb c) (some p) [t, k]

/-- The pages that stage 1 of a unit is at: the current one that it reads, the working one that it writes. -/
def Block.steepPages (b : Block) (p : PartId) (r : StepRun) (h : Nat) : List PageKey :=
  match (r.trun h).left with
  | none => []
  | some k =>
    match (b.image p).memberAt h k with
    | some (t, kb) => if ((b.image p).entry t).ef then [(t, (b.tmem p t).cur1, kb / 16), (t, !(b.tmem p t).cur1, kb / 16)] else []
    | none => []

/-- w of one block goes into the working copy, and the page is recorded where it holds a non-finite w (R96, R99). -/
def Block.putW (b : Block) (p : PartId) (h k t kb : Nat) (ws : List Word) : Block :=
  let ef := ((b.image p).entry t).ef
  (b.modTMem p t (fun m => m.setWork ef (putBlock (m.work ef) kb ws))).modT p h (fun x => { x with
    left := some (k + 1)
    dirty := if ef && ws.any (fun w => (f32Val w).nonFinite) && !x.dirty.contains (t, kb / 16) then x.dirty ++ [(t, kb / 16)] else x.dirty })

/-- Stage 1 of one block (R96, R110, R111), and whether it was done: not while a page must be brought in or a frame freed. -/
def Block.steepBlock (b : Block) (p : PartId) (r : StepRun) (h k : Nat) : Block × Bool :=
  match (b.image p).memberAt h k with
  | none => (b.modT p h (fun t => { t with left := none }), true)
  | some (t, kb) =>
    let g := unitOf (r.trun h).grads k
    if !((b.image p).entry t).ef then (b.putW p h k t kb (g.map (fun x => steepElem false x f32Zero)), true)
    else
      let a := b.getPages p (b.steepPages p r h)
      if !a.2 then a
      else
        let m := a.1.tmem p t
        let poisoned := (m.poison m.cur1).getD kb false || (r.trun h).bad.contains (t, kb)
        let rs := if poisoned then List.replicate 256 f32Zero else unitOf m.cur kb
        let b := if poisoned then a.1.poisonUse p r.comb t kb else a.1
        ((b.putW p h k t kb ((g.zip rs).map (fun q => steepElem true q.1 q.2))).modTMem p t (fun m => m.mark (!m.cur1) kb false), true)

/-- Elements of w below n of each member of a unit. -/
def PartImage.below (i : PartImage) (h : Nat) (w : List Word) : List Word :=
  (i.offsets h).flatMap (fun q => (w.drop q.2).take (i.entry q.1).n)

/-- What follows the last block of stage 1: w is whole; WAGGLE scores its blocks (R100), LOWRANK writes its operand copy (R127). -/
def Block.steepEnd (b : Block) (p : PartId) (h : Nat) : Block :=
  let i := b.image p
  let e := i.entry h
  let w := i.flat h (fun t => (b.tmem p t).work (i.entry t).ef)
  let b := b.modT p h (fun t => { t with
    left := none, w := w, grads := []
    scores := if e.method = .waggle then (List.range (blocksOf e.n)).map (fun k => blockScore e.z (unitOf (w.take e.n) k)) else [] })
  if e.method = .lowrank then
    let cs := (w.take e.n).map (fun x => toResult e.opfmt (f32Val x))
    let b := b.modTMem p h (fun m => { m with opcopy := cs.map Conv.code })
    match b.run? p with
    | some r => b.count r.comb (fun c => { c with qntSat := wrapAdd c.qntSat (cs.filter Conv.sat).length })
    | none => b
  else b

/-- Stage 1 goes on over the blocks whose pages can be had. -/
def Block.steepLoop (p : PartId) (h : Nat) : Nat → Block → Block
  | 0, b => b
  | n + 1, b =>
    match b.run? p with
    | none => b
    | some r =>
      match (r.trun h).left with
      | none => b
      | some k =>
        if (b.image p).unitBlocks h ≤ k then b.steepEnd p h
        else
          let a := b.steepBlock p r h k
          if a.2 then Block.steepLoop p h n a.1 else a.1

/-- Stage 1 of a tensor goes on as far as it can. -/
def Block.steepGo (b : Block) (p : PartId) (h : Nat) : Block := Block.steepLoop p h ((b.image p).unitBlocks h + 1) b

/-- A place in HBM that stage 1 of the unit reads: poison bits of its current copies. -/
def Block.steepBits (b : Block) (p : PartId) (h : Nat) (q : HKind × Nat) : Bool :=
  match q.1 with
  | .poison p' t copy1 => p' == p && ((b.image p).unit h).contains t && copy1 == (b.tmem p t).cur1
  | _ => false
/-- And the blocks of those copies that are not poisoned (R110), from the one that it is at. -/
def Block.steepReads (b : Block) (p : PartId) (r : StepRun) (h : Nat) (q : HKind × Nat) : Bool :=
  match q.1 with
  | .steep p' => p' == p && (match (b.part p).blockAt q.2 with
      | some (t, copy1, kb) =>
        let m := b.tmem p t
        let off := match ((b.image p).offsets h).find? (fun y => y.1 == t) with | some y => y.2 / 256 | none => 0
        ((b.image p).unit h).contains t && copy1 == m.cur1 && !(m.poison m.cur1).getD kb false &&
        (match (r.trun h).left with | some k => decide (k ≤ off + kb) | none => false)
      | none => false)
  | _ => false

/-- The errors that stage 1 of a unit meets as it reads (R111, R403): poison bits first, then the blocks that fail, which it keeps in mind. -/
def Block.steepErrors (b : Block) (p : PartId) (h : Nat) (errs : List MemErr) : Block :=
  let d := b.demand errs (b.steepBits p h)
  let b := d.2.foldl (fun b q => match q.1 with | .poison _ t copy1 => b.poisonSector p t copy1 q.2 | _ => b) d.1
  match b.run? p with
  | none => b
  | some r =>
    let d := b.demand errs (b.steepReads p r h)
    let bad := d.2.filterMap (fun q => ((b.part p).blockAt q.2).map (fun x => (x.1, x.2.2)))
    d.1.modT p h (fun t => { t with bad := t.bad ++ bad })

/-- Every tensor in stage 1 goes on, and the step with it: after a page has moved. `errs` are the errors that the reads meet. -/
def Block.steepResume (b : Block) (p : PartId) (errs : List MemErr) : Block :=
  match b.run? p with
  | none => b
  | some r =>
    if r.abort.isSome then b
    else
      let hs := (List.range r.runs.length).filter (fun h => (r.trun h).left.isSome)
      (hs.foldl (fun b h => (b.steepErrors p h errs).steepGo p h) b).drive p

/-- The gradient of a unit as stage 1 reads it (R78, R275): whole blocks, +0 beyond each member's n and for a member without the
gradient role. None where a read failed. -/
def PartImage.gradients (i : PartImage) (h : Nat) (g : List HostRead) : Option (List Word) :=
  ((i.unit h).zipIdx).foldl (fun (acc : Option (List Word)) q =>
    match acc with
    | none => none
    | some l =>
      let e := i.entry q.1
      let len := 256 * blocksOf e.n
      if !e.gRole then some (l ++ List.replicate len f32Zero)
      else match g.getD q.2 .failed with
        | .ok bs =>
          let xs := ((unpackCodes e.gfmt.width (bs.take (e.n * e.gfmt.bytes))).map (gradToF32 e.gfmt)).take e.n
          some (l ++ xs ++ List.replicate (len - xs.length) f32Zero)
        | .failed => none) (some [])

/-- The port that a failed gradient read is charged to: that of the slot's session. -/
def Block.gradPort (b : Block) (p : PartId) (t : Nat) : PortId :=
  match b.slotOf p t 0 with
  | some s => (match b.ctx? s.ctx with | some c => c.port | none => 0)
  | none => 0

/-- A host read made for the step failed (R319): logged, and the common abort. -/
def Block.hostReadFailed (b : Block) (p : PartId) (port : PortId) : Block :=
  match b.run? p with
  | none => b
  | some r => (b.log 0x040D (.port port) (some p) []).originate p 0x040D r.next

/-- The pages of the unit's current copies, in ascending block order (R339). -/
def Block.currentPages (b : Block) (p : PartId) (h : Nat) : List PageKey :=
  ((b.image p).unit h).flatMap (fun t => if ((b.image p).entry t).ef then
    (List.range (ceilDiv (blocksOf ((b.image p).entry t).n) 16)).map (fun k => (t, (b.tmem p t).cur1, k)) else [])

/-- Stage 1 of an idle tensor begins (R260, R339): its gradient is read, the page-ins that it needs are queued, and it is steeped. -/
def Block.steepStart (b : Block) (p : PartId) (h : Nat) (g : List HostRead) (errs : List MemErr) : Block :=
  match (b.image p).gradients h g with
  | none => b.hostReadFailed p (b.gradPort p h)
  | some gs =>
    let b := (b.modT p h (fun t => { t with st := .steeped, grads := gs, left := some 0 })).modTMem p h (fun m => { m with opBad := false })
    ((b.askPages p (b.currentPages p h)).steepErrors p h errs).steepGo p h

/-! ### Page-out and page-in (R322, R323, R339) -/

/-- The working pages of a unit that stage 12 visits, in order (R98, R99): those with a block that was sent, and those with a non-finite w. -/
def PartImage.residPages (i : PartImage) (x : TRun) (h : Nat) : List (Nat × Nat) :=
  (i.unit h).flatMap (fun t => ((List.range (ceilDiv (blocksOf (i.entry t).n) 16)).map (fun k => (t, k))).filter (fun q =>
    (i.entry t).method != .waggle || (x.conf.getD []).any (fun k => k / 16 == q.2) || x.dirty.contains q))

/-- The pages that an operation is at: stage 1 and stage 12 of each tensor. -/
def Block.busyPages (b : Block) (p : PartId) : List PageKey :=
  match b.run? p with
  | none => []
  | some r => (List.range r.runs.length).flatMap (fun h =>
      b.steepPages p r h ++
      (match (r.trun h).resid with
       | some k => (match ((b.image p).residPages (r.trun h) h)[k]? with | some q => [(q.1, !(b.tmem p q.1).cur1, q.2)] | none => [])
       | none => []))

/-- The pages that are pinned (R339): at most 32. -/
def Block.pinned (b : Block) (p : PartId) (q : Page) : Bool := ((b.busyPages p).take 32).contains q.key

/-- The next page that is paged in: the first in the queue that is still paged out. -/
def Block.pageWant (b : Block) (p : PartId) : Option Page :=
  (b.part p).pageQ.findSome? (fun k => (b.part p).pages.find? (fun q => q.is k.1 k.2.1 k.2.2 && q.spilled.isSome))

/-- A page must be placed: one is to be paged in, or an operation needs a fresh frame. -/
def Block.wantsPage (b : Block) (p : PartId) : Bool :=
  (b.pageWant p).isSome || (b.busyPages p).any (fun k => !(b.part p).pages.any (fun q => q.is k.1 k.2.1 k.2.2))

/-- The page that is paged out: live, not pinned, least recently used (R339). -/
def Block.victim (b : Block) (p : PartId) : Option Page :=
  (sortBy (fun a c : Page => decide (a.used < c.used) || (a.used == c.used && a.before c))
    ((b.part p).pages.filter (fun q => q.spilled.isNone && q.live && !b.pinned p q))).head?

/-- The 16 blocks of a page, short pages filled with +0 (R336). -/
def TMem.pageWords (m : TMem) (copy1 : Bool) (k : Nat) : List Word :=
  let l := ((if copy1 then m.copy1 else m.copy0).drop (4096 * k)).take 4096
  l ++ List.replicate (4096 - l.length) f32Zero

/-- A spill record's header (R322). -/
def spillHdr (p : PartId) (q : Page) (seq : Nat) (data : List Byte) : List Byte :=
  let h := leBytes 4 0x4C495053 ++ [1#8, byteOf p] ++ leBytes 2 q.tensor ++ leBytes 4 (16 * q.page) ++ [byteOf (b2n q.copy), 0, 0, 0] ++ leBytes 8 seq
  h ++ leBytes 4 (crc32 (h ++ data)) ++ zeros 36

/-- A place in HBM that the page-out of page `q` reads. -/
def Block.pageReads (b : Block) (p : PartId) (q : Page) (x : HKind × Nat) : Bool :=
  match x.1 with
  | .steep p' => p' == p && (match (b.part p).blockAt x.2 with | some (t, copy1, k) => q.is t copy1 (k / 16) | none => false)
  | _ => false

/-- PAGE_OUT: the record of a page is written (R323, R339). A stopped chip writes no client memory (R47). DESIGN CHOICE (log entry 78): a block that
the pager's own read finds uncorrectable is poisoned, as by a read of region 0x2 (R276). -/
def Block.pageOut (b : Block) (p : PartId) (errs : List MemErr) : Block :=
  let x := b.part p
  let i := b.image p
  match x.spill with
  | none => b
  | some s =>
    if b.kettle.stopped ∨ s.broken ∨ s.writing.isSome ∨ x.frames < i.share ∨ x.deadPage.isSome ∨ !b.wantsPage p then b
    else
      let num := lowestFree (s.kept.map SpillRec.num) s.recs 0
      if s.recs ≤ num then b
      else match b.victim p with
        | none => b
        | some q =>
          let d := b.demand errs (b.pageReads p q)
          let b := d.2.foldl (fun b y => match (b.part p).blockAt y.2 with | some (t, copy1, k) => b.poisonBlock p t copy1 k | none => b) d.1
          let x := b.part p
          let data := ((b.tmem p q.tensor).pageWords q.copy q.page).flatMap (fun w => leBytes 4 w.toNat)
          let hdr := spillHdr p q (x.outSeq + 1) data
          let b := b.setPart p { x with outSeq := x.outSeq + 1, spill := some { s with writing := some ({ q with spilled := some num }, hdr) } }
          b.hostWrite s.port s.vf (s.addr + 16448 * num) (hdr ++ data) true

/-- PAGE_OUT_READBACK: the header that was written comes back, or does not (R323). -/
def Block.pageOutReadback (b : Block) (p : PartId) (hdr : HostRead) (errs : List MemErr) : Block :=
  let x := b.part p
  match x.spill with
  | none => b
  | some s =>
    match s.writing with
    | none => b
    | some (q, h) =>
      let num := q.spilled.getD 0
      if hdr ≠ .ok h then
        (b.setPart p { x with spill := some { s with writing := none, broken := true } }).logPart 0x0320 p [q.tensor, 16 * q.page]
      else
        let pageOut := wrapAdd x.pageOut 1
        let same := x.pages.any (fun y => y.is q.tensor q.copy q.page && y.spilled.isNone && y.live && y.used == q.used)
        let s := { s with writing := none }
        if !same then b.setPart p { x with spill := some s, pageOut := pageOut }
        else
          let ps := (((b.tmem p q.tensor).poison q.copy).drop (16 * q.page)).take 16
          (b.setPart p { x with
            pageOut := pageOut
            pages := x.pages.map (fun y => if y.is q.tensor q.copy q.page then { y with spilled := some num } else y)
            spill := some { s with kept := s.kept ++ [⟨num, h, ps⟩] } }).steepResume p errs

/-- A page's record as it was read meets the kept header and the CRC (R323): its data, or every block of it poisoned and logged. -/
def Block.pageData (b : Block) (p : PartId) (q : Page) (rec' : HostRead) (errs : List MemErr) : Block :=
  let num := q.spilled.getD 0
  -- the kept header is read from HBM (R403)
  let d := b.demand errs (fun y => match y.1 with | .hdrs p' => p' == p && y.2 / 64 == num | _ => false)
  let b := d.1
  let x := b.part p
  let nb := blocksOf ((b.image p).entry q.tensor).n
  let kept : Option SpillRec := match x.spill with | some s => s.kept.find? (fun (k : SpillRec) => some k.num == q.spilled) | none => none
  let good : Option (List Byte) := match rec', kept with
    | .ok bs, some k =>
      if d.2.isEmpty && bs.take 64 == k.hdr && field bs 0x18 4 == crc32 (bs.take 0x18 ++ slice bs 64 16384) then some (slice bs 64 16384) else none
    | _, _ => none
  let b := b.setPart p { x with
    pageIn := wrapAdd x.pageIn 1
    pages := x.pages.map (fun y => if y.is q.tensor q.copy q.page then { y with spilled := none, used := x.stamp } else y)
    pageQ := x.pageQ.filter (· != q.key)
    run := x.run.map (fun r => if r.wants.contains q.key then { r with seen := q.key :: r.seen } else r)
    spill := x.spill.map (fun s => { s with kept := s.kept.filter (fun k => some k.num != q.spilled) }) }
  match good with
  | some d =>
    let ws := (unpackCodes 32 d).map (BitVec.ofNat 32)
    b.modTMem p q.tensor (fun m =>
      let l := if q.copy then m.copy1 else m.copy0
      let l' := (l.take (4096 * q.page) ++ ws ++ l.drop (4096 * q.page + 4096)).take l.length
      if q.copy then { m with copy1 := l' } else { m with copy0 := l' })
  | none =>
    ((List.range 16).filter (fun k => decide (16 * q.page + k < nb))).foldl (fun b k =>
      (b.poisonBlock p q.tensor q.copy (16 * q.page + k)).logPart 0x0320 p [q.tensor, 16 * q.page + k]) b

/-- PAGE_IN_COMPLETE: the next page comes in, once a frame can be had for it. A stopped chip writes nothing to the steep store (R47). -/
def Block.pageIn (b : Block) (p : PartId) (rec' : HostRead) (errs : List MemErr) : Block :=
  if b.kettle.stopped then b
  else match b.pageWant p, (b.part p).makeRoom (b.image p).share with
  | some q, some x =>
    let port := match x.spill with | some s => s.port | none => 0
    let b := (b.setPart p x).pageData p q rec' errs
    (if rec' = .failed then b.hostReadFailed p port else b).steepResume p errs
  | _, _ => b

end Sys2Proof.Machine
end

