-- ==== Sys2Proof/Machine/Methods.lean ====
section
/-! DEFINITION. The stages of the methods that follow their collectives: quantising and packing (R68 to R73), selection (R104), draining
and dequantising (R72, R89, R107), residual write-back (R98, R99), delivery (R121), and the steps of LOWRANK (R128), SIGN (R263) and
CODEBOOK (R143, R151 to R155). -/

namespace Sys2Proof.Machine
open Sys2Proof

/-- The tensor at the head of the launch queue. -/
def StepRun.atHead (r : StepRun) (h : Nat) : Bool :=
  match r.launches with | .tensor t :: _ => t == h && r.abort.isNone && r.agreed | _ => false

/-- The rounds of a collective of the tensor. -/
def StepRun.kindRounds (r : StepRun) (h : Nat) (k : RKind) : List Round := r.rounds.filter (fun o => o.tensor == h && o.kind == k)

/-! ### Quantise and pack -/

/-- Which confirmed tiles a step that speculated still has to send (R107, R108): runs of tiles that differ, or whose predicted round was
withdrawn; a covered tile lies in a capped round, or its sum has been drained. None while a predicted round is undecided. -/
def StepRun.uncovered (r : StepRun) (h : Nat) (pred conf : List Nat) : Option (List (Nat × Nat)) :=
  let rs := r.kindRounds h .predicted
  if rs.all (fun o => o.st == .capped || o.st == .drained) then
    let cov := (coveredTiles pred conf).zipIdx.map (fun q =>
      q.1 && (rs.any (fun o => o.st == .capped && decide (o.p0 ≤ 16 * q.2) && decide (16 * q.2 < o.p0 + o.u)) ||
        (r.trun h).sums.any (fun s => s.kind == .main && s.p0 == 16 * q.2)))
    some (uncoveredRuns 0 cov)
  else none

/-- The collective that QUANTISE_PACK builds at a launch stage, and the stage after it. -/
def packKind (m : Method) (stage : Nat) : Option (RKind × Nat) :=
  match m, stage with
  | .dense, 1 => some (.main, 2)
  | .waggle, 2 => some (.predicted, 4)
  | .waggle, 5 => some (.main, 6)
  | .lowrank, 1 => some (.factorP, 2)
  | .lowrank, 4 => some (.factorQ, 5)
  | .sign, 0 => some (.main, 2)
  | _, _ => none

/-- The runs of units that a collective sends: all of it, or the uncovered tiles of a step that speculated (R108). -/
def StepRun.packRuns (r : StepRun) (h : Nat) (k : RKind) (units : Nat) : Option (List (Nat × Nat)) :=
  let t := r.trun h
  match k, t.pred with
  | .main, some pred =>
    (r.uncovered h pred (t.conf.getD [])).map (fun l => l.map (fun q => (16 * q.1, Nat.min (16 * q.2) (units - 16 * q.1))))
  | _, _ => some [(0, units)]

/-- The blocks at the positions of a collective's units (R82). -/
def TRun.kindBlocks (t : TRun) (k : RKind) : List Nat :=
  match k with | .predicted => t.pred.getD [] | .main => t.conf.getD [] | _ => []

/-- QUANTISE_PACK (R71): the codes under the agreed exponents, and the rounds of the collective. -/
def Block.quantisePack (b : Block) (p : PartId) (h : Nat) (errs : List MemErr) : Block :=
  match b.run? p with
  | none => b
  | some r =>
    let i := b.image p
    let e := i.entry h
    let t := r.trun h
    match packKind e.method t.stage with
    | none => b
    | some (k, next) =>
      let units := i.kindUnits h k
      match r.scaleDone h k, r.packRuns h k units with
      | some te, some runs =>
        if !r.atHead h ∨ t.left.isSome then b
        else
          let d := b.demand errs (fun q => match q.1 with | .scratch p' t' => p' = p && (i.unit h).contains t' | _ => false)
          if !d.2.isEmpty then d.1.originate p 0x0312 r.next
          else
            let f := e.kindFmt k
            let bad := k == .predicted && t.predBad
            let convs := if bad then [] else quantiseUnits e f te (t.kindVals k)
            let codes := convs.map Conv.code
            let blocks := t.kindBlocks k
            let b := d.1.modT p h (fun t => { t with
              stage := next, te := (k, te) :: t.te, codes := (k, codes) :: t.codes
              qdec := if k = .factorQ then decodeOwnUnits e f te codes else t.qdec
              sigma := if e.method = .sign then meanAbs (i.below h t.w) else t.sigma })
            let cuts := runs.flatMap (fun q => i.cut r.group h k q.1 q.2)
            let b := b.launchRounds p h k (numbered 0 cuts) (fun p0 u o =>
              let part {α : Type} (l : List α) : List α := (l.drop (256 * p0)).take (256 * u)
              let own := part codes
              { o with scales := scaleSection f te p0 u, blocks := (blocks.drop p0).take u, own := own
                       ownSq := if e.kindStats k then
                           ((chunks 256 own).zipIdx).flatMap (fun q => q.1.map (enterSq f (teAt f te (p0 + q.2)).1)) else []
                       sat := ((part convs).filter Conv.sat).length })
            let b := if e.method = .sign then
                b.launchBuzz p 4 (.sigma h) [(meanAbs (i.below h t.w)).toNat] (effSplit r.group e.split) else b
            b.drive p
      | _, _ => b

/-! ### Selection -/

/-- The group scores, once they are capped. -/
def StepRun.scoresDone (r : StepRun) (i : PartImage) (h : Nat) : Option (List Nat) :=
  let nb := blocksOf (i.entry h).n
  if nb ≤ 8 then
    match r.buzz.find? (fun o => match o.why with | .score t => t == h | _ => false) with
    | some o => if o.capped then some (o.cur.take nb) else none
    | none => none
  else
    let rs := r.kindRounds h .score
    if !rs.isEmpty && rs.all (fun o => o.st == .drained) then some (((r.trun h).drained .score false).take nb) else none

/-- The confirmed set decides the output rows that were taken from a predicted round (R107, R134): they are taken again where a tile of it is not
covered, and else become capped with it. -/
def Block.confirmRows (b : Block) (p : PartId) (r : StepRun) (h : Nat) (conf : List Nat) : Block :=
  let cov := coveredTiles ((r.trun h).pred.getD []) conf
  (r.kindRounds h .predicted).foldl (fun b o =>
    if (List.range (ceilDiv o.u 16)).all (fun k => cov.getD (o.p0 / 16 + k) false) then
      (if o.st = .capped then b.capRows p r.comb o.opidx else b)
    else b.dropRows r.comb o.opidx) b

/-- SELECT_BLOCKS (R104, R105): the confirmed set, its index table, and the scale agreement over it. -/
def Block.selectBlocks (b : Block) (p : PartId) (h : Nat) : Block :=
  match b.run? p with
  | none => b
  | some r =>
    let i := b.image p
    let e := i.entry h
    if !r.atHead h ∨ e.method ≠ .waggle ∨ (r.trun h).stage ≠ 4 then b
    else match r.scoresDone i h with
      | none => b
      | some scores =>
        let k := kOf (blocksOf e.n) e.select
        let conf := confirmedSet scores k
        let b := b.modTMem p h (fun m => m.setIdxAlt conf)
        let b := b.modT p h (fun t => { t with conf := some conf, group := scores, stage := 5 })
        let b := b.modRun p (fun r => { r with count := { r.count with selBlocks := r.count.selBlocks + k } })
        ((b.confirmRows p r h conf).launchScale p h .main ({ r.trun h with conf := some conf }.kindExps e .main k)).drive p

/-! ### Draining and dequantising -/

/-- The part of a capped round that is kept: all of it, or the covered tiles of a predicted round (R107). -/
def Round.kept (o : Round) (t : TRun) : List SumPart :=
  if o.kind = .predicted then
    let cov := coveredTiles (t.pred.getD []) (t.conf.getD [])
    (((chunks 4096 o.cur).zip (chunks 4096 o.curSq ++ List.replicate o.u [])).zipIdx).filterMap (fun q =>
      if cov.getD (o.p0 / 16 + q.2) false then some ⟨.main, o.p0 + 16 * q.2, q.1.1, q.1.2⟩ else none)
  else [⟨o.kind, o.p0, o.cur, o.curSq⟩]

/-- A capped round is drained (R242): its sums kept, its cells free; what a predicted round keeps counts now (R75, R107, R109, R179). DESIGN
CHOICE (log entry 75): CMB_STR_COVERED_TILES and CMB_STR_CORR_TILES rise when the capped round is drained, also in a step that aborts later. -/
def Block.drainRound (b : Block) (p : PartId) (r : StepRun) (o : Round) : Block :=
  let t := r.trun o.tensor
  let e := (b.image p).entry o.tensor
  let ks := o.kept t
  let f := e.kindFmt o.kind
  let b := if o.kind = .predicted then
      let te := lookupKind t.te .predicted []
      let convs := quantiseUnits e f te (t.kindVals .predicted)
      let sat := (ks.map (fun s => (((convs.drop (256 * s.p0)).take s.acc.length).filter Conv.sat).length)).foldl (· + ·) 0
      let b := b.count r.comb (fun c => { c with qntSat := wrapAdd c.qntSat sat, covered := wrapAdd c.covered ks.length })
      if f.accum = .f32 then
        b.modPart p (fun x => { x with redNonfinite := wrapAdd x.redNonfinite ((ks.map (fun s => nonFiniteCount s.acc)).foldl (· + ·) 0) })
      else b
    else if o.kind = .main ∧ t.pred.isSome then b.count r.comb (fun c => { c with corr := wrapAdd c.corr (ceilDiv o.u 16) })
    else b
  b.keepSums p o ks

/-- The sums of S1 codes decoded (R263): S the sum of the scales. -/
def signDecode (n : Nat) (s : Word) (acc : List Nat) : List Word :=
  let m := f32Mul s (sigmaN n)
  acc.map (fun a => f32Mul (f32OfScaled (signedOf 32 a) 0) m)

/-- The capped sum of the scales of a SIGN tensor. -/
def StepRun.sigmaDone (r : StepRun) (h : Nat) : Option Word :=
  match r.buzz.find? (fun o => match o.why with | .sigma t => t == h | _ => false) with
  | some o => if o.capped then some (BitVec.ofNat 32 (o.cur.getD 0 0)) else none
  | none => none

/-- A block of +0 elements. -/
def zeroUnit : List Word := List.replicate 256 f32Zero

/-- Every round of the collectives that carry the payload is drained. -/
def StepRun.payloadDrained (r : StepRun) (h : Nat) (k : RKind) : Bool :=
  (r.kindRounds h k ++ r.kindRounds h .predicted).all (fun o => o.st == .drained)

/-- UNPACK_DEQUANTISE (R72, R89): capped rounds are drained, and when all are, the dense group sum is formed. -/
def Block.unpack (b : Block) (p : PartId) (h : Nat) : Block :=
  match b.run? p with
  | none => b
  | some r =>
    let i := b.image p
    let e := i.entry h
    let k : RKind := if e.method = .lowrank then .factorQ else .main
    let t := r.trun h
    if r.abort.isSome ∨ e.method = .codebook ∨ t.decoded.isSome ∨ !t.xissued ∨ (t.pred.isSome ∧ t.conf.isNone) then b
    else
      let last := !r.launches.any (fun l => match l with | .tensor t => t == h | _ => false)
      let ready := r.rounds.filter (fun o => o.tensor == h && o.st == .capped && (o.kind == k || o.kind == .predicted))
      let b := ready.foldl (fun b o => b.drainRound p r o) b
      match b.run? p with
      | none => b
      | some r =>
        if !last || !r.payloadDrained h k then b
        else
          let t := r.trun h
          let acc := t.drained k false
          let te := lookupKind t.te k []
          let stats := if e.stats then acc.zip (t.drained k true) else []
          let fin (b : Block) (l : List Word) : Block :=
            let n := 256 * i.unitBlocks h
            (b.modT p h (fun t => { t with decoded := some ((l ++ List.replicate (n - l.length) f32Zero).take n), sums := [] })).modTMem p h
              (fun m => { m with stats := stats })
          match e.method with
          | .sign =>
            match r.sigmaDone h with
            | none => b
            | some s => fin (b.modT p h (fun t => { t with sigmaSum := some s })) (signDecode r.members s acc)
          | .waggle => fin b (scatterBlocks (blocksOf e.n) (t.conf.getD []) (decodeUnits e e.xfmt te acc))
          | .lowrank =>
            let qs := (decodeUnits e e.xfmt te acc).take (e.b * e.rank)
            let out := lowrankOut e.opfmt e.a e.b e.rank t.phat qs
            let b := b.count r.comb (fun c => { c with
              infOvf := wrapAdd c.infOvf (out.filter Inf.ovf).length
              qntSat := wrapAdd c.qntSat (factorSat e.opfmt t.phat + factorSat e.opfmt qs) })
            let b := (b.modT p h (fun t => { t with qsum := qs })).modTMem p h (fun m => m.setQAlt qs)
            fin b (out.map Inf.code)
          | _ => fin b (decodeUnits e e.xfmt te acc)

/-! ### LOWRANK (R128) -/

/-- LOWRANK_ORTHOGONALISE: capped rounds of P are drained; when all are, the sum of P is decoded and orthogonalised, this chip's own q formed, and
its scale agreement launched. -/
def Block.orthonormal (b : Block) (p : PartId) (h : Nat) (errs : List MemErr) : Block :=
  match b.run? p with
  | none => b
  | some r =>
    let i := b.image p
    let e := i.entry h
    let t := r.trun h
    let rs := r.kindRounds h .factorP
    let ready (b : Block) : Block := (rs.filter (fun o => o.st == .capped)).foldl (fun b o => b.drainRound p r o) b
    if !r.atHead h ∨ e.method ≠ .lowrank ∨ t.stage ≠ 2 then b
    else if !rs.all (fun o => o.st == .capped || o.st == .drained) then ready b
    else
      let d := b.demand errs (fun q => match q.1 with | .opcopy p' t' => p' = p && t' = h | _ => false)
      if !d.2.isEmpty ∨ (b.tmem p h).opBad then d.1.originate p 0x0312 r.next
      else
        let b := ready d.1
        match b.run? p with
        | none => b
        | some r =>
          let t := r.trun h
          let ps := (decodeUnits e e.xfmt (lookupKind t.te .factorP []) (t.drained .factorP false)).take (e.a * e.rank)
          let ph := orthogonalise e.a e.rank ps
          let q := lowrankQ e.opfmt e.a e.b e.rank (b.tmem p h).opcopy ph
          let t' := { t with phat := ph, qown := q.map Inf.code, stage := 4 }
          let b := (b.modT p h (fun _ => t')).count r.comb (fun c => { c with
            infOvf := wrapAdd c.infOvf (q.filter Inf.ovf).length, qntSat := wrapAdd c.qntSat (factorSat e.opfmt ph) })
          (b.launchScale p h .factorQ (t'.kindExps e .factorQ (i.kindUnits h .factorQ))).drive p

/-! ### CODEBOOK (R142, R143, R151 to R155) -/

/-- The partition's codebook as the Forager reads it (R137, R138, R149): entry x at byte 80 x, 16 bytes of codeword and sixteen neighbour
words. -/
def Part.cbView (x : Part) (e : Nat) : CbView :=
  { e := e, word := fun k => leNat (Mem.bytes none x.cb.mem (80 * k) 16)
    nbr := fun k => unpackCodes 32 (Mem.bytes none x.cb.mem (80 * k + 16) 64), bad := fun k => x.cb.poison.contains k }

/-- The errors of a command's reads of the codebook (R149, R403): poison bits that cannot be read are set, and the entries whose reads fail. -/
def Block.cbErrors (b : Block) (p : PartId) (errs : List MemErr) : Block × List Nat :=
  let d := b.demand errs (fun q => match q.1 with | .cbk p' => p' = p | .cbkPoison p' => p' = p | _ => false)
  (d.1.poisonCb p d.2, badEntries d.2)

/-- Searches of the codebook in turn (R144, R149): results with the entries that each excluded. An entry whose own read by a search fails is
poisoned and logged. -/
def Block.cbSearch (b : Block) (p : PartId) (errs : List MemErr) (beam iters : Nat) (qs : List Nat) : Block × List (Nat × List Nat) :=
  let d := b.cbErrors p errs
  let v := (d.1.part p).cbView (d.1.image p).cbE
  let found := qs.map (foragerSearch { v with bad := fun k => v.bad k || d.2.contains k } beam iters)
  ((d.2.filter (fun k => found.any (fun f => f.2.contains k))).foldl (fun b k => b.poisonEntry p k) d.1, found)

/-- The tile magnitude of R143 for each tile of a tensor's elements below n. -/
def magnitudes (xs : List Word) : List Word := (chunks 4096 xs).map meanAbs

/-- DIGEST_AGREEMENT_COMPLETE (R142): the codebooks agree and the searches run, or the step aborts. -/
def Block.digestDone (b : Block) (p : PartId) (errs : List MemErr) : Block :=
  match b.run? p with
  | none => b
  | some r =>
    match r.launches with
    | .tensor h :: _ =>
      let i := b.image p
      let e := i.entry h
      match r.buzz.find? (fun o => match o.why with | .digest t => t == h | _ => false) with
      | none => b
      | some o =>
        if !r.atHead h ∨ e.method ≠ .codebook ∨ (r.trun h).stage ≠ 1 ∨ !o.capped then b
        else if o.cur.getD 2 0 ≠ 0 then b.originate p 0x0583 o.opidx
        else if o.cur.getD 0 0 + o.cur.getD 1 0 ≠ 2 ^ 64 - 1 then b.originate p 0x0582 o.opidx
        else
          let xs := i.below h (r.trun h).w
          let mags := magnitudes xs
          let f := b.cbSearch p errs e.beam e.iters (tilePatterns xs)
          let b := f.1
          let found := f.2
          let cbi := found.map Prod.fst
          let b := b.count r.comb (fun c => { c with excluded := wrapAdd c.excluded ((found.map (fun q => q.2.length)).foldl (· + ·) 0) })
          let b := b.modRun p (fun r => { r with count := { r.count with searches := r.count.searches + cbi.length } })
          let b := b.modT p h (fun t => { t with stage := 2, cbi := cbi, mags := mags })
          (b.launchRounds p h .gather (numbered 0 (i.cut r.group h .gather 0 (i.kindUnits h .gather))) (fun p0 u o =>
            { o with own := (cbi.drop p0).take u
                     scales := ((mags.drop (p0 / 32)).take (ceilDiv u 32)).flatMap (fun m => leBytes 4 m.toNat) })).drive p
    | _ => b

/-- A gathered frame's CBI words and magnitudes. -/
def cbiFrame (u : Nat) (bs : List Byte) : List Nat × List Word :=
  let l := frameLayout .codebook .cbi .cbi u
  (unpackCodes 32 (slice bs l.payOff l.payLen), (unpackCodes 32 (slice bs l.scaleOff l.scaleLen)).map (BitVec.ofNat 32))

/-- The group sums of a round's elements from its frames in ascending member order (R153): `u` patterns. -/
def cbiDecode (cb : CbView) (u : Nat) (frames : List (Coord × List Byte)) : List Word :=
  let fs := ((sortBy (fun a c => decide (a.1.toNat < c.1.toNat)) frames).map (fun q => cbiFrame u q.2))
  (List.range (128 * u)).map (fun k =>
    cbiSum (fs.map (fun f => cbiTerm (f.2.getD (k / 4096) f32Zero) (cb.word (f.1.getD (k / 128) 0)) k)))

/-- Every round of a CODEBOOK tensor is decoded: the elements of its unit (R153). -/
def Block.cbFinish (b : Block) (p : PartId) (h : Nat) : Block :=
  match b.run? p with
  | none => b
  | some r =>
    if r.launches.any (fun l => match l with | .tensor t => t == h | _ => false) || !(r.kindRounds h .gather).all (fun o => o.st == .drained) then b
    else
      let i := b.image p
      let l := (((r.trun h).drained .gather false).map (BitVec.ofNat 32)).take (i.total h)
      b.modT p h (fun t => { t with sums := [], decoded := some (l ++ List.replicate (256 * i.unitBlocks h - l.length) f32Zero) })

/-- CODEBOOK_DECODE (R152 to R154): capped rounds are checked and decoded, and their cells are free; when every round is, the tensor's sum is
formed. DESIGN CHOICE (log entry 76): the abort with 0x0310 carries the opidx of the first round that needs the unreadable entry. -/
def Block.cbDecode (b : Block) (p : PartId) (h : Nat) (errs : List MemErr) : Block :=
  match b.run? p with
  | none => b
  | some r =>
    let i := b.image p
    let e := i.entry h
    let rs := (r.kindRounds h .gather).filter (fun o => o.st == .capped)
    if r.abort.isSome ∨ e.method ≠ .codebook ∨ (r.trun h).decoded.isSome ∨ rs.isEmpty then b
    else
      let words := rs.flatMap (fun o => o.gathered.flatMap (fun g => (cbiFrame o.u g.2).1))
      let d := b.cbErrors p errs
      let b := (d.2.filter words.contains).foldl (fun b k => b.poisonEntry p k) d.1
      let cb := (b.part p).cbView i.cbE
      match rs.findSome? (fun o => (o.gathered.find? (fun g => (cbiFrame o.u g.2).1.any (fun w => decide (i.cbE ≤ w)))).map (fun g => (o, g.1))) with
      | some (o, src) => (b.log 0x060A (.comb r.comb) (some p) [h, o.rnd, src.toNat]).originate p 0x060A o.opidx
      | none =>
        match rs.find? (fun o => o.gathered.any (fun g => (cbiFrame o.u g.2).1.any cb.bad)) with
        | some o => (b.originate p 0x0310 o.opidx).modPart p (fun x => { x with cb := { x.cb with st := .rejected } })
        | none =>
          (rs.foldl (fun b o => b.keepSums p o [⟨.gather, o.p0, (cbiDecode cb o.u o.gathered).map BitVec.toNat, []⟩]) b).cbFinish p h

/-! ### Stage 12 and stage 13 -/

/-- The decoded own contribution of every element of the unit (R98, R128, R155, R263), and overflows of the residual expansion. -/
def Block.ownContribution (b : Block) (p : PartId) (r : StepRun) (h : Nat) : List Word × Nat :=
  let i := b.image p
  let e := i.entry h
  let t := r.trun h
  match e.method with
  | .dense => (decodeOwnUnits e e.xfmt (lookupKind t.te .main []) (lookupKind t.codes .main []), 0)
  | .waggle =>
    (scatterBlocks (blocksOf e.n) (t.conf.getD []) (decodeOwnUnits e e.xfmt (lookupKind t.te .main []) (lookupKind t.codes .main [])), 0)
  | .lowrank =>
    let out := lowrankOut e.opfmt e.a e.b e.rank t.phat (t.qdec.take (e.b * e.rank))
    (out.map Inf.code, (out.filter Inf.ovf).length)
  | .sign =>
    if f32Val t.sigma = .nan then ([], 0)
    else ((lookupKind t.codes .main []).map (fun c => if c = 0 then t.sigma else f32Of (f32Val t.sigma).neg), 0)
  | .codebook =>
    let cb := (b.part p).cbView i.cbE
    ((List.range (i.total h)).map (fun k =>
      let m := t.mags.getD (k / 4096) f32Zero
      if f32Val m = .nan then f32Zero else cbiTerm m (cb.word (t.cbi.getD (k / 128) 0)) k), 0)

/-- Stage 12 on one page of the working copy (R98, R99, R403): the blocks whose reads fail are poisoned and left as they are. -/
def Block.residPage (b : Block) (p : PartId) (r : StepRun) (t page : Nat) (d : List Word) (bad : Nat → Bool) : Block :=
  let e := (b.image p).entry t
  let m := b.tmem p t
  let nb := blocksOf e.n
  ((List.range 16).map (fun k => 16 * page + k)).foldl (fun b k =>
    if nb ≤ k then b
    else if bad k then b.poisonBlock p t (!m.cur1) k
    else
      let ws := unitOf m.alt k
      let live := Nat.min 256 (e.n - 256 * k)
      let rs := ((ws.take live).zip (unitOf d k ++ List.replicate 256 f32Zero)).map (fun q => residFinal q.1 q.2)
      let b := b.count r.comb (fun c => { c with nonfinite := wrapAdd c.nonfinite (rs.filter Prod.snd).length })
      b.modTMem p t (fun m => m.setAlt (putBlock m.alt k (rs.map Prod.fst ++ ws.drop live)))) b

/-- Pages of stage 12 in turn, as far as they can be had. -/
def Block.residLoop (p : PartId) (h : Nat) (d : List Word) (bad : Nat → Nat → Bool) : Nat → Block → Block
  | 0, b => b
  | n + 1, b =>
    match b.run? p with
    | none => b
    | some r =>
      let i := b.image p
      match (r.trun h).resid with
      | none => b
      | some k =>
        match (i.residPages (r.trun h) h)[k]? with
        | none => b.modT p h (fun t => { t with resid := none, residDone := true })
        | some (t, page) =>
          let a := b.getPages p [(t, !(b.tmem p t).cur1, page)]
          if !a.2 then a.1
          else
            let off := match (i.offsets h).find? (fun q => q.1 == t) with | some q => q.2 | none => 0
            Block.residLoop p h d bad n ((a.1.residPage p r t page (d.drop off) (bad t)).modT p h (fun t => { t with resid := some (k + 1) }))

/-- WRITE_RESIDUAL (R98, R99). DESIGN CHOICE (log entry 86): where the tensor has no error feedback, stage 12 writes nothing (R95), so LOWRANK's residual
expansion is not formed and counts nothing. -/
def Block.writeResidual (b : Block) (p : PartId) (h : Nat) (errs : List MemErr) : Block :=
  match b.run? p with
  | none => b
  | some r =>
    let i := b.image p
    let e := i.entry h
    let t := r.trun h
    if r.abort.isSome ∨ t.decoded.isNone ∨ t.residDone then b
    else if !e.ef then b.modT p h (fun t => { t with residDone := true })
    else
      let dm := b.demand errs (fun q => match q.1 with
        | .steep p' => p' = p && (match (b.part p).blockAt q.2 with
            | some (t', copy1, k) => copy1 != (b.tmem p t').cur1 && (i.residPages t h).contains (t', k / 16)
            | none => false)
        | _ => false)
      let bad := dm.2.filterMap (fun q => (b.part p).blockAt q.2)
      let d := b.ownContribution p r h
      let b := if t.resid.isNone then dm.1.count r.comb (fun c => { c with infOvf := wrapAdd c.infOvf d.2
                                                                           qntSat := wrapAdd c.qntSat (if e.method = .lowrank then factorSat e.opfmt (t.qdec.take (e.b * e.rank)) else 0) }) else dm.1
      let b := b.modT p h (fun t => { t with resid := some (t.resid.getD 0) })
      Block.residLoop p h d.1 (fun t k => bad.any (fun x => x.1 == t && x.2.2 == k)) ((i.residPages t h).length + 1) b

/-- DELIVER_RESULT (R32, R121): stage 11 and stage 13 of every member of the unit. -/
def Block.deliver (b : Block) (p : PartId) (h : Nat) : Block :=
  match b.run? p with
  | none => b
  | some r =>
    let i := b.image p
    let t := r.trun h
    match t.decoded with
    | none => b
    | some l =>
      -- products issued earlier that write a result slot of the unit come first (R273)
      if r.abort.isSome ∨ t.delivered ∨ (b.comb r.comb).prods.any (fun g => g.dst.region == 1 && (i.unit h).contains g.dst.tensor) then b
      else
        let b := (i.offsets h).foldl (fun b q =>
          let e := i.entry q.1
          let cs := ((l.drop q.2).take e.n).map (stage11 e.rfmt r.members)
          let b := b.count r.comb (fun c => { c with qntSat := wrapAdd c.qntSat (cs.filter Conv.sat).length })
          if e.rRole then b.resultWrite p q.1 0 (packCodes e.rfmt.width (cs.map Conv.code)) else b) b
        b.modT p h (fun t => { t with delivered := true })

end Sys2Proof.Machine
end

