-- ==== Sys2Proof/Machine/StepOps.lean ====
section
/-! DEFINITION. The life of a step: its start (R256, R314, R329), the membership agreement (R193, R194, R337), the fence (R261, R45), the
end of an abort (R250), and a halt of the chip (R47). -/

namespace Sys2Proof.Machine
open Sys2Proof

/-! ### Requests that wait for a step's end (R377, R419, R426, R429) -/

/-- A link that a request holds Cold is brought back: it starts training at Detect (R429), once the chip is Ready (R356, R358). -/
def Block.bringBack (b : Block) (l : LinkId) : Block :=
  let x := b.link l
  if b.linkAbsent l ∨ !x.tr.takenOut then b
  else if b.boot.phase ≠ .ready then b.setLink l { x with tr := { x.tr with takenOut := false } }
  else b.setLink l { x with st := .detect, pwr := .boil, tr := { x.tr with
    takenOut := false, lockRun := 0, idCount := 0, atOnce := true, pauseUntil := 0, since := b.now } }

/-- A take-out request is honoured (R429). -/
def Block.takeOut (b : Block) (l : LinkId) : Block :=
  let x := b.link l
  if b.linkAbsent l then b
  else if x.st = .inService ∨ x.st = .standby then b.leaveService l 0x0208 true
  else if x.st = .cold ∧ x.tr.takenOut then b
  else b.setLink l { x with st := .cold, pwr := .cold, entering := none, parked := false, lastCode := 0x0208, partner := none, tx := x.tx.withdraw
                            rx := x.rx.withdraw, tr := { x.tr with takenOut := true, lockRun := 0, idCount := 0 } }

/-- The active partitions whose group has extent above 1 in the link's dimension: a request on link `l` waits for their fences (R377). -/
def Block.linkParts (b : Block) (l : LinkId) : List Nat :=
  (allParts.filter (fun p => b.active p && decide (1 < extent (b.part p).vset (linkDim l)))).map Fin.val

/-- Steps in progress that a request on link `l` waits for. -/
def Block.linkSteps (b : Block) (l : LinkId) : List Nat := b.standbyWait l

/-- A link's request is honoured, once every fence it waits for has come, or no such step is in progress. -/
def Block.honourLink (fenced : Option PartId) (b : Block) (l : LinkId) : Block :=
  let x := b.link l
  if !x.ctrl.pend then b
  else
    let wait := match fenced with | some p => x.tr.ctrlWait.filter (· != p.val) | none => x.tr.ctrlWait
    if wait.isEmpty ∨ (b.linkSteps l).isEmpty then
      let b := b.setLink l { x with ctrl := { x.ctrl with pend := false, eff := x.ctrl.shown }, tr := { x.tr with ctrlWait := [] } }
      if x.ctrl.shown = 1 then b.takeOut l else if x.ctrl.shown = 2 then b.bringBack l else b
    else b.setLink l { x with tr := { x.tr with ctrlWait := wait } }

/-- The links' requests at a fence, or at a KT. -/
def Block.honourLinks (b : Block) (fenced : Option PartId) : Block := allLinks.foldl (Block.honourLink fenced) b

/-- Links in Standby stop waiting for a partition whose step has ended (R227). -/
def Block.releaseStandby (b : Block) (p : PartId) : Block :=
  { b with links := Vector.ofFn (fun (l : LinkId) =>
      let x := b.link l
      let w := x.tr.wait.filter (· != p.val)
      if x.st = .standby ∧ !x.tr.ready then { x with tr := { x.tr with wait := w, ready := x.tr.ready || w.isEmpty } }
      else { x with tr := { x.tr with wait := w } }) }

/-! ### Halt (R47, R333, R408) -/

/-- Every open session gets its last record and goes (R47 step 3). -/
def Block.closeAll (b : Block) (code : Nat) : Block :=
  (b.host.ctxs.filter Ctx.isOpen).foldl (fun b c => ((b.postRec c.id (Rec.closed code)).dropSlots c.id).freeCtx c.id) b

/-- A partition's running step is gone: what its adders failed in still counts (R173), and its cells and tokens return (R250). -/
def Block.dropRun (b : Block) (p : PartId) : Block :=
  match b.run? p with
  | none => b
  | some r =>
    ((r.rounds.foldl (fun b o => b.lateStrikes p r o) b).returnAll p).modPart p (fun x => { x with run := none })

/-- Slots that the step used are free of it; those whose session is gone return to the pool (R314, R317). -/
def Block.freeSlots (b : Block) (p : PartId) : Block :=
  let gone := b.host.slots.filter (fun s => s.part == p && s.ctx == orphanCtx)
  let b := b.modSlots (fun l => (l.filter (fun s => !(s.part == p && s.ctx == orphanCtx))).map (fun s =>
    if s.part == p then { s with inUse := none } else s))
  { b with host := { b.host with slotsFree := b.host.slotsFree + gone.length } }

/-- The step's record goes to every session that owned a slot at its start (R316). -/
def Block.stepRecords (b : Block) (r : StepRun) (status : Nat) (scal : List Byte) : Block :=
  r.owners.foldl (fun b id =>
    match b.ctx? id with
    | none => b
    | some c =>
      let b := b.modCtx id (fun c => { c with reserved := c.reserved - 1 })
      let b := if status = 0 ∧ c.scalarBase ≠ 0 then b.hostWrite c.port c.vf (c.scalarBase + r.stepNo.toNat % 8 * 512) scal true else b
      b.postRec id ⟨status, 2, 0, 0xFFFFFFFF, r.stepNo.toNat, 0, if status = 0 then scal.take 32 else [], false⟩) b

/-- The chip stops (R47, steps 1 to 5): `code` for the records, `entries` for the event log. Where a ledger failed, its registers keep
the counts of the check (R437). DESIGN CHOICE (log entry 81): flits that had been sent stay in the retry buffers and are resent when asked for,
since the management tunnel, which stays in service, shares their sequence space (R209, R212); nothing new of the collective and parcel
classes is sent. -/
def Block.halt (b : Block) (code : Nat) (entries : List (Nat × EvUnit × List Nat)) : Block :=
  if b.kettle.stopped then b
  else
    let b := { b with kettle := { b.kettle with stopped := true, haltCode := BitVec.ofNat 16 code }
                      frozen := if 0x0701 ≤ code ∧ code ≤ 0x0705 then some b.ledgersNow else b.frozen }
    let b := allParts.foldl (fun b p => b.originate p 0x0101 0) b
    let b := allParts.foldl (fun b p => match b.run? p with | some r => b.stepRecords r code [] | none => b) b
    let b := allParts.foldl (fun b p =>
      match b.run? p with
      | some r => (((b.dropRun p).freeSlots p).modComb r.comb (fun c => { c with
          svc := if c.svc = .running then .idle else c.svc, idleSince := b.now, prods := [], ops := [] })).releaseStandby p
      | none => b) b
    let b := b.closeAll code
    let b := entries.foldl (fun b q => b.log q.1 q.2.1 none q.2.2) b
    { b with ready := [], heldFlits := b.heldFlits.filter (fun h => hdClass h.2.1 == 4)
             host := { b.host with parcelsOut := [], parcelsIn := [] }
             links := b.links.map (fun x => { x with tx := { x.tx with qBulk := [], qParcel := [], curBulk := ([], []), curParcel := ([], []) } }) }

/-! ### Ledgers (R44, R45) -/

/-- The lowest link and class whose credits do not add up. -/
def Block.creditFault (b : Block) : Option (LinkId × List Nat) :=
  allLinks.findSome? (fun l =>
    let t := (b.link l).tx
    ([1, 2, 3, 4].find? (fun c => t.free.get c + t.used.get c != grants.get c)).map (fun c => (l, [t.used.get c, t.free.get c])))

/-- The ledgers that fail, in the order of R44: code, unit, both counts. -/
def Block.ledgerFaults (b : Block) : List (Nat × EvUnit × List Nat) :=
  let cells := (b.parts.toList.map Part.cells).foldl (· + ·) 0
  (match b.creditFault with | some q => [(0x0701, .link q.1, q.2)] | none => []) ++
  (if cells + b.hcbFree = 24576 then [] else [(0x0702, .honeycomb 0, [cells, b.hcbFree])]) ++
  (match allCombs.find? (fun c => (b.comb c).tokFree + (b.comb c).tokUsed != 256) with
   | some c => [(0x0703, .comb c, [(b.comb c).tokUsed, (b.comb c).tokFree])] | none => []) ++
  (if b.host.ctxs.length + b.host.sessFree = 4096 then [] else [(0x0704, .port 0, [b.host.ctxs.length, b.host.sessFree])]) ++
  (if b.host.slots.length + b.host.slotsFree = 65536 then [] else [(0x0705, .port 0, [b.host.slots.length, b.host.slotsFree])])

/-! ### The end of a step -/

/-- A comb's step has ended: a release that waits is honoured (R331, R377). The last comb to leave stops the chip (R333). -/
def Block.combDone (b : Block) (c : CombId) : Block :=
  let x := b.comb c
  let go := x.ctrl.pend && x.ctrl.shown == 1
  let b := b.setComb c { x with
    svc := if x.svc = .running then (if go then .released else .idle) else x.svc
    pwr := if go then .cold else x.pwr, entering := if go then none else x.entering, waking := if go then false else x.waking
    store := if go then none else x.store
    ctrl := if go then { x.ctrl with pend := false, eff := 1 } else x.ctrl, idleSince := b.now, prods := [], ops := [] }
  if go && allCombs.all (fun c => (b.comb c).svc == .released || (b.comb c).svc == .failed) then b.halt 0x0341 [(0x0341, .comb c, [])] else b

/-- Cells of data held for the next step stay; those of data that is gone return. -/
def Block.trimNext (b : Block) (p : PartId) : Block :=
  let x := b.part p
  let stays (q : Nat × Nat × Nat) : Bool :=
    x.heldNext.any (fun m => !m.buzz && (hdBulk m.head).tensor == q.1 && (hdBulk m.head).round == q.2.1)
  let gone := ((x.nextCells.filter (fun q => !stays q)).map (fun q => q.2.2)).foldl (· + ·) 0
  (b.freeCells gone).setPart p { x with nextCells := x.nextCells.filter stays }

/-- What every end of a step does (R250, R316, R317, R329, R227): its record, its slots, its comb, closings, the queue. -/
def Block.endStep (b : Block) (p : PartId) (r : StepRun) (status : Nat) (scal : List Byte) : Block :=
  let b := b.dropRun p
  let b := b.modPart p (fun x => { x with
    stepCnt := r.stepNo + 1, lastAbort := if status = 0 then x.lastAbort else BitVec.ofNat 16 status })
  let b := (b.trimNext p).stepRecords r status scal
  let b := ((b.freeSlots p).combDone r.comb).releaseStandby p
  (b.tryCloses).scanReady

/-- The scalar results, 64 of 8 bytes (R294, R316): the last SOUT to an index stands. -/
def StepRun.scalarBytes (r : StepRun) : List Byte :=
  (List.range 64).flatMap (fun k => match r.scalars.find? (fun q => q.1 == k) with | some q => leBytes 8 q.2.toNat | none => zeros 8)

/-- Everything that FENCE waits for (R261, R275). -/
def Block.fenceReady (b : Block) (r : StepRun) : Bool :=
  r.agreed && r.launches.isEmpty && r.buzz.all BuzzOp.capped && r.rounds.all (fun o => o.st == .drained) &&
  r.runs.all (fun t => t.left.isNone && (!t.xissued || (t.delivered && t.residDone))) &&
  (b.comb r.comb).prods.isEmpty && (b.comb r.comb).ops.isEmpty && (b.seq r.comb).s.toList.all (fun s => !s.pend)

/-- Elements with every non-finite one replaced (R99), and how many of the first `n` were. -/
def cleanCopy (n : Nat) (l : List Word) : List Word × Nat :=
  (l.map (fun x => if (f32Val x).nonFinite then f32Zero else x), ((l.take n).filter (fun x => (f32Val x).nonFinite)).length)

/-- A page of a working copy with every non-finite element replaced, and counted (R99). -/
def Block.cleanPage (b : Block) (p : PartId) (c : CombId) (t page : Nat) : Block :=
  let m := b.tmem p t
  let n := ((b.image p).entry t).n
  let x := cleanCopy (n - 4096 * page) ((m.alt.drop (4096 * page)).take 4096)
  (b.modTMem p t (fun m => m.setAlt (m.alt.take (4096 * page) ++ x.1 ++ m.alt.drop (4096 * page + 4096)))).count c
    (fun y => { y with nonfinite := wrapAdd y.nonfinite x.2 })

/-- The pages of a steeped unit with a non-finite w are cleaned before they become current (R99, R261), each once it is in HBM (R340); whether none
is left. -/
def Block.cleanUnit (p : PartId) (st : Block × Bool) (h : Nat) : Block × Bool :=
  match st.1.run? p with
  | none => st
  | some r =>
    if (r.trun h).st ≠ .steeped then st
    else (r.trun h).dirty.foldl (fun st q =>
      let a := st.1.getPages p [(q.1, !(st.1.tmem p q.1).cur1, q.2)]
      if a.2 then ((a.1.cleanPage p r.comb q.1 q.2).modT p h (fun t => { t with dirty := t.dirty.filter (· != q) }), st.2) else (a.1, false)) st

/-- Every steeped unit. -/
def Block.cleanSteeped (b : Block) (p : PartId) (r : StepRun) : Block × Bool :=
  (List.range r.runs.length).foldl (Block.cleanUnit p) (b, true)

/-- The fence's effect on one member of a tensor (R40, R105, R126, R261, R338). -/
def Block.fenceTensor (b : Block) (p : PartId) (t : Nat) (exchanged : Bool) : Block :=
  let e := (b.image p).entry t
  let m := b.tmem p t
  let b := if e.ef then
      (b.modTMem p t (fun m => { m with cur1 := !m.cur1 })).modPart p (fun x => (x.setLive t m.cur1 false).setLive t (!m.cur1) true)
    else b
  b.modTMem p t (fun m => { m with
    idxCur1 := if exchanged ∧ e.method = .waggle then !m.idxCur1 else m.idxCur1
    idxBad := if exchanged ∧ e.method = .waggle then false else m.idxBad
    qCur1 := if exchanged ∧ e.method = .lowrank then !m.qCur1 else m.qCur1
    qBad := if exchanged ∧ e.method = .lowrank then false else m.qBad
    stats := [] })

/-- The step fence (R261): copies, ledgers, counts, requests, completion. -/
def Block.fence (b : Block) (p : PartId) (r : StepRun) : Block :=
  match b.ledgerFaults with
  | q :: qs => b.halt q.1 (q :: qs)
  | [] =>
    let i := b.image p
    let b := (List.range r.runs.length).foldl (fun b h =>
      match (r.trun h).st with
      | .idle => b
      | s => (i.unit h).foldl (fun b t => b.fenceTensor p t (s == .exchanged)) b) b
    let b := b.count r.comb (fun c => { c with selBlocks := wrapAdd c.selBlocks r.count.selBlocks, searches := wrapAdd c.searches r.count.searches })
    let b := b.modPart p (fun x => { x with
      joining := false, lastGroup := r.groupMap
      timeout := { x.timeout with eff := x.timeout.shown, pend := false }, weight := { x.weight with eff := x.weight.shown, pend := false } })
    (b.endStep p r 0 r.scalarBytes).honourLinks (some p)

/-- FENCE once everything has finished (R261): steeped copies are cleaned, then the step fence. -/
def Block.fenceGo (b : Block) (p : PartId) (r : StepRun) : Block :=
  let a := b.cleanSteeped p r
  if a.2 then a.1.fence p r else a.1

/-- The end of the settle period (R250, R338, R404): uncapped data goes, working pages die, the warm-start Q is seeded afresh after 0x0311. -/
def Block.settleEnd (b : Block) (p : PartId) : Block :=
  match b.run? p with
  | none => b
  | some r =>
    match r.abort with
    | none => b
    | some code =>
      let i := b.image p
      let b := b.advanceTo (r.abortAt + 250)
      let b := (List.range i.tensors.length).foldl (fun b t =>
        let m := b.tmem p t
        let b := if (i.entry t).ef then b.modPart p (fun x => x.setLive t (!m.cur1) false) else b
        b.modTMem p t (fun m => { (if r.reseed then m.reseed (i.entry t) else m) with stats := [] })) b
      (b.endStep p r code []).honourLinks none

/-! ### Start (R256, R314, R329, R193) -/

/-- A comb is asked to wake (R385): one that is entering a lower state finishes the entry first. -/
def Comb.wake (x : Comb) (now : Nat) : Comb :=
  if x.waking then x
  else { x with waking := true, due := if x.entering.isSome then x.due else now + wakeKt x.pwr }


/-- The operands of the membership agreement (R193, R194). -/
def Block.agreementOperands (b : Block) (p : PartId) : List Nat :=
  let x := b.remap.gen + 2 ^ 32 * field (b.image p).entryDigest 0 4
  [x, 2 ^ 64 - 1 - x, if (b.part p).joining then 0 else (b.part p).stepCnt.toNat]

/-- The registers at step start (R256): a joining chip's S0 waits for the agreement (R194). -/
def Block.seqStart (b : Block) (p : PartId) : Seqr :=
  let x := b.part p
  let q := Seqr.reset
  (((q.setS 0 (if x.joining then 0 else x.stepCnt.zeroExtend 64)).setS 1 (BitVec.ofNat 64 (groupSize x.vset))).setS 2
    (b.logCoord.zeroExtend 64)).setS 3 (BitVec.ofNat 64 p.val)

/-- The slots of a step as it starts (R314). -/
def startSlot (p : PartId) (s : SlotRec) : SlotRec :=
  if s.part ≠ p then s
  else match s.role with
    | 0 => { s with inUse := s.armed, armed := none }
    | 1 => let a := s.armed.getD s.cur
           { s with cur := a, armed := none, inUse := some a }
    | _ => s

/-- A message of a membership agreement (R193). -/
def HeldMsg.agreement (m : HeldMsg) : Bool := m.buzz && (hdBuzz m.head).opidx == 0 && (hdBuzz m.head).op == 8

/-- A held message belongs to the step that begins: its epoch, or an agreement message that R194 exempts. A chip that joins knows no epoch yet. -/
def heldForStep (joining : Bool) (ep : Nat) (m : HeldMsg) : Bool :=
  (!joining && hdEpoch m.head == ep) || (m.agreement && (joining || hdJoin m.head))

/-- A message that is not the step's stays held: of the next epoch, of any while the chip joins, or one that bears a join mark (R55, R194). -/
def heldOn (joining : Bool) (ep : Nat) (m : HeldMsg) : Bool :=
  joining || (m.agreement && hdJoin m.head) || (hdEpoch m.head + 256 - ep) % 256 == 1

/-- A partition's step starts on comb `c`; what it held that is stale by now is discarded and logged (R55). -/
def Block.beginStep (b : Block) (p : PartId) (c : CombId) (progUe : Bool) : Block :=
  let x := b.part p
  let i := b.image p
  let ep := x.stepCnt.toNat % 256
  let mine := x.heldNext.filter (heldForStep x.joining ep)
  let rest := x.heldNext.filter (fun m => !heldForStep x.joining ep m)
  let old := rest.filter (fun m => !heldOn x.joining ep m)
  let r : StepRun :=
    { comb := c, stepNo := x.stepCnt, group := x.vset, me := b.logCoord, table := b.remap.assumes, agreed := false, retryAt := none, genBad := false
      progBad := progUe, next := 0, launches := [], buzz := [], rounds := [], held := mine, seenAbort := []
      abort := none, abortAt := 0, reseed := false, runs := List.replicate i.tensors.length TRun.idle, count := ⟨0, 0⟩, scalars := []
      owners := b.owners p, wants := [], seen := [] }
  let b := b.setPart p { x with run := some r, heldNext := rest.filter (heldOn x.joining ep), lastStart := some b.now
                                lastComb := c
                                progSt := if progUe ∧ x.progSt = .available then .pending else x.progSt }
  let b := if progUe ∧ x.progSt = .available then { b with nvm := { b.nvm with due := b.nvm.due ++ [p] } } else b
  let b := b.modComb c (fun y => { y with
    svc := .running, part := some p, lastIssue := b.now, store := some (p, x.prog), prods := [], ops := []
    cnt := { y.cnt with steps := wrapAdd y.cnt.steps 1 } })
  let b := b.modSeq c (fun _ => b.seqStart p)
  let b := b.modSlots (fun l => l.map (startSlot p))
  let b := r.owners.foldl (fun b id => b.modCtx id (fun c => { c with reserved := c.reserved + 1 })) b
  let b := old.foldl (fun b m => b.log 0x0105 (.link m.link) (some p) []) b
  let b := { b with ready := b.ready.filter (· != p) }
  (b.launchBuzz p 8 .membership (b.agreementOperands p) 1).drive p

/-- STEP_START (R314, R329, R330, R195): the partition at the head of the queue starts on a free comb at Boil; a comb below Boil is woken first.
The buffer of the comb starts at +0 (R276). `errs` are the errors that the load of the program copy into the comb meets (R402, R403); the layout
of the system area is not the spec's, so every one that lies there counts. -/
def Block.stepStart (b : Block) (bufs : Vector Mem 4) (p : PartId) (errs : List MemErr) : Block × Vector Mem 4 :=
  let b := b.scanReady
  if b.leftGroup p && b.startConds p && b.hasSlots p then (b.excludedStep p, bufs)
  else if b.ready.head? ≠ some p then (b, bufs)
  else match b.freeComb p with
    | none => (b, bufs)
    | some c =>
      if (b.comb c).pwr ≠ .boil ∨ (b.comb c).entering.isSome ∨ (b.comb c).waking then
        (b.modComb c (fun x => x.wake b.now), bufs)
      else
        let d := b.demandOf (some p) errs (fun q => q.1 == .sys)
        (d.1.beginStep p c (!d.2.isEmpty), bufs.set c [])

/-- The steep condition (R337). -/
def Block.steepEnough (b : Block) (p : PartId) : Bool :=
  let i := b.image p
  let recs := match (b.part p).spill with | some s => s.recs | none => 0
  decide (i.demand ≤ i.share + recs)

/-- A chip that joins has its epoch: what it held meanwhile is the step's, the next one's, or stale (R55, R194). -/
def Block.judgeHeld (b : Block) (p : PartId) (ep : Nat) : Block :=
  let l := (b.part p).heldNext
  let b := b.modPart p (fun x => { x with heldNext := l.filter (fun m => !heldForStep false ep m && heldOn false ep m) })
  let b := b.modRun p (fun r => { r with held := r.held ++ l.filter (heldForStep false ep) })
  (l.filter (fun m => !heldForStep false ep m && !heldOn false ep m)).foldl (fun b m => b.log 0x0105 (.link m.link) (some p) []) b

/-- The agreed membership (R193, R194, R337, R360): the step goes on, with what a re-formed group or a joining chip does. -/
def Block.agreed (b : Block) (p : PartId) (r : StepRun) (cnt : Nat) : Block :=
  let x := b.part p
  let i := b.image p
  let group := r.groupMap
  let re := !x.lastGroup.isEmpty && x.lastGroup != group
  let no : BitVec 32 := if x.joining then BitVec.ofNat 32 cnt else r.stepNo
  let b := b.modRun p (fun r => { r with agreed := true, stepNo := no })
  let b := b.modPart p (fun y => { y with stepCnt := no, reformed := re })
  let b := if x.joining then b.modPart p (fun y => y.formed i) else b
  let b := if x.joining then (b.modSeq r.comb (fun q => q.setS 0 (no.zeroExtend 64))).judgeHeld p (no.toNat % 256) else b
  let b := if re then (List.range i.tensors.length).foldl (fun b t =>
      b.modTMem p t (fun m => { (m.reseed (i.entry t)) with idx0 := none, idx1 := none, idxBad := false })) b else b
  let prog := r.progBad || x.progSt != .available
  if prog then b.originate p 0x0512 0
  else if !b.steepEnough p then b.originate p 0x0321 0
  else (b.retakeHeld p).drive p

/-- MEMBERSHIP_AGREEMENT_COMPLETE (R193): the halves of x agree or not. -/
def Block.membershipDone (b : Block) (p : PartId) : Block :=
  match b.run? p with
  | none => b
  | some r =>
    match r.buzz.find? (fun o => o.why == .membership) with
    | none => b
    | some o =>
      if r.agreed ∨ r.abort.isSome ∨ r.retryAt.isSome ∨ !o.capped then b
      else
        let x := o.cur.getD 0 0
        let y := o.cur.getD 1 0
        let m := 2 ^ 32
        if x / m + y / m ≠ m - 1 then b.originate p 0x0132 0
        else if x % m + y % m ≠ m - 1 then b.modRun p (fun r => { r with genBad := true, retryAt := some (b.now + 25) })
        else b.agreed p r (o.cur.getD 2 0)

/-- MEMBERSHIP_AGREEMENT_RETRY (R193): a new operation at opidx 0, one redo further, in the group of the chip's own table. A chip that
has left the group since the step began completes with 0x0131 (R195). DESIGN CHOICE (log entry 77): so does one that a record has mapped away, or
that has fallen too far behind (R191), meanwhile. -/
def Block.membershipRetry (b : Block) (p : PartId) : Block :=
  match b.run? p with
  | none => b
  | some r =>
    match r.retryAt with
    | none => b
    | some t =>
      if r.abort.isSome then b
      else
        let b := b.advanceTo t
        if !b.active p then b.endStep p r 0x0131 []
        else
          let own := b.agreementOperands p
          let v := (b.part p).vset
          let b := b.modRun p (fun r => { r with
            retryAt := none, group := v, me := b.logCoord, table := b.remap.assumes
            buzz := r.buzz.map (fun o => if o.why = .membership then
              { o with redo := (o.redo + 1) % 256, own := own, cur := own, dims := exchanges v 1, got := [], sent := 0, capped := false } else o) })
          (b.retakeHeld p).drive p

/-- COLLECTIVE_TIMEOUT (R247, R193). -/
def Block.collTimeout (b : Block) (p : PartId) (opidx : Nat) : Block :=
  match b.run? p with
  | none => b
  | some r =>
    if r.abort.isSome then b
    else
      let limit := (b.part p).timeout.eff
      match r.buzz.find? (fun o => o.opidx == opidx && !o.isReport) with
      | some o =>
        if o.why = .membership then
          if r.agreed then b
          else (b.advanceTo (o.since + limit)).originate p (if r.genBad then 0x0130 else 0x0101) opidx
        else if o.capped then b
        else (b.advanceTo (o.since + limit)).originate p 0x0101 opidx
      | none =>
        match r.rounds.find? (fun o => o.opidx == opidx) with
        | none => b
        | some o =>
          if o.st = .capped ∨ o.st = .drained then b
          else (b.advanceTo (o.since + limit)).originate p 0x0101 opidx

end Sys2Proof.Machine
end

