-- ==== Sys2Proof/Machine/BrewTensor.lean ====
section
/-! DEFINITION. The tensor instructions of Brew: descriptors and regions (R255, R276, R277), the exchange instructions (R278 to R281), the
Infuser and copy instructions (R282 to R289), the buzz and output instructions (R292 to R294), FENCE (R275), and the taking of a gathered
row (R132, R133). -/

namespace Sys2Proof.Machine
open Sys2Proof

/-! ### Descriptors and regions (R255, R276, R277) -/

/-- The descriptor that TLD and TLDX load (R277). -/
def PartImage.tdOf (i : PartImage) (t : Nat) : Td :=
  if i.tensors.length ≤ t then Td.null
  else
    let e := i.entry t
    { rowlen := if e.method = .lowrank then e.b else 0, region := 0, view := false, method := e.method.code, rfmt := e.rfmt.code
      xfmt := e.xfmt.code, tensor := t, base := 0, n := e.n }

/-- A null descriptor (R255). -/
def Td.isNull (d : Td) : Bool := d.region == 15

/-- The elements of the comb buffer (R276). -/
def combElems : Nat := 1048576

/-- The extent of a region of a tensor, where it is available (R276). -/
def TensorEntry.extentOf (e : TensorEntry) (region : Nat) : Option Nat :=
  match region with
  | 0 | 1 | 6 => some e.n
  | 2 => if e.ef then some e.n else none
  | 3 => if e.method = .lowrank then some e.n else none
  | 4 => some (Nat.min e.n combElems)
  | 5 => if e.method = .lowrank then some (e.b * e.rank) else none
  | _ => none

/-- The stored format of a region (R276). -/
def TensorEntry.regionFmt (e : TensorEntry) (region : Nat) : Fmt :=
  match region with | 0 => e.gfmt | 1 => e.rfmt | 3 => e.opfmt | _ => .f32

/-- TVIEW (R277). -/
def PartImage.tview (i : PartImage) (q : Seqr) (d : Td) (mode : TviewMode) : Td :=
  if d.isNull then Td.null
  else
    let e := i.entry d.tensor
    match mode with
    | .range s n =>
      let base := (q.sreg s).toNat % 2 ^ 32
      match e.extentOf d.region with
      | none => Td.null
      | some x =>
        if base % 256 ≠ 0 ∨ x ≤ base ∨ n.toNat = 0 then Td.null
        else { d with base := base, n := Nat.min n.toNat (x - base), view := true }
    | .rowlen v => { d with rowlen := v.toNat }
    | .region g =>
      match e.extentOf g.toNat with
      | none => Td.null
      | some x => { d with region := g.toNat, base := 0, n := x, view := false }

/-- TINFO (R277). -/
def PartImage.tinfo (i : PartImage) (d : Td) (sel : Nat) : Nat :=
  if d.isNull then (if sel = 7 then 15 else 0)
  else
    let e := i.entry d.tensor
    match sel with
    | 0 => d.n
    | 1 => d.base
    | 2 => d.rowlen
    | 3 => d.tensor
    | 4 => blocksOf e.n
    | 5 => if e.method = .waggle then kOf (blocksOf e.n) e.select else 0
    | 6 => d.method
    | _ => d.region

/-- The partition's image that comb `c` runs. -/
def Block.imageOf (b : Block) (c : CombId) : PartImage :=
  match b.stepOf c with | some (p, _) => b.image p | none => b.image 0

/-- TLD (R277). -/
def execTld (c : CombId) (p : Pr) (td : TdReg) (idx : BitVec 16) (s : State) : Out :=
  s.act (fun b => b.issue c p (fun _ => false) (fun b => b.modSeq c (fun q => q.setTd td ((b.imageOf c).tdOf idx.toNat))))

/-- TLDX (R277). -/
def execTldx (c : CombId) (p : Pr) (td : TdReg) (sb : SReg) (s : State) : Out :=
  s.act (fun b => b.issue c p (fun q => q.isOpen sb) (fun b => b.modSeq c (fun q => q.setTd td ((b.imageOf c).tdOf (q.sreg sb).toNat))))

/-- TVIEW (R277). -/
def execTview (c : CombId) (p : Pr) (td : TdReg) (src : TdReg) (mode : TviewMode) (s : State) : Out :=
  s.act (fun b => b.issue c p (fun q => match mode with | .range r _ => q.isOpen r | _ => false)
    (fun b => b.modSeq c (fun q => q.setTd td ((b.imageOf c).tview q (q.tdr src) mode))))

/-- TINFO (R277). -/
def execTinfo (c : CombId) (p : Pr) (sd : SReg) (td : TdReg) (sel : Fin 8) (s : State) : Out :=
  s.act (fun b => b.issue c p (fun q => q.pend sd)
    (fun b => b.modSeq c (fun q => q.setS sd (BitVec.ofNat 64 ((b.imageOf c).tinfo (q.tdr td) sel)))))

/-! ### Reading and writing views -/

/-- The working values of the unit that a descriptor's tensor belongs to. -/
def StepRun.unitRun (r : StepRun) (i : PartImage) (t : Nat) : TRun := r.trun (i.head t)

/-- The residual copy that region 0x2 reads: the current one while the tensor is idle, else the working one (R276). -/
def Block.copyRead (b : Block) (p : PartId) (r : StepRun) (t : Nat) : Bool :=
  let m := b.tmem p t
  if (r.unitRun (b.image p) t).st = .idle then m.cur1 else !m.cur1

/-- The sector of byte `off` of a copy that begins `shift` bytes into its item meets elements [base, base + n) of `w` bytes each. -/
def Td.meets (d : Td) (w shift off : Nat) : Bool :=
  decide (32 * ((shift + off) / 32) < shift + w * (d.base + d.n)) && decide (shift + w * d.base < 32 * ((shift + off) / 32) + 32)

/-- The view covers some element of block `k`. -/
def Td.hasBlock (d : Td) (k : Nat) : Bool := decide (256 * k < d.base + d.n) && decide (d.base < 256 * k + 256)

/-- A place in HBM that a read of the view touches (R276). -/
def Block.viewReads (b : Block) (p : PartId) (r : StepRun) (d : Td) (q : HKind × Nat) : Bool :=
  match q.1 with
  | .steep p' => d.region == 2 && p' == p && (match (b.part p).blockAt q.2 with
      | some (t, copy1, k) => t == d.tensor && copy1 == b.copyRead p r t && d.hasBlock k
      | none => false)
  | .poison p' t copy1 => d.region == 2 && p' == p && t == d.tensor && copy1 == b.copyRead p r t &&
      (poisonBlocks copy1 q.2 (blocksOf ((b.image p).entry t).n)).any d.hasBlock
  | .opcopy p' t => d.region == 3 && p' == p && t == d.tensor && d.meets 2 0 q.2
  | .warm p' t copy1 => d.region == 5 && p' == p && t == d.tensor && copy1 == (b.tmem p t).qCur1 &&
      d.meets 4 (copyShift copy1 (4 * ((b.image p).entry t).b * ((b.image p).entry t).rank)) q.2
  | _ => false

/-- The pages that a view of region 0x2 covers. -/
def Block.viewPages (b : Block) (p : PartId) (r : StepRun) (d : Td) : List PageKey :=
  if d.region = 2 then
    (List.range (ceilDiv (d.base + d.n) 4096 - d.base / 4096)).map (fun k => (d.tensor, b.copyRead p r d.tensor, d.base / 4096 + k))
  else []

/-- A reader of region 0x2 that waits takes what is in HBM and asks for the rest (R339). -/
def Block.askViews (b : Block) (p : PartId) (ds : List Td) : Block :=
  match b.run? p with
  | none => b
  | some r =>
    let ks := (ds.flatMap (fun d => if (r.unitRun (b.image p) d.tensor).left.isSome then [] else b.viewPages p r d)).filter (fun k => !r.seen.contains k)
    let away := ks.filter (fun k => (b.part p).away k)
    let b := b.modRun p (fun r => { r with 
      seen := r.seen ++ ks.filter (fun k => !away.contains k), wants := (r.wants ++ away).eraseDups })
    b.askPages p away

/-- A read of the view must wait for an earlier instruction of the step (R273, R276). -/
def Block.viewWaits (b : Block) (p : PartId) (r : StepRun) (d : Td) : Bool :=
  let t := r.unitRun (b.image p) d.tensor
  match d.region with
  | 1 => t.xissued && !t.delivered
  | 2 => t.left.isSome || (t.xissued && !t.residDone) ||
      (b.viewPages p r d).any (fun k => (b.part p).away k && !r.seen.contains k)
  | 3 => t.left.isSome
  | 6 => t.xissued && t.decoded.isNone
  | _ => false

/-- A write of the view must wait for stage 13 of an earlier XCHG (R273). -/
def Block.dstWaits (b : Block) (p : PartId) (r : StepRun) (d : Td) : Bool :=
  let t := r.unitRun (b.image p) d.tensor
  d.region == 1 && t.xissued && !t.delivered

/-- The port that a read of a slot is charged to. -/
def Block.slotPort (b : Block) (p : PartId) (t role : Nat) : PortId :=
  match b.slotOf p t role with
  | some s => (match b.ctx? s.ctx with | some c => c.port | none => 0)
  | none => 0

/-- The view reads client memory (R276): a slot whose role is enabled. -/
def PartImage.readsHost (i : PartImage) (d : Td) : Bool :=
  (d.region == 0 && (i.entry d.tensor).gRole) || (d.region == 1 && (i.entry d.tensor).rRole)

/-- The reads of an instruction's views happen (R276, R319, R401): what the errors do, and whether the step goes on. The abort that an error
causes outranks a lower one of the same KT (R248). -/
def Block.readAll (b : Block) (p : PartId) (r : StepRun) (ops : List (Td × HostRead)) (errs : List MemErr) : Block × Bool :=
  let i := b.image p
  let d := b.demand errs (fun q => ops.any (fun o => b.viewReads p r o.1 q))
  let ue (f : HKind → Bool) : Bool := d.2.any (fun q => f q.1)
  let b1 := d.2.foldl (fun b q => match q.1 with
    | .steep _ => (match (b.part p).blockAt q.2 with | some (t, copy1, k) => b.poisonBlock p t copy1 k | none => b)
    | .poison _ t copy1 => b.poisonSector p t copy1 q.2
    | _ => b) d.1
  let b1 := b1.modRun p (fun r => { r with wants := [], seen := [] })
  let lost (f : HKind → Bool) (bad : Td → Bool) : Bool := ue f || ops.any (fun o => bad o.1)
  let op := lost (fun k => match k with | .opcopy _ _ => true | _ => false) (fun d => d.region == 3 && (b.tmem p d.tensor).opBad)
  let q := lost (fun k => match k with | .warm _ _ _ => true | _ => false) (fun d => d.region == 5 && (b.tmem p d.tensor).qBad)
  let host := ops.find? (fun o => i.readsHost o.1 && o.2 == .failed)
  let b2 := if op then b1.originate p 0x0312 r.next else b1
  let b3 := if q then b2.originate p 0x0311 r.next else b2
  (match host with | some o => b3.hostReadFailed p (b3.slotPort p o.1.tensor o.1.region) | none => b3, !op && !q && host.isNone)

/-- A list brought to `n` elements with +0. -/
def padWords (n : Nat) (l : List Word) : List Word := l.take n ++ List.replicate (n - l.length) f32Zero

/-- A stored code widened exactly to F32 (R78). DESIGN CHOICE (log entry 85): an S8 code is the plain integer, where ORTH, the bias or the z of an MMA
reads an S8 result slot: Table: Conversions has no such row, R289 makes TCOPY retire, and R286 and R288 are silent. -/
def widenPlain (f : Fmt) (c : Nat) : Word := match f with | .s8 => f32OfScaled (signedOf 8 c) 0 | f => f32Of (operandCode f c)

/-- The elements of a view, widened to F32 (R276). -/
def Block.viewVals (b : Block) (m : Mem) (p : PartId) (r : StepRun) (d : Td) (rd : HostRead) : List Word :=
  let i := b.image p
  let e := i.entry d.tensor
  let slot (f : Fmt) : List Word := match rd with
    | .ok bs => (unpackCodes f.width (bs.take (d.n * f.bytes))).map (widenPlain f)
    | .failed => []
  let cut (l : List Word) : List Word := (l.drop d.base).take d.n
  padWords d.n (match d.region with
    | 0 => if e.gRole then slot e.gfmt else []
    | 1 => if e.rRole then slot e.rfmt else []
    | 2 =>
      let x := b.tmem p d.tensor
      let one := b.copyRead p r d.tensor
      let l := if one then x.copy1 else x.copy0
      let ps := x.poison one
      (List.range d.n).map (fun k => if ps.getD ((d.base + k) / 256) false then f32Zero else l.getD (d.base + k) f32Zero)
    | 3 => cut ((b.tmem p d.tensor).opcopy.map (widenPlain e.opfmt))
    | 4 => (List.range d.n).map (fun k => m.word (d.base + k))
    | 5 => cut (b.tmem p d.tensor).qCur
    | 6 =>
      let off := match (i.offsets (i.head d.tensor)).find? (fun q => q.1 == d.tensor) with | some q => q.2 | none => 0
      cut (((r.unitRun i d.tensor).decoded.getD []).drop off)
    | _ => [])

/-- The stored format of a view. -/
def Block.viewFmt (b : Block) (p : PartId) (d : Td) : Fmt := ((b.image p).entry d.tensor).regionFmt d.region

/-- A destination that an Infuser or copy instruction or XSTAT may write (R279, R283). -/
def Td.writable (d : Td) : Bool := d.region == 1 || d.region == 4

/-- Converted elements are written from element `o` of a view on: to the comb buffer, or to the result slot where there is one (R276, R283). -/
def Block.putConvs (b : Block) (m : Mem) (c : CombId) (p : PartId) (d : Td) (o : Nat) (cs : List Conv) : Block × Mem :=
  let b := b.count c (fun x => { x with qntSat := wrapAdd x.qntSat (cs.filter Conv.sat).length })
  let e := (b.image p).entry d.tensor
  if d.region = 4 then (b, m.setWords (d.base + o) (cs.map (fun x => BitVec.ofNat 32 x.code)))
  else if e.rRole then (b.resultWrite p d.tensor (d.base + o) (packCodes e.rfmt.width (cs.map Conv.code)), m)
  else (b, m)

/-- An instruction over the block and comb `c`'s buffer. -/
def State.actBuf (s : State) (c : CombId) (f : Block → Mem → Block × Mem) : Out :=
  s.actBufs (fun b ms => let r := f b ms[c]; (r.1, ms.set c r.2))

/-- The step that comb `c` runs, for an instruction's wait and effect. -/
def Block.onStep {α : Type} (b : Block) (c : CombId) (d : α) (f : PartId → StepRun → α) : α :=
  match b.stepOf c with | some (p, r) => f p r | none => d

/-! ### TCOPY and ORTH (R288, R289) -/

/-- A copy within the comb buffer, element by element in ascending order. -/
def copyAscending (m : Mem) (src dst : Nat) : Nat → Nat → Mem
  | 0, _ => m
  | n + 1, k => copyAscending (m.setWord (dst + k) (BitVec.ofNat 32 (toResult .f32 (f32Val (m.word (src + k)))).code)) src dst n (k + 1)

/-- TCOPY's effect (R289). -/
def Block.tcopy (b : Block) (m : Mem) (c : CombId) (p : PartId) (r : StepRun) (dst src : Td) (rd : HostRead) (errs : List MemErr) : Block × Mem :=
  let sf := b.viewFmt p src
  let df := b.viewFmt p dst
  if src.isNull ∨ !dst.writable ∨ (sf = .s8 ∧ df ≠ .s8) then (b, m)
  else
    let a := b.readAll p r [(src, rd)] errs
    if !a.2 then (a.1, m)
    else
      let n := Nat.min src.n dst.n
      if src.region = 4 ∧ dst.region = 4 then (a.1, copyAscending m src.base dst.base n 0)
      else
        let cs := ((a.1.viewVals m p r src rd).take n).map (fun x =>
          if sf = .s8 then ⟨((toIntCode 9 0 (f32Val x)).code) % 256, false⟩ else toResult df (f32Val x))
        a.1.putConvs m c p dst 0 cs

/-- ORTH's effect (R288). -/
def Block.orth (b : Block) (m : Mem) (c : CombId) (p : PartId) (r : StepRun) (dst src : Td) (rd : HostRead) (errs : List MemErr) : Block × Mem :=
  let rho := src.rowlen
  if src.isNull ∨ !dst.writable ∨ rho = 0 ∨ 64 < rho then (b, m)
  else
    let a := b.readAll p r [(src, rd)] errs
    if !a.2 then (a.1, m)
    else
      let rows := src.n / rho
      let out := orthogonalise rows rho ((a.1.viewVals m p r src rd).take (rows * rho))
      a.1.putConvs m c p dst 0 ((out.take dst.n).map (fun x => toResult (a.1.viewFmt p dst) (f32Val x)))

/-! ### MMA and MMAG (R282 to R286, R132 to R134) -/

/-- The format of the cvt field (R282). -/
def cvtFmt : Cvt → Fmt
  | .b16 => .b16 | .h16 => .h16 | .e4m3 => .e4m3 | .e5m2 => .e5m2

/-- Elements as they enter the array, and the saturations on the way (R282). -/
def enterVals (stored cvt : Fmt) (l : List Word) : List FVal × Nat :=
  if stored = .f32 then
    (l.map (operandVal cvt), (l.filter (fun x => (toResult cvt (f32Val x)).sat)).length)
  else (l.map f32Val, 0)

/-- The registers that an output configuration reads (R286): none of them waits for an SRED. -/
def cfgPend (o : OutCfg) (q : Seqr) : Bool :=
  (match o.scale with | some s => q.pend s | none => false) ||
  (match o.act with | .clamp lo => q.pend (Fin.ofNat 32 lo.val) || q.pend (Fin.ofNat 32 (lo.val + 1)) | _ => false)

/-- The scalars of an output configuration are capped (R264). -/
def OutSet.capped (o : OutSet) : Bool := o.scale.all (fun x => x.ex.isNone) && o.lo.ex.isNone && o.hi.ex.isNone

/-- An output configuration as an instruction issues with it. -/
def outSet (o : OutCfg) (q : Seqr) : OutSet :=
  { scale := o.scale.map (fun s => q.s[s]), bias := o.bias.map q.tdr
    ew := match o.ew with | .none => 0 | .add _ => 1 | .mul _ => 2
    z := match o.ew with | .none => none | .add z => some (q.tdr z) | .mul z => some (q.tdr z)
    act := match o.act with | .none => 0 | .clamp _ => 1 | .sign => 2 | .abs => 3
    lo := match o.act with | .clamp l => q.s[Fin.ofNat 32 l.val] | _ => .capped 0
    hi := match o.act with | .clamp l => q.s[Fin.ofNat 32 (l.val + 1)] | _ => .capped 0 }

/-- The views that a product reads, with their reads of client memory (R284, R286); the stream apart when its rows are taken as gathered. -/
def mmaOperands (o : OutSet) (stream weights : Td) (rd : MmaReads) (gathered : Bool) : List (Td × HostRead) :=
  (if gathered then [] else [(stream, rd.stream)]) ++ [(weights, rd.weights)] ++
  (match o.bias with | some t => [(t, rd.bias)] | none => []) ++ (match o.z with | some t => [(t, rd.z)] | none => [])

/-- The product takes the rows of its stream as they become available (R284, R285). -/
def Block.gathers (b : Block) (p : PartId) (r : StepRun) (stream : Td) : Bool := stream.region == 6 && (r.unitRun (b.image p) stream.tensor).xissued

/-- The instruction retires with no effect (R255, R283, R286). -/
def Block.mmaRetires (b : Block) (p : PartId) (dst stream weights : Td) (o : OutSet) : Bool :=
  stream.isNull || weights.isNull || !dst.writable ||
  (match o.bias with | some t => t.isNull | none => false) ||
  (match o.z with
   | some t => t.isNull || !((b.viewFmt p t) == .f32 || (b.viewFmt p t) == .b16 || (b.viewFmt p t) == .h16)
   | none => false)

/-- The activation of R286. -/
def actFun (act : Nat) (lo hi y : Word) : Word :=
  match act with | 1 => clampF32 lo hi y | 2 => signF32 y | 3 => absF32 y | _ => y

/-- Element `k` of the product, in column `j`, through the output stages (R120). -/
def GProd.finish (g : GProd) (out : Fmt) (k j : Nat) (y : Inf) : Conv :=
  let z := g.z.getD k f32Zero
  Fused.run { scale := g.scale, bias := g.bias[j]?, addZ := if g.ew = 1 then some z else none, mulZ := if g.ew = 2 then some z else none
              act := actFun g.act g.lo g.hi, out := out } y.code

/-- The kept outputs of row `r` from its input values (R284): converted elements and overflows (R119). DESIGN CHOICE (log entry 86): an output
element beyond the destination's n, which is not stored, is not formed and counts nothing in CMB_INF_OVF. -/
def GProd.row (g : GProd) (out : Fmt) (r : Nat) (v : List FVal) : List Conv × Nat :=
  let keep := Nat.min g.cols (g.dst.n - r * g.cols)
  let ys := (List.range keep).map (fun j => infuserDot v ((List.range g.inner).map (fun i => g.weights.getD (i * g.cols + j) (.fin false 0))))
  ((ys.zipIdx).map (fun q => g.finish out (r * g.cols + q.2) q.2 q.1), (ys.filter Inf.ovf).length)

/-- A row's outputs are written and counted. -/
def Block.putRow (b : Block) (m : Mem) (c : CombId) (p : PartId) (g : GProd) (r : Nat) (v : List FVal) : Block × Mem :=
  let o := g.row (b.viewFmt p g.dst) r v
  (b.count c (fun x => { x with infOvf := wrapAdd x.infOvf o.2 })).putConvs m c p g.dst (r * g.cols) o.1

/-- Saturations on entry are counted. -/
def Block.satIn (b : Block) (c : CombId) (n : Nat) : Block := b.count c (fun x => { x with qntSat := wrapAdd x.qntSat n })

/-- A product as an instruction configures it (R284, R286), its operands apart from the stream read, and the saturations of its weights. -/
def Block.product (b : Block) (m : Mem) (p : PartId) (r : StepRun) (dst stream weights : Td) (cvt : Fmt) (o : OutSet) (rd : MmaReads) :
    GProd × Nat :=
  let inner := if stream.rowlen = 0 then stream.n else stream.rowlen
  let cols := if weights.rowlen = 0 then weights.n else weights.rowlen
  let w := enterVals (b.viewFmt p weights) cvt ((b.viewVals m p r weights rd.weights).take (inner * cols))
  ({ dst := dst, stream := stream, cvt := cvt, rows := stream.n / inner, inner := inner, cols := cols, weights := w.1, scale := o.scale.map (fun x => low32 x.v)
     bias := match o.bias with | some t => padWords cols (b.viewVals m p r t rd.bias) | none => []
     ew := o.ew, z := match o.z with | some t => b.viewVals m p r t rd.z | none => []
     act := o.act, lo := low32 o.lo.v, hi := low32 o.hi.v, taken := [], early := [] }, w.2)

/-- The accumulators of the unit at a position of a reducing collective, once every contribution has been added here (R132): the collective
whose scales they have, and the opidx of their round while it is uncapped. -/
def StepRun.unitAcc (r : StepRun) (h pos : Nat) : Option (List Nat × RKind × List Nat) :=
  let t := r.trun h
  match t.sums.find? (fun s => s.kind == .main && decide (s.p0 ≤ pos) && decide (256 * (pos - s.p0) < s.acc.length)) with
  | some s => some (unitOf s.acc (pos - s.p0), .main, [])
  | none =>
    let cov := (coveredTiles (t.pred.getD []) (t.conf.getD [])).getD (pos / 16) false
    (r.rounds.find? (fun o => o.tensor == h && (o.st == .capped || o.st == .done) &&
      (o.kind == .main || (o.kind == .predicted && cov)) && decide (o.p0 ≤ pos) && decide (pos < o.p0 + o.u))).map
        (fun o => (unitOf o.cur (pos - o.p0), o.kind, if o.st = .done then [o.opidx] else []))

/-- The sum of the scales of a SIGN tensor, once complete, and its opidx while it is uncapped. -/
def StepRun.sigmaSoFar (r : StepRun) (h : Nat) : Option (Word × List Nat) :=
  (r.buzz.find? (fun o => match o.why with | .sigma t => t == h | _ => false)).bind (fun o =>
    if o.capped || o.complete then some (BitVec.ofNat 32 (o.cur.getD 0 0), if o.capped then [] else [o.opidx]) else none)

/-- The accumulators at a position of the predicted set before the set is confirmed, once every contribution has been added here (R132): they wait
for the confirmation too. -/
def StepRun.predAcc (r : StepRun) (h pos : Nat) : Option (List Nat × RKind × List Nat) :=
  (r.rounds.find? (fun o => o.tensor == h && (o.st == .capped || o.st == .done) && o.kind == .predicted && decide (o.p0 ≤ pos) &&
    decide (pos < o.p0 + o.u))).map (fun o => (unitOf o.cur (pos - o.p0), .predicted, [o.opidx]))

/-- The decoded group sum of flat block `k` of a unit, once it is available (R132), and what it still waits on to be capped. A block outside
the confirmed set is +0; until that set exists, only blocks of the predicted set can be available. -/
def Block.blockSum (b : Block) (p : PartId) (r : StepRun) (h k : Nat) : Option (List Word × List Nat) :=
  let e := (b.image p).entry h
  let t := r.trun h
  let decode (pos : Nat) (a : Option (List Nat × RKind × List Nat)) : Option (List Word × List Nat) :=
    match a with
    | none => none
    | some (acc, kind, uses) =>
      match t.te.find? (fun q => q.1 == kind) with
      | none => none
      | some te =>
        if e.method = .sign then (r.sigmaSoFar h).map (fun s => (signDecode r.members s.1 acc, uses ++ s.2))
        else some (acc.map (dequantSum e.xfmt (teAt e.xfmt te.2 pos).1 (teAt e.xfmt te.2 pos).2 e.x), uses)
  match t.decoded with
  | some l => some (unitOf l k, [])
  | none =>
    match e.method with
    | .dense | .sign => decode k (r.unitAcc h k)
    | .waggle =>
      match t.conf with
      | none => ((t.pred.getD []).findIdx? (· == k)).bind (fun pos => decode pos (r.predAcc h pos))
      | some conf => match conf.findIdx? (· == k) with | some pos => decode pos (r.unitAcc h pos) | none => some (zeroUnit, [])
    | _ => none

/-- The elements of row `row` of a stream of region 0x6, once every one is available (R132), and what they still wait on to be capped. -/
def Block.gatheredRow (b : Block) (p : PartId) (r : StepRun) (g : GProd) (row : Nat) : Option (List Word × List Nat) :=
  let i := b.image p
  let h := i.head g.stream.tensor
  let off := match (i.offsets h).find? (fun q => q.1 == g.stream.tensor) with | some q => q.2 | none => 0
  let a := off + g.stream.base + row * g.inner
  let k0 := a / 256
  let blocks := (List.range ((a + g.inner + 255) / 256 - k0)).map (fun k => b.blockSum p r h (k0 + k))
  if blocks.all Option.isSome then
    some (((blocks.flatMap (fun x => (x.getD ([], [])).1)).drop (a - 256 * k0)).take g.inner,
      (blocks.flatMap (fun x => (x.getD ([], [])).2)).eraseDups)
  else none

/-- A row taken on uncapped data (R54, R134): its outputs may stand in the comb buffer (R50), and the rest is held back with it. -/
def Block.earlyRow (b : Block) (m : Mem) (p : PartId) (g : GProd) (row : Nat) (v : List FVal × Nat) (uses : List Nat) : GProd × Mem :=
  let e := (b.image p).entry g.dst.tensor
  let o := g.row (b.viewFmt p g.dst) row v.1
  ({ g with
      taken := row :: g.taken
      early := { row := row, uses := uses, sat := v.2 + (o.1.filter Conv.sat).length, ovf := o.2
                 bytes := if g.dst.region ≠ 4 ∧ e.rRole = true then packCodes e.rfmt.width (o.1.map Conv.code) else [] } :: g.early },
   if g.dst.region = 4 then m.setWords (g.dst.base + row * g.cols) (o.1.map (fun x => BitVec.ofNat 32 x.code)) else m)

/-- GATHERED_ROW_TAKE (R133): the product takes an available row and writes its outputs; it ends once every row is taken and capped. -/
def Block.rowTake (b : Block) (m : Mem) (c : CombId) (p : PartId) (r : StepRun) (row : Nat) : Block × Mem :=
  match (b.comb c).prods with
  | [] => (b, m)
  | g :: gs =>
    if r.abort.isSome ∨ g.rows ≤ row ∨ g.taken.contains row then (b, m)
    else match b.gatheredRow p r g row with
      | none => (b, m)
      | some (l, uses) =>
        let v := enterVals .f32 g.cvt l
        if uses.isEmpty then
          let w := (b.satIn c v.2).putRow m c p g row v.1
          (w.1.modComb c (fun x => { x with prods := liveProds ({ g with taken := row :: g.taken } :: gs) }), w.2)
        else
          let w := b.earlyRow m p g row v uses
          (b.modComb c (fun x => { x with prods := w.1 :: gs }), w.2)

/-! ### XSTAT (R279) -/

/-- The collective whose sums the statistics are. -/
def TensorEntry.statsKind (e : TensorEntry) : RKind := if e.method = .lowrank then .factorQ else .main

/-- The elements below n of the unit at a position of the reduction: those of a bundle's gaps are +0 and count (R176, R253). -/
def PartImage.liveAt (i : PartImage) (h : Nat) (conf : List Nat) (pos : Nat) : Nat :=
  let e := i.entry h
  match e.method with
  | .lowrank => Nat.min 256 (e.b * e.rank - 256 * pos)
  | .waggle => Nat.min 256 (e.n - 256 * conf.getD pos 0)
  | _ => Nat.min 256 (i.total h - 256 * pos)

/-- Mean or variance of element `k` of the reduction's data: for WAGGLE element `k` of the tensor. -/
def Block.elemStat (b : Block) (p : PartId) (r : StepRun) (h : Nat) (var : Bool) (k : Nat) : Word :=
  let i := b.image p
  let e := i.entry h
  let t := r.trun h
  let te := lookupKind t.te e.statsKind []
  let at' (j : Nat) : Word :=
    let s := teAt e.xfmt te (j / 256)
    let q := (b.tmem p h).stats.getD j (0, 0)
    let x := elemStats s.1 (stepExp e.xfmt s.1 s.2) r.members q.1 q.2
    if var then x.2 else x.1
  match e.method with
  | .waggle => (match (t.conf.getD []).findIdx? (· == k / 256) with | some pos => at' (256 * pos + k % 256) | none => f32Zero)
  | .lowrank => if k < e.b * e.rank then at' k else Config.statBeyond (b.free + k)
  | _ => at' k

/-- Mean or variance of tile `u` of the reduction (R176). -/
def Block.tileStat (b : Block) (p : PartId) (r : StepRun) (h : Nat) (var : Bool) (u : Nat) : Word :=
  let i := b.image p
  let e := i.entry h
  let t := r.trun h
  let te := lookupKind t.te e.statsKind []
  let st := (b.tmem p h).stats
  let s := teAt e.xfmt te (16 * u)
  let els := (List.range 16).flatMap (fun j =>
    let pos := 16 * u + j
    if 256 * pos < st.length then
      (((st.drop (256 * pos)).take (i.liveAt h (t.conf.getD []) pos)).map (fun q => ((teAt e.xfmt te pos).2, q.1, q.2)))
    else [])
  let x := tileStats s.1 e.xfmt.isBx (stepExp e.xfmt s.1 0) r.members els
  if var then x.2 else x.1

/-- XSTAT executes (R279). -/
def Block.xstatRuns (b : Block) (p : PartId) (r : StepRun) (dst src : Td) : Bool :=
  !src.isNull && dst.writable && ((b.image p).entry src.tensor).stats && (r.unitRun (b.image p) src.tensor).xissued

/-- XSTAT's effect. -/
def Block.xstat (b : Block) (m : Mem) (c : CombId) (p : PartId) (r : StepRun) (dst src : Td) (mode : Nat) (errs : List MemErr) : Block × Mem :=
  if !b.xstatRuns p r dst src then (b, m)
  else
    let i := b.image p
    let h := i.head src.tensor
    let d := b.demand errs (fun q => match q.1 with | .stats p' t => p' == p && t == h | _ => false)
    if !d.2.isEmpty then (d.1.originate p 0x0312 r.next, m)
    else
      let off := match (i.offsets h).find? (fun q => q.1 == src.tensor) with | some q => q.2 | none => 0
      let l := if mode < 2 then
          (List.range (Nat.min src.n dst.n)).map (fun j => b.elemStat p r h (mode == 1) (off + src.base + j))
        else (List.range (Nat.min (ceilDiv (i.kindUnits h (i.entry h).statsKind) 16) dst.n)).map (fun u => b.tileStat p r h (mode == 3) u)
      ({ d.1 with free := d.1.free + off + src.base + src.n }).putConvs m c p dst 0 (l.map (fun x => toResult (b.viewFmt p dst) (f32Val x)))

/-! ### Issued operations (R259, R273, R274) -/

/-- The row of the product is available (R132). -/
def Block.rowsReady (b : Block) (p : PartId) (r : StepRun) (stream : Td) : Bool :=
  let inner := if stream.rowlen = 0 then stream.n else stream.rowlen
  let g : GProd := { dst := stream, stream := stream, cvt := .f32, rows := stream.n / inner, inner := inner, cols := 0, weights := [], scale := none
                     bias := [], ew := 0, z := [], act := 0, lo := 0, hi := 0, taken := [], early := [] }
  (List.range g.rows).all (fun k => (b.gatheredRow p r g k).isSome)

/-- MMA, or MMAG where `gathered` (R284, R285): over region 0x6 of an exchanged tensor the rows are taken as they become available, by MMA all
together. -/
def Block.mma (b : Block) (m : Mem) (c : CombId) (p : PartId) (r : StepRun) (dst stream weights : Td) (cvt : Fmt) (o : OutSet) (rd : MmaReads)
    (errs : List MemErr) (gathered : Bool) : Block × Mem :=
  if b.mmaRetires p dst stream weights o then (b, m)
  else
    let late := b.gathers p r stream
    let a := b.readAll p r (mmaOperands o stream weights rd late) errs
    if !a.2 then (a.1, m)
    else
      let g := a.1.product m p r dst stream weights cvt o rd
      let b := a.1.satIn c g.2
      if late then
        let b := if g.1.rows = 0 then b else b.modComb c (fun x => { x with prods := x.prods ++ [g.1] })
        if gathered then (b, m) else (List.range g.1.rows).foldl (fun st k => st.1.rowTake st.2 c p r k) (b, m)
      else
        let v := enterVals (b.viewFmt p stream) cvt ((b.viewVals m p r stream rd.stream).take (g.1.rows * g.1.inner))
        (List.range g.1.rows).foldl (fun st k => st.1.putRow st.2 c p g.1 k (matRow g.1.inner v.1 k)) (b.satIn c v.2, m)

/-- The views that an issued operation reads in HBM or client memory. -/
def Block.opViews (b : Block) (p : PartId) (r : StepRun) : InfOp → List Td
  | .copy _ src _ _ | .orth _ src _ _ => [src]
  | .mma _ stream weights _ o rd _ _ => (mmaOperands o stream weights rd (b.gathers p r stream)).map Prod.fst
  | .stat _ _ _ _ => []

/-- What an issued operation waits for before it runs (R264, R273, R274, R279, R283, R284): the operation before it, the elements that it reads,
its scalars to be capped, the earlier writes of those that it writes. -/
def Block.opWaits (b : Block) (c : CombId) (p : PartId) (r : StepRun) (x : InfOp) : Bool :=
  !(b.comb c).prods.isEmpty || (b.opViews p r x).any (b.viewWaits p r) ||
  (match x with
   | .copy dst _ _ _ | .orth dst _ _ _ => b.dstWaits p r dst
   | .mma dst stream _ _ o _ _ gathered => !o.capped || b.dstWaits p r dst || (!gathered && b.gathers p r stream && !b.rowsReady p r stream)
   | .stat dst src _ _ => b.xstatRuns p r dst src && ((r.unitRun (b.image p) src.tensor).decoded.isNone || b.dstWaits p r dst))

/-- An issued operation runs. -/
def Block.runOp (b : Block) (m : Mem) (c : CombId) (p : PartId) (r : StepRun) : InfOp → Block × Mem
  | .copy dst src rd errs => b.tcopy m c p r dst src rd errs
  | .orth dst src rd errs => b.orth m c p r dst src rd errs
  | .mma dst stream weights cvt o rd errs gathered => b.mma m c p r dst stream weights cvt o rd errs gathered
  | .stat dst src mode errs => b.xstat m c p r dst src mode errs

/-- Issued operations of comb `c` run in program order, as far as they can; `fuel` bounds them. One that waits for pages asks for them (R339). -/
def Block.runOps (c : CombId) : Nat → Block × Mem → Block × Mem
  | 0, w => w
  | n + 1, w =>
    match (w.1.comb c).ops with
    | [] => w
    | x :: rest =>
      w.1.onStep c w (fun p r =>
        if r.abort.isSome then w
        else if w.1.opWaits c p r x then (w.1.askViews p (w.1.opViews p r x), w.2)
        else Block.runOps c n ((w.1.modComb c (fun y => { y with ops := rest })).runOp w.2 c p r x))

/-- What may have become possible is done: the issued operations of the comb that runs the partition's step go on. -/
def State.goOps (s : State) (p : PartId) (f : Block → Block) : Out :=
  s.actBufs (fun b ms =>
    let b := f b
    match b.run? p with
    | none => (b, ms)
    | some r => let w := Block.runOps r.comb (b.comb r.comb).ops.length (b, ms[r.comb]); (w.1, ms.set r.comb w.2))

/-- An XSTAT, not an Infuser operation. -/
def InfOp.isStat : InfOp → Bool | .stat _ _ _ _ => true | _ => false

/-- STEEPs and XCHGs that have issued and not finished (R274). -/
def StepRun.exchanging (r : StepRun) : Nat :=
  (r.runs.map (fun t => b2n (t.left.isSome && t.bySteep) + b2n (t.xissued && !(t.delivered && t.residDone)))).foldl (· + ·) 0

/-- The exchange controller holds 16 issued and unfinished instructions (R274). -/
def Block.ctlFull (b : Block) (c : CombId) : Bool :=
  b.onStep c true (fun _ r => decide (16 ≤ r.exchanging + ((b.comb c).ops.filter InfOp.isStat).length))
/-- The Infuser holds 4 issued operations (R274). -/
def Block.infFull (b : Block) (c : CombId) : Bool :=
  decide (4 ≤ ((b.comb c).ops.filter (fun x => !x.isStat)).length + (b.comb c).prods.length)

/-- An operation names the unit, outside the comb buffer: a STEEP or XCHG of the unit waits for it (R273). -/
def Block.opsOn (b : Block) (c : CombId) (p : PartId) (h : Nat) : Bool :=
  (b.comb c).ops.any (fun x =>
    (match x with
     | .copy dst src _ _ | .orth dst src _ _ | .stat dst src _ _ => [dst, src]
     | .mma dst stream weights _ o rd _ _ => dst :: (mmaOperands o stream weights rd false).map Prod.fst).any
      (fun d => d.region != 4 && !d.isNull && (b.image p).head d.tensor == h))

/-- The issue of an operation: as `Block.issue`; it runs at once where it can, else it is held in program order. -/
def Block.issueOp (b : Block) (m : Mem) (c : CombId) (p : Pr) (wait : Seqr → Bool) (op : Seqr → InfOp) : Block × Mem :=
  if !b.mayTake c p then (b, m)
  else if !(b.seq c).takes p then (b.modIssue c Seqr.next, m)
  else if wait (b.seq c) then (b, m)
  else b.onStep c (b, m) (fun pt r =>
    let x := op (b.seq c)
    if (b.comb c).ops.isEmpty && !b.opWaits c pt r x then
      let w := b.runOp m c pt r x
      (w.1.modIssue c Seqr.next, w.2)
    else
      (((b.askViews pt (b.opViews pt r x)).modComb c (fun y => { y with ops := y.ops ++ [x] })).modIssue c Seqr.next, m))

/-- TCOPY. -/
def execTcopy (c : CombId) (p : Pr) (dst : TdReg) (src : TdReg) (rd : HostRead) (errs : List MemErr) (s : State) : Out :=
  s.actBuf c (fun b m => b.issueOp m c p (fun _ => b.infFull c) (fun q => .copy (q.tdr dst) (q.tdr src) rd errs))

/-- ORTH. -/
def execOrth (c : CombId) (p : Pr) (dst : TdReg) (src : TdReg) (rd : HostRead) (errs : List MemErr) (s : State) : Out :=
  s.actBuf c (fun b m => b.issueOp m c p (fun _ => b.infFull c) (fun q => .orth (q.tdr dst) (q.tdr src) rd errs))

/-- MMA. -/
def execMma (c : CombId) (p : Pr) (dst : TdReg) (stream : TdReg) (weights : TdReg) (cvt : Cvt) (cfg : OutCfg) (rd : MmaReads)
    (errs : List MemErr) (s : State) : Out :=
  s.actBuf c (fun b m => b.issueOp m c p (fun q => cfgPend cfg q || b.infFull c)
    (fun q => .mma (q.tdr dst) (q.tdr stream) (q.tdr weights) (cvtFmt cvt) (outSet cfg q) rd errs false))

/-- MMAG. -/
def execMmag (c : CombId) (p : Pr) (dst : TdReg) (stream : TdReg) (weights : TdReg) (cvt : Cvt) (cfg : OutCfg) (rd : MmaReads)
    (errs : List MemErr) (s : State) : Out :=
  s.actBuf c (fun b m => b.issueOp m c p (fun q => cfgPend cfg q || b.infFull c)
    (fun q => .mma (q.tdr dst) (q.tdr stream) (q.tdr weights) (cvtFmt cvt) (outSet cfg q) rd errs true))

/-- XSTAT: it waits for the capped sums. -/
def execXstat (c : CombId) (p : Pr) (dst : TdReg) (src : TdReg) (mode : Fin 4) (errs : List MemErr) (s : State) : Out :=
  s.actBuf c (fun b m => b.issueOp m c p (fun _ => b.ctlFull c) (fun q => .stat (q.tdr dst) (q.tdr src) mode errs))

/-- GATHERED_ROW_TAKE: with the last row of a product, the operations behind it go on. -/
def execGatheredRowTake (c : CombId) (row : Nat) (s : State) : Out :=
  s.actBuf c (fun b m => b.onStep c (b, m) (fun p r => Block.runOps c (b.comb c).ops.length (b.rowTake m c p r row)))

/-! ### Exchange (R260, R262, R278) -/

/-- STEEP and XCHG wait at issue while the exchange controller is full, or an operation that has still to run names the unit (R273, R274). -/
def Block.ctlWaits (b : Block) (c : CombId) (d : Td) : Bool :=
  b.ctlFull c || b.onStep c true (fun p _ => !d.isNull && b.opsOn c p ((b.image p).head d.tensor))

/-- STEEP's effect (R260). -/
def Block.steep (b : Block) (p : PartId) (h : Nat) (g : List HostRead) (errs : List MemErr) : Block :=
  match b.run? p with
  | none => b
  | some r => if (r.trun h).st = .idle then b.steepStart p h g errs else b

/-- STEEP on its own: the stage 1 that it runs is an instruction that has not finished (R274). -/
def Block.steepAlone (b : Block) (p : PartId) (h : Nat) (g : List HostRead) (errs : List MemErr) : Block :=
  match b.run? p with
  | none => b
  | some r => if (r.trun h).st = .idle then (b.steep p h g errs).modT p h (fun t => { t with bySteep := true }) else b

/-- STEEP. -/
def execSteep (c : CombId) (p : Pr) (td : TdReg) (g : List HostRead) (errs : List MemErr) (s : State) : Out :=
  s.act (fun b => b.issue c p (fun q => b.ctlWaits c (q.tdr td)) (fun b => b.onStep c b (fun p _ =>
    let d := (b.seq c).tdr td
    if d.isNull then b else b.steepAlone p ((b.image p).head d.tensor) g errs)))

/-- XCHG's effect (R260, R262): the tensor joins the launches of the step. -/
def Block.xchg (b : Block) (p : PartId) (h : Nat) (g : List HostRead) (errs : List MemErr) : Block :=
  match b.run? p with
  | none => b
  | some r =>
    if (r.trun h).st = .exchanged then b
    else
      let b := b.steep p h g errs
      match b.run? p with
      | none => b
      | some r =>
        if r.abort.isSome then b
        else
          let x := b.tmem p h
          let d := b.demand errs (fun q => match q.1 with
            | .index p' t copy1 => p' == p && t == h && copy1 == x.idxCur1 && x.idxCur.isSome
            | .warm p' t copy1 => p' == p && t == h && copy1 == x.qCur1
            | .opcopy p' t => p' == p && t == h
            | _ => false)
          let b := d.2.foldl (fun b q => match q.1 with
            | .index _ _ _ => b.modT p h (fun t => { t with idxLost := true })
            | .warm _ _ _ => b.modT p h (fun t => { t with qLost := true })
            | _ => b.modTMem p h (fun x => { x with opBad := true })) d.1
          (b.modRun p (fun r => { r.modT h (fun t => { t with st := .exchanged, xissued := true }) with
            launches := r.launches ++ [.tensor h] })).drive p

/-- XCHG. -/
def execXchg (c : CombId) (p : Pr) (td : TdReg) (g : List HostRead) (errs : List MemErr) (s : State) : Out :=
  s.act (fun b => b.issue c p (fun q => b.ctlWaits c (q.tdr td)) (fun b => b.onStep c b (fun p _ =>
    let d := (b.seq c).tdr td
    if d.isNull then b else b.xchg p ((b.image p).head d.tensor) g errs)))

/-! ### SCORE, BSEL and CBQ (R280, R281) -/

/-- The tensor's waggle phase can be read back at block `k` (R280). -/
def Block.waggleHas (b : Block) (p : PartId) (r : StepRun) (d : Td) (k : Nat) : Bool :=
  let e := (b.image p).entry d.tensor
  !d.isNull && e.method == .waggle && (r.unitRun (b.image p) d.tensor).xissued && decide (k < blocksOf e.n)

/-- SCORE and BSEL wait for the group scores and the confirmed set. -/
def Block.waggleWaits (b : Block) (c : CombId) (d : Td) (k : Nat) : Bool :=
  b.onStep c true (fun p r => b.waggleHas p r d k && (r.unitRun (b.image p) d.tensor).conf.isNone)

/-- SCORE: the group score of block S[sb]. -/
def execScore (c : CombId) (p : Pr) (sd : SReg) (td : TdReg) (sb : SReg) (s : State) : Out :=
  s.act (fun b => b.issue c p (fun q => q.isOpen sb || q.pend sd || b.waggleWaits c (q.tdr td) (q.sreg sb).toNat)
    (fun b => b.onStep c b (fun p r => b.modSeq c (fun q =>
      let k := (q.sreg sb).toNat
      if (q.tdr td).isNull then q
      else q.setS sd (if b.waggleHas p r (q.tdr td) k then
        BitVec.ofNat 64 ((r.unitRun (b.image p) (q.tdr td).tensor).group.getD k 0) else 0)))))

/-- BSEL: block S[sb] lies in the confirmed set. -/
def execBsel (c : CombId) (p : Pr) (qd : QReg) (td : TdReg) (sb : SReg) (s : State) : Out :=
  s.act (fun b => b.issue c p (fun q => q.isOpen sb || b.waggleWaits c (q.tdr td) (q.sreg sb).toNat)
    (fun b => b.onStep c b (fun p r => b.modSeq c (fun q =>
      let k := (q.sreg sb).toNat
      if (q.tdr td).isNull then q
      else q.setQ qd (b.waggleHas p r (q.tdr td) k && ((r.unitRun (b.image p) (q.tdr td).tensor).conf.getD []).contains k) none))))

/-- CBQ can search (R281). -/
def Block.cbqRuns (b : Block) (p : PartId) (r : StepRun) (d : Td) (k : Nat) : Bool :=
  let i := b.image p
  let h := i.head d.tensor
  (i.entry h).method == .codebook && (r.trun h).st != .idle && decide (k < i.kindUnits h .gather) && (b.part p).cb.st == .accepted

/-- CBQ's effect: one search, and what it excludes. -/
def Block.cbq (b : Block) (c : CombId) (p : PartId) (r : StepRun) (d : Td) (sd : SReg) (k : Nat) (errs : List MemErr) : Block :=
  if d.isNull then b
  else if !b.cbqRuns p r d k then b.modSeq c (fun q => q.setS sd (BitVec.ofNat 64 (2 ^ 64 - 1)))
  else
    let i := b.image p
    let h := i.head d.tensor
    let e := i.entry h
    let xs := ((i.below h (r.trun h).w).drop (128 * k)).take 128
    let a := b.cbSearch p errs e.beam e.iters [patternOf xs]
    let f := a.2.headD (0, [])
    let b := a.1.count c (fun x => { x with excluded := wrapAdd x.excluded f.2.length })
    let b := b.modRun p (fun r => { r with count := { r.count with searches := r.count.searches + 1 } })
    b.modSeq c (fun q => q.setS sd (BitVec.ofNat 64 f.1))

/-- CBQ waits at issue: for its registers, for w, for the digest agreement where the tensor's exchange has launched one or will (R142), and while
the exchange controller is full (R274). DESIGN CHOICE (log entry 79): the CBQ of a tensor that is steeped only, whose step may run no agreement
at all, waits for none. -/
def Block.cbqWaits (b : Block) (c : CombId) (q : Seqr) (sd sb : SReg) (d : Td) : Bool :=
  q.isOpen sb || q.pend sd || b.ctlFull c ||
  b.onStep c true (fun p r =>
    let t := r.unitRun (b.image p) d.tensor
    t.left.isSome || (!d.isNull && ((b.image p).entry ((b.image p).head d.tensor)).method == .codebook && t.xissued && decide (t.stage < 2)))

/-- CBQ. -/
def execCbq (c : CombId) (p : Pr) (sd : SReg) (td : TdReg) (sb : SReg) (errs : List MemErr) (s : State) : Out :=
  s.act (fun b => b.issue c p
    (fun q => b.cbqWaits c q sd sb (q.tdr td))
    (fun b => b.onStep c b (fun p r => b.cbq c p r ((b.seq c).tdr td) sd ((b.seq c).sreg sb).toNat errs)))

/-! ### Collectives and results (R292 to R294) -/

/-- A launching instruction joins the launches of the step (R259). -/
def Block.launch (b : Block) (p : PartId) (l : Launch) : Block := (b.modRun p (fun r => { r with launches := r.launches ++ [l] })).drive p

/-- BARR: a buzz barrier, at which issue stops until it has completed (R292). -/
def execBarr (c : CombId) (p : Pr) (s : State) : Out :=
  s.act (fun b => b.issue c p (fun _ => false) (fun b => b.onStep c b (fun p _ => b.launch p (.barrier c))))

/-- The buzz operation of SRED's operator (R293). -/
def redCode : RedOp → Nat
  | .sumW32 => 2 | .sumW64 => 3 | .sumF32 => 4 | .max8 => 5 | .max16 => 6 | .max32 => 7 | .max64 => 8
/-- The operand width of SRED's operator (R293). -/
def redWidth : RedOp → Nat
  | .sumW32 => 32 | .sumW64 => 64 | .sumF32 => 32 | .max8 => 8 | .max16 => 16 | .max32 => 32 | .max64 => 64

/-- Registers `a`, `a` + 1, … of an SRED. -/
def sregs (a : SReg) (n : Nat) : List SReg := (List.range n).map (fun k => Fin.ofNat 32 (a.val + k))

/-- The destinations of an SRED wait for its results. -/
def Seqr.markPend (q : Seqr) (rs : List SReg) : Seqr := rs.foldl (fun (q : Seqr) (r : SReg) => { q with s := q.s.set r ⟨q.sreg r, true, none⟩ }) q

/-- SRED: a buzz reduction of `countM1` + 1 operands, bits [w − 1:0] of their registers (R293). -/
def execSred (c : CombId) (p : Pr) (sd : SReg) (sa : SReg) (op : RedOp) (countM1 : Fin 8) (s : State) : Out :=
  s.act (fun b => b.issue c p (fun q => (sregs sa (countM1.val + 1) ++ sregs sd (countM1.val + 1)).any q.pend)
    (fun b => b.onStep c b (fun p _ =>
      let vs := (sregs sa (countM1.val + 1)).map (fun r => (b.seq c).s[r])
      (b.modSeq c (fun q => q.markPend (sregs sd (countM1.val + 1)))).launch p (.sred c sd (redCode op) (redWidth op) vs))))

/-- SOUT: a scalar result of the step, once it is capped (R294). -/
def execSout (c : CombId) (p : Pr) (sa : SReg) (idx : Fin 64) (s : State) : Out :=
  s.act (fun b => b.issue c p (fun q => q.isOpen sa)
    (fun b => b.onStep c b (fun p _ => b.modRun p (fun r => { r with scalars := (idx.val, (b.seq c).sreg sa) :: r.scalars }))))

/-- FENCE (R261, R275): the step ends once everything has finished. -/
def execFence (c : CombId) (s : State) : Out :=
  s.act (fun b => if b.mayIssue c then b.onStep c b (fun p r => if b.fenceReady r then b.fenceGo p r else b) else b)

end Sys2Proof.Machine
end

