-- ==== Sys2Proof/Machine/BrewWord.lean ====
section
/-! DEFINITION. Brew instruction words (R269 to R272) and the checks that image verification makes of a program (R267). -/

namespace Sys2Proof.Machine
open Sys2Proof

/-- The fields of an instruction word (R269). -/
structure BrewWord where
  op : Nat
  neg : Nat
  q : Nat
  ra : Nat
  rb : Nat
  rc : Nat
  mod : Nat
  imm : Nat
deriving DecidableEq, Repr

/-- The fields of a word (R269). -/
def BrewWord.ofBits (w : DWord) : BrewWord :=
  let n := w.toNat
  ⟨bitsOf n 63 56, bitsOf n 55 55, bitsOf n 54 52, bitsOf n 51 46, bitsOf n 45 40, bitsOf n 39 34, bitsOf n 33 32, bitsOf n 31 0⟩

/-- The word of the fields (R269). -/
def BrewWord.toBits (f : BrewWord) : DWord :=
  BitVec.ofNat 64 (f.op * 2 ^ 56 + f.neg * 2 ^ 55 + f.q * 2 ^ 52 + f.ra * 2 ^ 46 + f.rb * 2 ^ 40 + f.rc * 2 ^ 34 + f.mod * 2 ^ 32 + f.imm)

/-- Kinds of register field (R271). -/
inductive RegKind where
  | none | td | s | q | l
deriving DecidableEq, Repr

/-- The registers of a kind. -/
def RegKind.count : RegKind → Nat
  | .none => 0 | .td => 64 | .s => 32 | .q => 8 | .l => 4

/-- The three register fields of a word, as its opcode and mod give them (R272). -/
def BrewWord.regs (f : BrewWord) : RegKind × RegKind × RegKind :=
  let o := f.op
  if o = 0x03 then (.l, .none, .none)
  else if o = 0x04 then (.l, if f.mod = 1 then .s else .none, .none)
  else if o = 0x10 then (.td, .none, .none)
  else if o = 0x11 then (.td, .s, .none)
  else if o = 0x12 then (.td, .td, if f.mod = 0 then .s else .none)
  else if o = 0x13 then (.s, .td, .none)
  else if o = 0x14 ∨ o = 0x22 ∨ o = 0x32 then (.td, .td, .none)
  else if o = 0x20 ∨ o = 0x21 then (.none, .td, .none)
  else if o = 0x23 ∨ o = 0x25 then (.s, .td, .s)
  else if o = 0x24 then (.q, .td, .s)
  else if o = 0x30 ∨ o = 0x31 then (.td, .td, .td)
  else if o = 0x40 ∨ o = 0x41 then (.s, .none, .none)
  else if o = 0x42 ∨ (0x56 ≤ o ∧ o ≤ 0x58) then (.s, .s, .none)
  else if (0x43 ≤ o ∧ o ≤ 0x4C) ∨ (0x50 ≤ o ∧ o ≤ 0x55) then (.s, .s, if f.mod % 2 = 0 then .s else .none)
  else if o = 0x5C then (.q, .s, .s)
  else if o = 0x5D then (.q, .q, .q)
  else if o = 0x61 then (.s, .s, .none)
  else if o = 0x62 then (.none, .s, .none)
  else (.none, .none, .none)

/-- The opcode is in the map (R272). -/
def opDefined (o : Nat) : Bool :=
  decide (o ≤ 0x05) || (decide (0x10 ≤ o) && decide (o ≤ 0x14)) || (decide (0x20 ≤ o) && decide (o ≤ 0x25)) ||
  (decide (0x30 ≤ o) && decide (o ≤ 0x32)) || (decide (0x40 ≤ o) && decide (o ≤ 0x4C)) || (decide (0x50 ≤ o) && decide (o ≤ 0x58)) ||
  o == 0x5C || o == 0x5D || (decide (0x60 ≤ o) && decide (o ≤ 0x62))

/-- The output configuration of MMA and MMAG meets R286. -/
def outCfgOk (i : Nat) : Bool :=
  (bitAt i 31 || bitsOf i 30 26 == 0) && (bitAt i 25 || bitsOf i 24 19 == 0) && bitsOf i 18 17 != 3 &&
  (bitsOf i 18 17 != 0 || bitsOf i 16 11 == 0) && (bitsOf i 10 9 == 1 || bitsOf i 8 4 == 0) && decide (bitsOf i 8 4 ≤ 30) &&
  bitsOf i 3 0 == 0

/-- The mod and imm fields hold values that the opcode defines, unused bits 0 (R271 to R293). -/
def BrewWord.immOk (f : BrewWord) : Bool :=
  let o := f.op
  let i := f.imm
  if o = 0x02 ∨ o = 0x03 then f.mod == 0 && decide (i < 2 ^ 15)
  else if o = 0x04 then (f.mod == 0) || (f.mod == 1 && i == 0)
  else if o = 0x05 then f.mod == 0 && decide (i < 64)
  else if o = 0x10 then f.mod == 0 && decide (i < 2 ^ 16)
  else if o = 0x12 then f.mod == 0 || (f.mod == 1 && decide (i < 2 ^ 16)) || (f.mod == 2 && decide (i < 16))
  else if o = 0x13 then f.mod == 0 && decide (i < 8)
  else if o = 0x22 then i == 0
  else if o = 0x30 ∨ o = 0x31 then outCfgOk i
  else if o = 0x40 ∨ o = 0x41 then f.mod == 0
  else if (0x43 ≤ o ∧ o ≤ 0x4C) ∨ (0x50 ≤ o ∧ o ≤ 0x55) then f.mod == 1 || (f.mod == 0 && i == 0)
  else if o = 0x5C then f.mod == 0 && decide (i < 8)
  else if o = 0x5D then f.mod == 0 && decide (i < 16)
  else if o = 0x61 then
    f.mod == 0 && decide (i < 2 ^ 12) && bitsOf i 7 3 == 0 && bitsOf i 2 0 != 7 && decide (1 ≤ bitsOf i 11 8) && decide (bitsOf i 11 8 ≤ 8)
  else if o = 0x62 then f.mod == 0 && decide (i < 64)
  else f.mod == 0 && i == 0

/-- Check 2 of R267. -/
def BrewWord.check2 (f : BrewWord) : Bool :=
  let r := f.regs
  opDefined f.op && f.immOk && (r.1 != .none || f.ra == 0) && (r.2.1 != .none || f.rb == 0) && (r.2.2 != .none || f.rc == 0) &&
  ((f.op != 0x01 && f.op != 0x03) || (f.neg == 0 && f.q == 0))

/-- A register field is in range (R271). -/
def regOk (k : RegKind) (n : Nat) : Bool := k == .none || decide (n < k.count)

/-- Check 3 of R267: registers in range, SRED's ranges included (R293), and TLD below the tensor count. -/
def BrewWord.check3 (f : BrewWord) (tensors : Nat) : Bool :=
  let r := f.regs
  regOk r.1 f.ra && regOk r.2.1 f.rb && regOk r.2.2 f.rc &&
  (f.op != 0x61 || (decide (f.ra + bitsOf f.imm 11 8 ≤ 32) && decide (f.rb + bitsOf f.imm 11 8 ≤ 32))) &&
  (f.op != 0x10 || decide (f.imm < tensors))

/-- Check 4 of R267. -/
def BrewWord.check4 (f : BrewWord) (len i : Nat) : Bool :=
  (f.op != 0x02 || (decide (i < f.imm) && decide (f.imm < len))) && (f.op != 0x03 || decide (f.imm ≤ i))

/-- The loops of a program: target, own index, counter. -/
def loopsOf (p : List BrewWord) : List (Nat × Nat × Nat) :=
  (p.zipIdx.filter (fun q => q.1.op == 0x03)).map (fun q => (q.1.imm, q.2, q.1.ra))

/-- Word `i` breaks check 5 of R267: it writes the counter of a body it lies in, its LOOP's body crosses another, or it lies in more than
four bodies. -/
def breaks5 (ls : List (Nat × Nat × Nat)) (i : Nat) (f : BrewWord) : Bool :=
  ls.any (fun a => decide (a.1 ≤ i) && decide (i < a.2.1) && (f.op == 0x03 || f.op == 0x04) && f.ra == a.2.2) ||
  (f.op == 0x03 && ls.any (fun a => decide (a.1 < f.imm) && decide (f.imm ≤ a.2.1) && decide (a.2.1 < i))) ||
  decide (4 < (ls.filter (fun a => decide (a.1 ≤ i) && decide (i ≤ a.2.1))).length)

/-- Never executes: Q0 negated (R270). -/
def BrewWord.never (f : BrewWord) : Bool := f.q == 0 && f.neg == 1
/-- Always executes (R270). -/
def BrewWord.always (f : BrewWord) : Bool := f.q == 0 && f.neg == 0

/-- The forward edges that one word leaves: its branch target if it may branch, and whether control may fall through. -/
def BrewWord.exits (f : BrewWord) : Option Nat × Bool :=
  if f.op = 0x01 then (none, false)
  else if f.op = 0x02 then (if f.never then none else some f.imm, !f.always)
  else (none, true)

/-- Check 6 of R267, walked in index order with the branch targets met so far: every path ends in FENCE within the program. LOOPs
end, so only falling off the end fails. -/
def check6Aux : List BrewWord → Nat → Bool → List Nat → Bool
  | [], _, live, _ => !live
  | f :: t, i, live, ahead =>
    let here := live || ahead.contains i
    let e := f.exits
    check6Aux t (i + 1) (here && e.2) (match e.1 with | some k => if here then k :: ahead else ahead | none => ahead)
/-- Check 6 of R267. -/
def check6 (p : List BrewWord) : Bool := check6Aux p 0 true []

/-! Check 7: a set of local registers is one number: S at bits 0 to 31, Q at 32 to 39, L at 40 to 43, TD at 44 to 107. -/

/-- Bit numbers of the registers. -/
def bitS (r : Nat) : Nat := r % 32
def bitQ (r : Nat) : Nat := 32 + r % 8
def bitL (r : Nat) : Nat := 40 + r % 4
def bitTd (r : Nat) : Nat := 44 + r % 64

/-- The predicate is local. -/
def BrewWord.localPred (f : BrewWord) (m : Nat) : Bool := f.q != 0 && bitAt m (bitQ f.q)

/-- A destination's locality (R257): a predicated write may also leave the old value. -/
def BrewWord.put (f : BrewWord) (m k : Nat) (new : Bool) : Nat :=
  let v := new || f.localPred m || (f.q != 0 && bitAt m k)
  if v then m ||| 2 ^ k else m - (if bitAt m k then 2 ^ k else 0)

/-- The local registers after a word (R257, R277, R280, R281, R290, R293). -/
def BrewWord.transfer (f : BrewWord) (m : Nat) : Nat :=
  let o := f.op
  let s (r : Nat) : Bool := bitAt m (bitS r)
  let t (r : Nat) : Bool := bitAt m (bitTd r)
  if f.never then m
  else if o = 0x04 then f.put m (bitL f.ra) (f.mod == 1 && s f.rb)
  else if o = 0x10 then f.put m (bitTd f.ra) false
  else if o = 0x11 then f.put m (bitTd f.ra) (s f.rb)
  else if o = 0x12 then f.put m (bitTd f.ra) (t f.rb || (f.mod == 0 && s f.rc))
  else if o = 0x13 then f.put m (bitS f.ra) (t f.rb)
  else if o = 0x23 then f.put m (bitS f.ra) (s f.rc || t f.rb)
  else if o = 0x24 then f.put m (bitQ f.ra) (s f.rc || t f.rb)
  else if o = 0x25 then f.put m (bitS f.ra) true
  else if o = 0x40 then f.put m (bitS f.ra) false
  else if o = 0x41 then f.put m (bitS f.ra) (s f.ra)
  else if o = 0x42 ∨ (0x56 ≤ o ∧ o ≤ 0x58) then f.put m (bitS f.ra) (s f.rb)
  else if (0x43 ≤ o ∧ o ≤ 0x4C) ∨ (0x50 ≤ o ∧ o ≤ 0x55) then f.put m (bitS f.ra) (s f.rb || (f.mod == 0 && s f.rc))
  else if o = 0x5C then f.put m (bitQ f.ra) (s f.rb || s f.rc)
  else if o = 0x5D then f.put m (bitQ f.ra) (bitAt m (bitQ f.rb) || bitAt m (bitQ f.rc))
  else if o = 0x61 then (List.range (bitsOf f.imm 11 8)).foldl (fun m k => f.put m (bitS (f.ra + k)) false) m
  else m

/-- A word that check 7 forbids at local registers `m` (R267): a local branch condition, predicate of a launching instruction, loop
count, TLDX index or descriptor of STEEP or XCHG. -/
def BrewWord.localUse (f : BrewWord) (m : Nat) : Bool :=
  let o := f.op
  ((o == 0x02 || o == 0x20 || o == 0x21 || o == 0x60 || o == 0x61) && f.localPred m) ||
  ((o == 0x20 || o == 0x21) && bitAt m (bitTd f.rb)) ||
  (o == 0x04 && f.mod == 1 && bitAt m (bitS f.rb)) || (o == 0x03 && bitAt m (bitL f.ra)) ||
  (o == 0x11 && bitAt m (bitS f.rb))

/-- One pass in index order: the set on entry to each reachable word, with the sets that LOOPs brought back in the pass before.
Answers the first word that is a forbidden use, and the sets that this pass brings back. -/
def flowPass : List BrewWord → Nat → Option Nat → List (Nat × Nat) → List (Nat × Nat) → List (Nat × Nat) → Option Nat →
    Option Nat × List (Nat × Nat)
  | [], _, _, _, _, back', bad => (bad, back')
  | f :: t, i, cur, ahead, back, back', bad =>
    let ins := (match cur with | some m => [m] | none => []) ++
      ((ahead ++ back).filter (fun q => q.1 == i)).map Prod.snd
    match ins with
    | [] => flowPass t (i + 1) none ahead back back' bad
    | m0 :: ms =>
      let m := ms.foldl (· ||| ·) m0
      let out := f.transfer m
      let e := f.exits
      let ahead := match e.1 with | some k => (k, out) :: ahead | none => ahead
      let back' := if f.op = 0x03 then (f.imm, out) :: back' else back'
      flowPass t (i + 1) (if e.2 then some out else none) (ahead.filter (fun q => decide (i < q.1))) back back'
        (bad.orElse (fun _ => if f.localUse m then some i else none))

/-- Passes until the sets brought back repeat. -/
def flowAux (p : List BrewWord) : Nat → List (Nat × Nat) → Option Nat
  | 0, _ => some 0
  | k + 1, back =>
    let r := flowPass p 0 (some (2 ^ bitS 2)) [] back [] none
    if r.2 = back then r.1 else flowAux p k r.2

/-- The first word that breaks check 7 of R267: 108 sets of bits can each grow once at every LOOP, which bounds the passes. -/
def breaks7 (p : List BrewWord) : Option Nat := flowAux p (109 * ((loopsOf p).length + 1)) []

/-- Check 8 of R267: Q0 named as a destination, or S0 to S3 written. -/
def BrewWord.check8 (f : BrewWord) : Bool :=
  let r := f.regs
  !((r.1 == .q && f.ra == 0) || (r.1 == .s && decide (f.ra ≤ 3)))

/-- The checks of R267 on a program of a partition with `tensors` tensors: the first that fails, and the lowest word at which it does. -/
def checkProgram (ws : List DWord) (tensors : Nat) : Option (Nat × Nat) :=
  let p := ws.map BrewWord.ofBits
  let at' (n : Nat) (bad : Nat → BrewWord → Bool) : Option (Nat × Nat) :=
    (p.zipIdx.find? (fun q => bad q.2 q.1)).map (fun q => (n, q.2))
  if ws.length < 1 ∨ 32768 < ws.length then some (1, 0)
  else
    (at' 2 (fun _ f => !f.check2)).orElse fun _ => (at' 3 (fun _ f => !f.check3 tensors)).orElse fun _ =>
    (at' 4 (fun i f => !f.check4 p.length i)).orElse fun _ => (at' 5 (fun i f => breaks5 (loopsOf p) i f)).orElse fun _ =>
    (if check6 p then none else some (6, p.length - 1)).orElse fun _ => ((breaks7 p).map (fun i => (7, i))).orElse fun _ =>
    at' 8 (fun _ f => !f.check8)

end Sys2Proof.Machine
end

