-- ==== Sys2Proof/Machine/BrewCode.lean ====
section
/-! DEFINITION. What words stand for: a Brew instruction word and its command (R269 to R272), the command byte of the management port (R363). -/

namespace Sys2Proof.Machine
open Sys2Proof

/-- What a command carries beside its instruction word: the reads of client memory that it makes, and the errors that its reads of HBM meet. -/
structure Supply where
  g : List HostRead
  rd : HostRead
  mma : MmaReads
  errs : List MemErr
deriving DecidableEq, Repr

/-- Register fields (R271). -/
def tdOf (n : Nat) : TdReg := Fin.ofNat 64 n
def sOf (n : Nat) : SReg := Fin.ofNat 32 n
def qOf (n : Nat) : QReg := Fin.ofNat 8 n
def lOf (n : Nat) : LReg := Fin.ofNat 4 n

/-- The predicate of a word (R269, R270). -/
def BrewWord.pr (f : BrewWord) : Pr := ⟨f.neg == 1, qOf f.q⟩
/-- The second source of a two-operand scalar word (R272). -/
def BrewWord.srcB (f : BrewWord) : SrcB := if f.mod % 2 = 0 then .reg (sOf f.rc) else .imm (BitVec.ofNat 32 f.imm)

/-- The cvt field (R282). -/
def cvtOf (m : Nat) : Cvt := match m with | 0 => .b16 | 1 => .h16 | 2 => .e4m3 | _ => .e5m2
/-- The output configuration in an immediate (R286). -/
def cfgOf (i : Nat) : OutCfg :=
  { scale := if bitAt i 31 then some (sOf (bitsOf i 30 26)) else none
    bias := if bitAt i 25 then some (tdOf (bitsOf i 24 19)) else none
    ew := match bitsOf i 18 17 with | 1 => .add (tdOf (bitsOf i 16 11)) | 2 => .mul (tdOf (bitsOf i 16 11)) | _ => .none
    act := match bitsOf i 10 9 with | 1 => .clamp (Fin.ofNat 31 (bitsOf i 8 4)) | 2 => .sign | 3 => .abs | _ => .none }
/-- Conditions of SCMP (R291) and operators of SRED (R293). -/
def condOf (i : Nat) : Cond := match i with | 0 => .eq | 1 => .ne | 2 => .lt | 3 => .le | 4 => .ltu | 5 => .leu | 6 => .flt | _ => .fle
def redOf (i : Nat) : RedOp :=
  match i with | 0 => .sumW32 | 1 => .sumW64 | 2 => .sumF32 | 3 => .max8 | 4 => .max16 | 5 => .max32 | _ => .max64

/-- The integer and float operations of Table: Scalar operations with two sources. -/
def scalarOf (o : Nat) (c : CombId) (p : Pr) (d a : SReg) (b : SrcB) : Option Instr :=
  match o with
  | 0x43 => some (.sadd c p d a b) | 0x44 => some (.ssub c p d a b) | 0x45 => some (.smul c p d a b) | 0x46 => some (.sdiv c p d a b)
  | 0x47 => some (.sand c p d a b) | 0x48 => some (.sor c p d a b) | 0x49 => some (.sxor c p d a b) | 0x4A => some (.sshl c p d a b)
  | 0x4B => some (.sshr c p d a b) | 0x4C => some (.ssra c p d a b) | 0x50 => some (.fadd c p d a b) | 0x51 => some (.fsub c p d a b)
  | 0x52 => some (.fmul c p d a b) | 0x53 => some (.fdiv c p d a b) | 0x54 => some (.fmax c p d a b) | 0x55 => some (.fmin c p d a b)
  | _ => none

/-- The command of an instruction word on comb `c` (R272): none where a word fails check 2 of R267 or names a register out of range (R271). -/
def BrewWord.command (c : CombId) (f : BrewWord) (x : Supply) : Option Instr :=
  let p := f.pr
  let i := f.imm
  let r := f.regs
  if !f.check2 || !regOk r.1 f.ra || !regOk r.2.1 f.rb || !regOk r.2.2 f.rc then none
  else match f.op with
    | 0x00 => some (.nop c p)
    | 0x01 => some (.fence c)
    | 0x02 => some (.br c p (BitVec.ofNat 15 i))
    | 0x03 => some (.loop c (lOf f.ra) (BitVec.ofNat 15 i))
    | 0x04 => some (.lset c p (lOf f.ra) (if f.mod = 1 then .reg (sOf f.rb) else .imm (BitVec.ofNat 32 i)))
    | 0x05 => some (.wake c p (BitVec.ofNat 6 i))
    | 0x10 => some (.tld c p (tdOf f.ra) (BitVec.ofNat 16 i))
    | 0x11 => some (.tldx c p (tdOf f.ra) (sOf f.rb))
    | 0x12 => some (.tview c p (tdOf f.ra) (tdOf f.rb) (match f.mod with
        | 0 => .range (sOf f.rc) (BitVec.ofNat 32 i) | 1 => .rowlen (BitVec.ofNat 16 i) | _ => .region (BitVec.ofNat 4 i)))
    | 0x13 => some (.tinfo c p (sOf f.ra) (tdOf f.rb) (Fin.ofNat 8 i))
    | 0x14 => some (.tcopy c p (tdOf f.ra) (tdOf f.rb) x.rd x.errs)
    | 0x20 => some (.steep c p (tdOf f.rb) x.g x.errs)
    | 0x21 => some (.xchg c p (tdOf f.rb) x.g x.errs)
    | 0x22 => some (.xstat c p (tdOf f.ra) (tdOf f.rb) (Fin.ofNat 4 f.mod) x.errs)
    | 0x23 => some (.score c p (sOf f.ra) (tdOf f.rb) (sOf f.rc))
    | 0x24 => some (.bsel c p (qOf f.ra) (tdOf f.rb) (sOf f.rc))
    | 0x25 => some (.cbq c p (sOf f.ra) (tdOf f.rb) (sOf f.rc) x.errs)
    | 0x30 => some (.mma c p (tdOf f.ra) (tdOf f.rb) (tdOf f.rc) (cvtOf f.mod) (cfgOf i) x.mma x.errs)
    | 0x31 => some (.mmag c p (tdOf f.ra) (tdOf f.rb) (tdOf f.rc) (cvtOf f.mod) (cfgOf i) x.mma x.errs)
    | 0x32 => some (.orth c p (tdOf f.ra) (tdOf f.rb) x.rd x.errs)
    | 0x40 => some (.sli c p (sOf f.ra) (BitVec.ofNat 32 i))
    | 0x41 => some (.slih c p (sOf f.ra) (BitVec.ofNat 32 i))
    | 0x42 => some (.smov c p (sOf f.ra) (sOf f.rb))
    | 0x56 => some (.fsqrt c p (sOf f.ra) (sOf f.rb))
    | 0x57 => some (.fcvti c p (sOf f.ra) (sOf f.rb))
    | 0x58 => some (.icvtf c p (sOf f.ra) (sOf f.rb))
    | 0x5C => some (.scmp c p (qOf f.ra) (sOf f.rb) (sOf f.rc) (condOf i))
    | 0x5D => some (.plog c p (qOf f.ra) (qOf f.rb) (qOf f.rc) (BitVec.ofNat 4 i))
    | 0x60 => some (.barr c p)
    | 0x61 => some (.sred c p (sOf f.ra) (sOf f.rb) (redOf (bitsOf i 2 0)) (Fin.ofNat 8 (bitsOf i 11 8 - 1)))
    | 0x62 => some (.sout c p (sOf f.rb) (Fin.ofNat 64 i))
    | o => scalarOf o c p (sOf f.ra) (sOf f.rb) f.srcB

/-- The command of the 64 bits of an instruction. -/
def brewCommand (c : CombId) (w : DWord) (x : Supply) : Option Instr := (BrewWord.ofBits w).command c x

/-! ### The management port -/

/-- The commands of Table: MSP commands. -/
inductive MspOp where
  | status | read | write | login | logout
deriving DecidableEq, Repr

/-- The command that bits [7:4] of a command byte name; none for an opcode that the table lacks (R363). -/
def mspOpOf (cmd : Byte) : Option MspOp :=
  match cmd.toNat / 16 with | 0 => some .status | 1 => some .read | 2 => some .write | 3 => some .login | 4 => some .logout | _ => none

/-- A lane count as its two bits code it (R363). -/
def lanesOf (code : Nat) : Nat := 2 ^ (code % 4)
/-- The lane counts of the address phase, bits [3:2], and of the data phase, bits [1:0] (R363). -/
def mspLanes (cmd : Byte) : Nat × Nat := (lanesOf (cmd.toNat / 4), lanesOf cmd.toNat)

end Sys2Proof.Machine
end

