-- ==== Sys2Proof/Machine/Sha.lean ====
section
/-! DEFINITION. The hash functions and the signature check that the spec takes from standards it names: SHA-256 and SHA-384 (FIPS
180-4), HMAC (FIPS 198-1) and ECDSA over P-384 (FIPS 186-5). PRESUMED: their constants come from those standards. -/

namespace Sys2Proof.Machine
open Sys2Proof

/-- Rotation right of a `w`-bit number. -/
def rotr (w n k : Nat) : Nat := (n >>> k) ||| ((n <<< (w - k)) % 2 ^ w)

/-- The parameters of a SHA-2 function: word width and the six functions' rotations (FIPS 180-4, section 4.1). -/
structure ShaPar where
  w : Nat
  b0 : Nat × Nat × Nat
  b1 : Nat × Nat × Nat
  s0 : Nat × Nat × Nat
  s1 : Nat × Nat × Nat
  ks : List Nat

/-- The round constants of SHA-256. -/
def k256 : List Nat :=
  [0x428A2F98, 0x71374491, 0xB5C0FBCF, 0xE9B5DBA5, 0x3956C25B, 0x59F111F1, 0x923F82A4, 0xAB1C5ED5,
    0xD807AA98, 0x12835B01, 0x243185BE, 0x550C7DC3, 0x72BE5D74, 0x80DEB1FE, 0x9BDC06A7, 0xC19BF174] ++
  [0xE49B69C1, 0xEFBE4786, 0x0FC19DC6, 0x240CA1CC, 0x2DE92C6F, 0x4A7484AA, 0x5CB0A9DC, 0x76F988DA,
    0x983E5152, 0xA831C66D, 0xB00327C8, 0xBF597FC7, 0xC6E00BF3, 0xD5A79147, 0x06CA6351, 0x14292967] ++
  [0x27B70A85, 0x2E1B2138, 0x4D2C6DFC, 0x53380D13, 0x650A7354, 0x766A0ABB, 0x81C2C92E, 0x92722C85,
    0xA2BFE8A1, 0xA81A664B, 0xC24B8B70, 0xC76C51A3, 0xD192E819, 0xD6990624, 0xF40E3585, 0x106AA070] ++
  [0x19A4C116, 0x1E376C08, 0x2748774C, 0x34B0BCB5, 0x391C0CB3, 0x4ED8AA4A, 0x5B9CCA4F, 0x682E6FF3,
    0x748F82EE, 0x78A5636F, 0x84C87814, 0x8CC70208, 0x90BEFFFA, 0xA4506CEB, 0xBEF9A3F7, 0xC67178F2]

/-- The initial hash value of SHA-256. -/
def h256 : List Nat :=
  [0x6A09E667, 0xBB67AE85, 0x3C6EF372, 0xA54FF53A, 0x510E527F, 0x9B05688C, 0x1F83D9AB, 0x5BE0CD19]

/-- The round constants of SHA-384. -/
def k512 : List Nat :=
  [0x428A2F98D728AE22, 0x7137449123EF65CD, 0xB5C0FBCFEC4D3B2F, 0xE9B5DBA58189DBBC,
    0x3956C25BF348B538, 0x59F111F1B605D019, 0x923F82A4AF194F9B, 0xAB1C5ED5DA6D8118,
    0xD807AA98A3030242, 0x12835B0145706FBE, 0x243185BE4EE4B28C, 0x550C7DC3D5FFB4E2,
    0x72BE5D74F27B896F, 0x80DEB1FE3B1696B1, 0x9BDC06A725C71235, 0xC19BF174CF692694] ++
  [0xE49B69C19EF14AD2, 0xEFBE4786384F25E3, 0x0FC19DC68B8CD5B5, 0x240CA1CC77AC9C65,
    0x2DE92C6F592B0275, 0x4A7484AA6EA6E483, 0x5CB0A9DCBD41FBD4, 0x76F988DA831153B5,
    0x983E5152EE66DFAB, 0xA831C66D2DB43210, 0xB00327C898FB213F, 0xBF597FC7BEEF0EE4,
    0xC6E00BF33DA88FC2, 0xD5A79147930AA725, 0x06CA6351E003826F, 0x142929670A0E6E70] ++
  [0x27B70A8546D22FFC, 0x2E1B21385C26C926, 0x4D2C6DFC5AC42AED, 0x53380D139D95B3DF,
    0x650A73548BAF63DE, 0x766A0ABB3C77B2A8, 0x81C2C92E47EDAEE6, 0x92722C851482353B,
    0xA2BFE8A14CF10364, 0xA81A664BBC423001, 0xC24B8B70D0F89791, 0xC76C51A30654BE30,
    0xD192E819D6EF5218, 0xD69906245565A910, 0xF40E35855771202A, 0x106AA07032BBD1B8] ++
  [0x19A4C116B8D2D0C8, 0x1E376C085141AB53, 0x2748774CDF8EEB99, 0x34B0BCB5E19B48A8,
    0x391C0CB3C5C95A63, 0x4ED8AA4AE3418ACB, 0x5B9CCA4F7763E373, 0x682E6FF3D6B2B8A3,
    0x748F82EE5DEFB2FC, 0x78A5636F43172F60, 0x84C87814A1F0AB72, 0x8CC702081A6439EC,
    0x90BEFFFA23631E28, 0xA4506CEBDE82BDE9, 0xBEF9A3F7B2C67915, 0xC67178F2E372532B] ++
  [0xCA273ECEEA26619C, 0xD186B8C721C0C207, 0xEADA7DD6CDE0EB1E, 0xF57D4F7FEE6ED178,
    0x06F067AA72176FBA, 0x0A637DC5A2C898A6, 0x113F9804BEF90DAE, 0x1B710B35131C471B,
    0x28DB77F523047D84, 0x32CAAB7B40C72493, 0x3C9EBE0A15C9BEBC, 0x431D67C49C100D4C,
    0x4CC5D4BECB3E42B6, 0x597F299CFC657E2A, 0x5FCB6FAB3AD6FAEC, 0x6C44198C4A475817]

/-- The initial hash value of SHA-384. -/
def h384 : List Nat :=
  [0xCBBB9D5DC1059ED8, 0x629A292A367CD507, 0x9159015A3070DD17, 0x152FECD8F70E5939,
    0x67332667FFC00B31, 0x8EB44A8768581511, 0xDB0C2E0D64F98FA7, 0x47B5481DBEFA4FA4]

def par256 : ShaPar := ⟨32, (2, 13, 22), (6, 11, 25), (7, 18, 3), (17, 19, 10), k256⟩
def par512 : ShaPar := ⟨64, (28, 34, 39), (14, 18, 41), (1, 8, 7), (19, 61, 6), k512⟩

/-- A capital sigma: three rotations. -/
def bigSigma (w : Nat) (r : Nat × Nat × Nat) (x : Nat) : Nat := rotr w x r.1 ^^^ rotr w x r.2.1 ^^^ rotr w x r.2.2
/-- A small sigma: two rotations and a shift. -/
def smallSigma (w : Nat) (r : Nat × Nat × Nat) (x : Nat) : Nat := rotr w x r.1 ^^^ rotr w x r.2.1 ^^^ (x >>> r.2.2)

/-- The message schedule's further words, given the last sixteen words, newest first. -/
def schedule (p : ShaPar) : Nat → List Nat → List Nat
  | 0, _ => []
  | k + 1, ws =>
    let x := (smallSigma p.w p.s1 (ws.getD 1 0) + ws.getD 6 0 + smallSigma p.w p.s0 (ws.getD 14 0) + ws.getD 15 0) % 2 ^ p.w
    x :: schedule p k (x :: ws.take 15)

/-- The eight working variables. -/
structure ShaVars where
  a : Nat
  b : Nat
  c : Nat
  d : Nat
  e : Nat
  f : Nat
  g : Nat
  h : Nat

/-- One round of the compression. -/
def shaRound (p : ShaPar) (v : ShaVars) (kw : Nat × Nat) : ShaVars :=
  let m := 2 ^ p.w
  let ch := (v.e &&& v.f) ^^^ ((m - 1 - v.e) &&& v.g)
  let t1 := (v.h + bigSigma p.w p.b1 v.e + ch + kw.1 + kw.2) % m
  let maj := (v.a &&& v.b) ^^^ (v.a &&& v.c) ^^^ (v.b &&& v.c)
  let t2 := (bigSigma p.w p.b0 v.a + maj) % m
  ⟨(t1 + t2) % m, v.a, v.b, v.c, (v.d + t1) % m, v.e, v.f, v.g⟩

/-- The working variables as a list. -/
def ShaVars.toList (v : ShaVars) : List Nat := [v.a, v.b, v.c, v.d, v.e, v.f, v.g, v.h]

/-- The working variables from a hash value. -/
def ShaVars.ofList (l : List Nat) : ShaVars :=
  ⟨l.getD 0 0, l.getD 1 0, l.getD 2 0, l.getD 3 0, l.getD 4 0, l.getD 5 0, l.getD 6 0, l.getD 7 0⟩

/-- One block of sixteen words folded into the hash value. -/
def shaBlock (p : ShaPar) (h : List Nat) (blk : List Byte) : List Nat :=
  let ws := (chunks (p.w / 8) blk).map beNat
  let sched := ws ++ schedule p (p.ks.length - 16) ws.reverse
  let out := (p.ks.zip sched).foldl (shaRound p) (ShaVars.ofList h)
  (h.zip out.toList).map (fun q => (q.1 + q.2) % 2 ^ p.w)

/-- The padded message (FIPS 180-4, section 5.1). -/
def shaPad (p : ShaPar) (m : List Byte) : List Byte :=
  let blk := 2 * p.w
  let lenB := p.w / 4
  let body := m ++ [0x80#8]
  body ++ zeros ((blk - (body.length + lenB) % blk) % blk) ++ beBytes lenB (8 * m.length)

/-- A SHA-2 digest of `words` words. -/
def sha (p : ShaPar) (h0 : List Nat) (words : Nat) (m : List Byte) : List Byte :=
  (((chunks (2 * p.w) (shaPad p m)).foldl (shaBlock p) h0).take words).flatMap (beBytes (p.w / 8))

/-- SHA-256: 32 bytes. -/
def sha256 (m : List Byte) : List Byte := sha par256 h256 8 m
/-- SHA-384: 48 bytes. -/
def sha384 (m : List Byte) : List Byte := sha par512 h384 6 m

/-- HMAC-SHA-256 (FIPS 198-1). -/
def hmac256 (key m : List Byte) : List Byte :=
  let k0 := padTo 64 (if 64 < key.length then sha256 key else key)
  let ki := k0.map (· ^^^ 0x36#8)
  let ko := k0.map (· ^^^ 0x5C#8)
  sha256 (ko ++ sha256 (ki ++ m))

/-! ### ECDSA over P-384 (R352) -/

/-- The prime of P-384. -/
def p384 : Nat := 2 ^ 384 - 2 ^ 128 - 2 ^ 96 + 2 ^ 32 - 1
/-- The order of the base point. -/
def n384 : Nat := 0xFFFFFFFFFFFFFFFFFFFFFFFFFFFFFFFFFFFFFFFFFFFFFFFFC7634D81F4372DDF581A0DB248B0A77AECEC196ACCC52973
/-- The curve coefficient b. -/
def b384 : Nat := 0xB3312FA7E23EE7E4988E056BE3F82D19181D9C6EFE8141120314088F5013875AC656398D8A2ED19D2A85C8EDD3EC2AEF
/-- The base point. -/
def gx384 : Nat := 0xAA87CA22BE8B05378EB1C71EF320AD746E1D3B628BA79B9859F741E082542A385502F25DBF55296C3A545E3872760AB7
def gy384 : Nat := 0x3617DE4A96262C6F5D9E98BF9292DC29F8F41DBD289A147CE9DA3113B5F0B8C00A60B1CE1D7E819D7A431D7C90EA0E5F

/-- b^e mod m; `fuel` bounds the bits of e. -/
def powModAux (m : Nat) : Nat → Nat → Nat → Nat → Nat
  | 0, _, _, acc => acc
  | k + 1, b, e, acc => powModAux m k (b * b % m) (e / 2) (if e % 2 = 1 then acc * b % m else acc)

/-- The inverse of a modulo a prime m. -/
def invMod (m a : Nat) : Nat := powModAux m (Nat.log2 m + 1) (a % m) (m - 2) 1

/-- A point in Jacobian coordinates: x/z², y/z³; z = 0 is the point at infinity. -/
structure JPoint where
  x : Nat
  y : Nat
  z : Nat

/-- a − b modulo the prime. -/
def subP (a b : Nat) : Nat := (a + p384 - b % p384) % p384

/-- The double of a point on y² = x³ − 3x + b. -/
def JPoint.dbl (q : JPoint) : JPoint :=
  if q.z = 0 ∨ q.y = 0 then ⟨1, 1, 0⟩ else
  let yy := q.y * q.y % p384
  let s := 4 * q.x * yy % p384
  let zz := q.z * q.z % p384
  let m := 3 * subP q.x zz * (q.x + zz) % p384
  let x := subP (m * m) (2 * s)
  ⟨x, subP (m * subP s x) (8 * yy * yy), 2 * q.y * q.z % p384⟩

/-- The sum of two points. -/
def JPoint.add (q r : JPoint) : JPoint :=
  if q.z = 0 then r else if r.z = 0 then q else
  let qz := q.z * q.z % p384
  let rz := r.z * r.z % p384
  let u1 := q.x * rz % p384
  let u2 := r.x * qz % p384
  let s1 := q.y * rz * r.z % p384
  let s2 := r.y * qz * q.z % p384
  if u1 = u2 then (if s1 = s2 then q.dbl else ⟨1, 1, 0⟩) else
  let h := subP u2 u1
  let hh := h * h % p384
  let hhh := h * hh % p384
  let t := subP s2 s1
  let v := u1 * hh % p384
  let x := subP (subP (t * t) hhh) (2 * v)
  ⟨x, subP (t * subP v x) (s1 * hhh), h * q.z * r.z % p384⟩

/-- k × Q by double and add; `fuel` bounds the bits of k. -/
def JPoint.mulAux : Nat → Nat → JPoint → JPoint → JPoint
  | 0, _, _, acc => acc
  | f + 1, k, q, acc => JPoint.mulAux f (k / 2) q.dbl (if k % 2 = 1 then acc.add q else acc)

/-- k × Q. -/
def JPoint.mul (k : Nat) (q : JPoint) : JPoint := JPoint.mulAux 384 k q ⟨1, 1, 0⟩

/-- Q is a valid point of the curve (FIPS 186-5; R352). -/
def onCurve384 (qx qy : Nat) : Bool :=
  decide (qx < p384 ∧ qy < p384) && qy * qy % p384 == (qx * qx * qx + (p384 - 3) * qx + b384) % p384

/-- The signature (r, s) verifies over the message under the key Q (FIPS 186-5). -/
def ecdsa384Verify (qx qy r s : Nat) (msg : List Byte) : Bool :=
  if r = 0 ∨ n384 ≤ r ∨ s = 0 ∨ n384 ≤ s then false
  else
    let e := beNat (sha384 msg)
    let w := invMod n384 s
    let p := (JPoint.mul (e * w % n384) ⟨gx384, gy384, 1⟩).add (JPoint.mul (r * w % n384) ⟨qx, qy, 1⟩)
    if p.z = 0 then false
    else
      let zi := invMod p384 p.z
      p.x * (zi * zi % p384) % p384 % n384 == r

end Sys2Proof.Machine
end

