-- ==== Sys2Proof/Machine/Msp.lean ====
section
/-! DEFINITION. The management serial port: STATUS, READ, LOGIN, LOGOUT, an invalid opcode, and the two expiries (R361 to R371). -/

namespace Sys2Proof.Machine
open Sys2Proof

/-- Boundary scan has taken the MSP off its balls (R456). -/
def Block.mspOff (b : Block) : Bool := b.tap.ir == .extest || b.tap.ir == .clamp || b.tap.ir == .highz

/-- A transaction on the MSP's pins. -/
def Block.onMsp (b : Block) (f : Block → Block) : Block := if b.mspOff then b else f b

/-- A transaction begins: an idle session whose time ran out closes first (R371, corner ruling). -/
def Block.mspBegin (b : Block) : Block :=
  if b.msp.session ∧ b.msp.lastUse + 250000000 ≤ b.now then { b with msp := { b.msp with session := false } } else b

/-- A transaction ends with its first fault (R366); it restarts the session's idle time (R371). -/
def Block.mspEnd (b : Block) (err : Nat) (out : List Byte) : Block :=
  { b with msp := { b.msp with lastErr := BitVec.ofNat 4 err, out := out, lastUse := b.now } }

/-- The first of two faults (R366). -/
def firstErr (a b : Nat) : Nat := if a = 0 then b else a

/-- The register that a burst samples in the KT in which it reads the one at `a` (R369, R422, R428, R437): the high word of a pair, the
physical word of an ASSUME entry, the in-use count of a ledger. -/
def pairOf (a : Nat) : Option Nat :=
  if a = 0x50 ∨ (0x1000 ≤ a ∧ a < 0x1800 ∧ a % 8 = 0) ∨ a = 0x200000 ∨ a = 0x500010 ∨ a = 0x500018 then some (a + 4)
  else if 0x100000 ≤ a ∧ a < 0x200000 ∧ a % 0x40000 = 0x10 then some (a + 4)
  else if 0x300000 ≤ a ∧ a < 0x32A000 ∧ (a % 0x1000 = 0x10 ∨ a % 0x1000 = 0x18) then some (a + 4)
  else if 0x300000 ≤ a ∧ a < 0x32A000 ∧ (a % 0x1000 = 0x40 ∨ a % 0x1000 = 0x44) then some (a + 8)
  else none

/-- A burst under way: the block, the first fault, the bytes sent, and the values sampled for registers still to come. -/
structure Burst where
  blk : Block
  err : Nat
  out : List Byte
  kept : List (Nat × Nat)

/-- One register of a READ burst, `wait` KT after the one before it (R364, R367, R370, R374): refused and absent registers read 0. -/
def Burst.readOne (f : Fuses) (w : Burst) (a wait : Nat) : Burst :=
  let b := w.blk.advanceTo (w.blk.now + wait)
  if !b.msp.session && !openRead a then
    match b.readReg f a with
    | none => { w with blk := b, err := firstErr w.err 3, out := w.out ++ zeros 4 }
    | some _ => { w with blk := b, err := firstErr w.err 1, out := w.out ++ zeros 4 }
  else
    let b := if a = 0x700020 then b.evlSample none else b
    match b.readReg f a with
    | none => { w with blk := b, err := firstErr w.err 3, out := w.out ++ zeros 4 }
    | some v =>
      let v := match w.kept.find? (fun q => q.1 == a) with | some q => q.2 | none => v
      let kept := match pairOf a with
        | some h => (match b.readReg f h with | some x => (h, x) :: w.kept | none => w.kept)
        | none => w.kept
      { w with blk := b, out := w.out ++ leBytes 4 v, kept := kept }

/-- The addresses of a burst of `n` registers, modulo 2^32 (R367). -/
def burstAddrs (a n : Nat) : List Nat := (List.range n).map (fun i => (a + 4 * i) % 2 ^ 32)

/-- READ (R363 to R367, R374): `n` whole registers, the `i`-th `pace i` KT after the one before it, and the place where select rises. -/
def Block.mspRead (b : Block) (f : Fuses) (a n notReady : Nat) (pace : List Nat) (cut : MspCut) : Block :=
  let b := b.mspBegin
  let pre := List.replicate notReady (byteOf (b.status false)) ++ [byteOf (b.status true)]
  let more := match cut with | .inside k => k.val + 1 | _ => 0
  let m := if more = 0 then n else n + 1
  if cut = .early then b.mspEnd 6 []
  else if a % 4 ≠ 0 then b.mspEnd 2 (pre ++ zeros (4 * n + more))
  else
    let w := (burstAddrs a m).zipIdx.foldl (fun w q => w.readOne f q.1 (pace.getD q.2 0)) (⟨b, 0, pre, []⟩ : Burst)
    w.blk.mspEnd (if more = 0 then w.err else firstErr w.err 6) (w.out.take (pre.length + 4 * n + more))

/-- STATUS (R363, R365, R366): the status byte and MSP_TS, as far as they are sent; evt clears once the status byte has been sent. -/
def execMspStatus (_lanes : BitVec 4) (sent : Fin 6) (s : State) : Host.Outcome State Fault Refusal :=
  s.act (fun b => b.onMsp (fun b =>
    let b := b.mspBegin
    let out := (byteOf (b.status true) :: leBytes 4 b.now).take sent.val
    ({ b with msp := { b.msp with evt := b.msp.evt && sent == 0 } }).mspEnd (if sent = 1 ∨ sent = 5 then 0 else 6) out))

/-- READ: the lane counts change the clocks only (R362). -/
def execMspRead (_lanes : BitVec 4) (addr : BitVec 32) (count : Nat) (notReady : Nat) (pace : List Nat) (cut : MspCut) (s : State) :
    Host.Outcome State Fault Refusal :=
  s.act (fun b => b.onMsp (fun b => b.mspRead s.fuses addr.toNat count notReady pace cut))

/-- LOGIN (R371): a lockout refuses before anything is compared. -/
def Block.mspLogin (b : Block) (f : Fuses) (data : List Byte) : Block :=
  let b := b.mspBegin
  if b.now < b.msp.lockUntil then b.mspEnd 5 []
  else if data.length ≠ 32 then b.mspEnd 6 []
  else if allZero f.pwd || sha256 data == f.pwd then
    ({ b with msp := { b.msp with session := true } }).mspEnd 0 []
  else
    let b := b.log 0x0420 .kettle none []
    ({ b with msp := { b.msp with session := false, loginFail := satAdd b.msp.loginFail 1, lockUntil := b.now + 25000 } }).mspEnd 4 []

def execMspLogin (_lanes : BitVec 4) (data : List Byte) (s : State) : Host.Outcome State Fault Refusal :=
  s.act (fun b => b.onMsp (fun b => b.mspLogin s.fuses data))

/-- LOGOUT closes the session (R371). -/
def execMspLogout (_lanes : BitVec 4) (s : State) : Host.Outcome State Fault Refusal :=
  s.act (fun b => b.onMsp (fun b => ({ b.mspBegin with msp := { b.mspBegin.msp with session := false } }).mspEnd 0 []))

/-- An opcode that the table does not have: the transaction is abandoned (R363, R366). -/
def execMspInvalidOpcode (cmd : Byte) (s : State) : Host.Outcome State Fault Refusal :=
  s.act (fun b => if (mspOpOf cmd).isSome then b else b.onMsp (fun b => b.mspBegin.mspEnd 6 []))

/-- The idle limit of an open session passes: it closes (R371). -/
def Block.sessionEnds (b : Block) : Block :=
  if b.msp.session then { b.advanceTo (b.msp.lastUse + 250000000) with msp := { b.msp with session := false } } else b

/-- MSP_SESSION_IDLE_EXPIRY. -/
def execMspSessionIdleExpiry (s : State) : Host.Outcome State Fault Refusal := s.act Block.sessionEnds

/-- The lockout ends (R371). -/
def execMspLoginLockoutExpiry (s : State) : Host.Outcome State Fault Refusal :=
  s.act (fun b => b.advanceTo b.msp.lockUntil)

end Sys2Proof.Machine
end

