-- ==== Sys2Proof/Machine/HostPort.lean ====
section
/-! DEFINITION. The host ports: handshakes (R301 to R306), doorbells (R309), descriptors (R308 to R314, R317, R320 to R324), codebook
hashing (R140), and the resets and state of a port (R296, R317, R397, R431). -/

namespace Sys2Proof.Machine
open Sys2Proof

/-! ### Ports and functions (R296) -/

def Block.port (b : Block) (h : PortId) : Port := b.host.ports[h]
def Block.modHost (b : Block) (f : HostSt → HostSt) : Block := { b with host := f b.host }
def Block.modPort (b : Block) (h : PortId) (f : Port → Port) : Block :=
  b.modHost (fun x => { x with ports := x.ports.set h (f x.ports[h]) })
/-- The partition that a VF serves (R296). -/
def vfPart (vf : VfId) : PartId := vf
/-- The VF exists and its port can carry accesses (R296); a halted chip writes nothing to client memory (R47). -/
def Block.vfLive (b : Block) (h : PortId) (vf : VfId) : Bool :=
  let x := b.port h
  x.linkUp && x.vfEnable && decide (vf.val < x.numVfs) && !b.kettle.stopped && !b.inReset
def Block.badHs (b : Block) : Block := b.modHost (fun x => { x with hsBad := wrapAdd x.hsBad 1 })

/-! ### Base address registers (R298, R357) -/

/-- The doubleword that PF BAR0 shows at an offset (R298): from 0x3000 the chip's identifier and the port's status; the MSI-X table and pending bits
are the bus agent's (log entry 64), and every other byte reads 0. -/
def Block.pfBar0 (b : Block) (f : Fuses) (h : PortId) (o : Nat) : Nat :=
  if o = 0x3000 then (b.readReg f 0).getD 0 else if o = 0x3004 then (b.readReg f (0x500000 + 4 * h.val)).getD 0 else 0

/-- The doubleword that VF BAR0 shows at an offset (R298, R357): at 0x4_3000 the partition, and at Ready whether the image defines it; a doorbell
reads 0, and so does every other byte outside the MSI-X structures. -/
def Block.vfBar0 (b : Block) (vf : VfId) (o : Nat) : Nat :=
  if o = 0x43000 then (vfPart vf).val + 256 * b2n (b.boot.phase == .ready && b.defined (vfPart vf)) else 0

/-! ### Handshake (R301 to R306) -/

/-- HELLO meets Table: HELLO (R302). -/
def helloOk (m : List Byte) : Bool :=
  let lg (o : Nat) : Bool := decide (6 ≤ field m o 1) && decide (field m o 1 ≤ 12)
  field m 0 4 == 0x4F4C4548 && field m 4 1 == 1 && field m 5 1 == 1 && lg 6 && lg 7 && field m 0x18 8 % 64 == 0 &&
  field m 0x20 8 % 4096 == 0 && field m 0x28 8 % 4096 == 0 && field m 0x30 8 % 4096 == 0 &&
  (decide (field m 0x38 2 ≤ 63) || field m 0x38 2 == 0xFFFF) && allZero (slice m 0x3A 6)

/-- CHALLENGE (R303). -/
def challenge (status : Nat) (nc ns : List Byte) (ctx : Nat) : List Byte :=
  leBytes 4 0x4C414843 ++ [1, 2] ++ leBytes 2 status ++ nc ++ ns ++ leBytes 2 ctx ++ zeros 21 ++ [1]

/-- A lockout of the VF is in force (R306). -/
def Port.locked (x : Port) (vf : VfId) (now : Nat) : Bool := x.lockouts.any (fun q => q.1 == vf && decide (now < q.2))

/-- The status of the CHALLENGE that answers a HELLO (R303, R306, R357). -/
def Block.helloStatus (b : Block) (h : PortId) (vf : VfId) (m : List Byte) : Nat :=
  if (b.port h).locked vf b.now then 0x0406
  else if b.boot.phase ≠ .ready then 0x0402
  else if !helloOk m then 0x0401
  else if !b.defined (vfPart vf) then 0x0402
  else if b.host.sessFree = 0 then 0x0403
  else 0

/-- A context with a pending handshake, from HELLO (R302, R303). -/
def Ctx.ofHello (id : Nat) (h : PortId) (vf : VfId) (m ns : List Byte) (now : Nat) : Ctx :=
  { id := id, port := h, vf := vf, isOpen := false, hello := m, ns := ns, since := now, token := 0, sqLog := field m 6 1, cqLog := field m 7 1
    reply := field m 0x18 8, sqBase := field m 0x20 8, cqBase := field m 0x28 8, scalarBase := field m 0x30 8, vector := field m 0x38 2
    sqHead := 0, sqTail := 0, cqHead := 0, cqTail := 0, expReq := 0, reserved := 0, closing := none }

/-- HELLO (R303). -/
def Block.hello (b : Block) (h : PortId) (vf : VfId) (m : List Byte) : Block :=
  if !b.vfLive h vf ∨ m.length ≠ 64 ∨ field m 5 1 ≠ 1 then b
  else
    let d := b.draw
    let b := d.2
    let ns := (List.range 16).map (Config.nonceByte d.1)
    let st := b.helloStatus h vf m
    let id := lowestFree (b.host.ctxs.map Ctx.id) 4096 0
    let b := b.hostWrite h vf (field m 0x18 8) (challenge st (slice m 8 16) ns (if st = 0 then id else 0xFFFF)) false
    if st = 0 then b.modHost (fun x => { x with ctxs := x.ctxs ++ [Ctx.ofHello id h vf m ns b.now], sessFree := x.sessFree - 1 })
    else b

/-- HELLO. -/
def execHello (h : PortId) (vf : VfId) (msg : List Byte) (s : State) : Out := s.act (fun b => b.hello h vf msg)

/-- ASCII labels of R304. -/
def lblPrv : List Byte := [0x50, 0x52, 0x56, 0x31]
def lblTok : List Byte := [0x54, 0x4F, 0x4B, 0x31]
def lblAcc : List Byte := [0x41, 0x43, 0x43, 0x31]

/-- The nonce of a context's client. -/
def Ctx.nc (c : Ctx) : List Byte := slice c.hello 8 16
/-- The mac that PROVE must carry (R304). -/
def Ctx.mac (c : Ctx) (key : List Byte) : List Byte := hmac256 key (lblPrv ++ c.hello ++ c.ns ++ leBytes 2 c.id)
/-- The token of the session (R305). -/
def Ctx.newToken (c : Ctx) (key : List Byte) : Nat := field (hmac256 key (lblTok ++ c.nc ++ c.ns ++ leBytes 2 c.id)) 0 4
/-- ACCEPT (R305). -/
def Ctx.accept (c : Ctx) (key : List Byte) (ok : Bool) : List Byte :=
  let tok := if ok then c.newToken key else 0
  let smac := if ok then hmac256 key (lblAcc ++ c.nc ++ c.ns ++ leBytes 2 c.id ++ leBytes 4 tok) else zeros 32
  leBytes 4 0x54504341 ++ [1, 4] ++ leBytes 2 (if ok then 0 else 0x0404) ++ leBytes 2 c.id ++ zeros 2 ++ leBytes 4 tok ++ smac ++ zeros 15 ++ [1]

/-- PROVE names the pending handshake of a context, whose 10 ms have not passed (R304 to R306). -/
def proveFits (c : Ctx) (h : PortId) (vf : VfId) (m : List Byte) (now : Nat) : Bool :=
  !c.isOpen && decide (now < c.since + 250000) && c.port == h && c.vf == vf && c.id == field m 6 2 && c.nc == slice m 8 16

/-- PROVE (R305, R306). -/
def Block.prove (b : Block) (h : PortId) (vf : VfId) (m : List Byte) : Block :=
  if !b.vfLive h vf ∨ m.length ≠ 64 ∨ field m 5 1 ≠ 3 then b
  else match b.host.ctxs.find? (fun c => proveFits c h vf m b.now) with
    | none => b.badHs
    | some c =>
      if field m 0 4 ≠ 0x564F5250 ∨ field m 4 1 ≠ 1 ∨ !allZero (slice m 0x38 8) then b.badHs
      else
        let key := (b.image (vfPart vf)).key
        let ok := slice m 0x18 32 == c.mac key
        let b := b.hostWrite h vf (c.reply + 0x40) (c.accept key ok) false
        if ok then b.modCtx c.id (fun x => { x with isOpen := true, token := BitVec.ofNat 32 (c.newToken key) })
        else (b.freeCtx c.id).modPort h (fun x => { x with
          lockouts := (vf, b.now + 25000) :: x.lockouts.filter (fun q => q.1 != vf) })

/-- PROVE. -/
def execProve (h : PortId) (vf : VfId) (msg : List Byte) (s : State) : Out := s.act (fun b => b.prove h vf msg)

/-- An open-doorbell write that is ignored and counted (R301); a failed read of the message is logged. -/
def execOpenDoorbellIgnored (h : PortId) (vf : VfId) (why : OpenBad) (s : State) : Out :=
  s.act (fun b =>
    if !b.vfLive h vf then b
    else match why with
      | .readFailed => b.badHs.log 0x040D (.port h) none []
      | _ => b.badHs)

/-- A handshake's time runs out (R306): its context is free. -/
def Block.handshakeEnds (b : Block) (ctx : Nat) : Block :=
  match b.ctx? ctx with
  | some c => if c.isOpen then b else (b.advanceTo (c.since + 250000)).freeCtx ctx
  | none => b

/-- HANDSHAKE_EXPIRY. -/
def execHandshakeExpiry (ctx : Nat) (s : State) : Out := s.act (fun b => b.handshakeEnds ctx)

/-- A lockout ends (R306). -/
def Block.lockoutEnds (b : Block) (h : PortId) (vf : VfId) : Block :=
  match (b.port h).lockouts.find? (fun q => q.1 == vf) with
  | some q => (b.advanceTo q.2).modPort h (fun x => { x with lockouts := x.lockouts.filter (fun y => y.1 != vf) })
  | none => b

/-- OPEN_LOCKOUT_EXPIRY. -/
def execOpenLockoutExpiry (h : PortId) (vf : VfId) (s : State) : Out := s.act (fun b => b.lockoutEnds h vf)

/-! ### Doorbells (R309) -/

/-- A free-running 16-bit index less another. -/
def idxDiff (a b : Nat) : Nat := (a + 65536 - b) % 65536

/-- The doorbell's indices are within R309. -/
def Ctx.doorbellOk (c : Ctx) (token : BitVec 32) (cqHead sqTail : Nat) : Bool :=
  c.token == token && decide (idxDiff sqTail c.sqHead ≤ 2 ^ c.sqLog) && decide (idxDiff c.sqTail c.sqHead ≤ idxDiff sqTail c.sqHead) &&
  decide (idxDiff cqHead c.cqHead ≤ idxDiff c.cqTail c.cqHead)

/-- DOORBELL (R309). -/
def Block.doorbell (b : Block) (h : PortId) (vf : VfId) (ctx width : Nat) (v : BitVec 64) : Block :=
  if !b.vfLive h vf then b
  else
    let bad := b.modHost (fun x => { x with dbBad := wrapAdd x.dbBad 1 })
    let cq := v.toNat / 2 ^ 16 % 2 ^ 16
    let sq := v.toNat % 2 ^ 16
    match b.ctx? ctx with
    | none => bad
    | some c =>
      if width ≠ 8 ∨ !c.isOpen ∨ c.port ≠ h ∨ c.vf ≠ vf ∨ !c.doorbellOk (BitVec.ofNat 32 (v.toNat / 2 ^ 32)) cq sq then bad
      else (b.modCtx ctx (fun c => { c with cqHead := cq, sqTail := sq })).scanReady

/-- DOORBELL. -/
def execDoorbell (h : PortId) (vf : VfId) (ctx : Nat) (width : Nat) (v : BitVec 64) (s : State) : Out :=
  s.act (fun b => b.doorbell h vf ctx width v)

/-! ### Descriptors (R308 to R311) -/

def dType (d : List Byte) : Nat := field d 0 1
def dIrq (d : List Byte) : Bool := bitAt (field d 1 1) 0
def dReq (d : List Byte) : Nat := field d 4 4
def dSlot (d : List Byte) : Nat := field d 8 4
def dTensor (d : List Byte) : Nat := field d 0x0C 2
def dRole (d : List Byte) : Nat := field d 0x0E 1
def dAddr (d : List Byte) : Nat := field d 0x10 8
def dLen (d : List Byte) : Nat := field d 0x18 8
def dArg0 (d : List Byte) : Nat := field d 0x20 8
def dArg1 (d : List Byte) : Nat := field d 0x28 8

/-- The fields that a type does not use are 0 (R308). -/
def dUnusedZero (d : List Byte) : Bool :=
  let t := dType d
  let unless' (used : Bool) (v : Nat) : Bool := used || v == 0
  decide (field d 1 1 < 2) && allZero (slice d 2 2) && field d 0x0F 1 == 0 && allZero (slice d 0x30 16) &&
  unless' (t == 2 || t == 3 || t == 4) (dSlot d) && unless' (t == 1) (dTensor d) && unless' (t == 1) (dRole d) &&
  unless' (t == 1 || t == 3 || t == 5 || t == 6) (dAddr d) && unless' (t == 1 || t == 3 || t == 5 || t == 6) (dLen d) &&
  unless' (t == 4 || t == 5) (dArg0 d) && unless' (t == 5) (dArg1 d)

/-- What a descriptor does: it waits, it ends with a status and a slot number, or it goes on and completes later. -/
inductive DescEnd where
  | wait
  | done (b : Block) (status : Nat) (slot : Nat)
  | later (b : Block)

/-- The context takes its next descriptor: the ring entry is consumed. -/
def Block.consume (b : Block) (id : Nat) (expected : Bool) : Block :=
  b.modCtx id (fun c => { c with sqHead := (c.sqHead + 1) % 65536, expReq := if expected then (c.expReq + 1) % 2 ^ 32 else c.expReq })

/-- A descriptor that carried the expected req completes (R315); with req 0xFFFF_FFFF the session closes itself (R310), once a step that the
descriptor lets start has had its turn (R317). -/
def Block.complete (b : Block) (id : Nat) (d : List Byte) (status slot : Nat) : Block :=
  let b := b.postRec id ⟨status, 1, dReq d, slot, 0, 0, [], dIrq d⟩
  let b := if dReq d = 0xFFFFFFFF then b.modCtx id (fun c => { c with closing := some (c.closing.getD (0x040B, none)) }) else b
  (b.scanReady.tryClose id).scanReady

/-- A context can take a descriptor now (R309, R311, R314). -/
def Block.canTake (b : Block) (c : Ctx) : Bool :=
  c.isOpen && c.closing.isNone && c.sqHead != c.sqTail && decide (2 ≤ c.room) && !b.ctxHeld c.id && b.vfLive c.port c.vf

/-- A descriptor of type `ty` that context `id` reads (R310, R311, R319). -/
def Block.descriptor (b : Block) (id ty : Nat) (d : DescRead) (f : Block → Ctx → PartId → List Byte → DescEnd) : Block :=
  match b.ctx? id with
  | none => b
  | some c =>
    if !b.canTake c then b
    else match d with
      | .failed => (((b.consume id false).postRec id (Rec.desc 0x040D 0 false)).tryClose id).scanReady
      | .ok bs =>
        if bs.length ≠ 64 ∨ (dType bs ≠ ty ∧ 1 ≤ dType bs ∧ dType bs ≤ 8) then b
        else if dReq bs ≠ c.expReq then (((b.consume id false).postRec id (Rec.desc 0x040A (dReq bs) (dIrq bs))).tryClose id).scanReady
        else if dType bs ≠ ty ∨ !dUnusedZero bs then (b.consume id true).complete id bs 0x0409 0xFFFFFFFF
        else match f b c (vfPart c.vf) bs with
          | .wait => b
          | .done b status slot => (b.consume id true).complete id bs status slot
          | .later b => b.consume id true

/-- A descriptor that ends with an error and has no other effect. -/
def DescEnd.err (b : Block) (code : Nat) : DescEnd := .done b code 0xFFFFFFFF
/-- A descriptor that ends with status 0. -/
def DescEnd.ok (b : Block) : DescEnd := .done b 0 0xFFFFFFFF

/-! ### Slots (R312 to R314) -/

/-- The least len of a role (R313). -/
def TensorEntry.roleLen (e : TensorEntry) (role : Nat) : Nat :=
  match role with | 0 => e.n * e.gfmt.bytes | 1 => e.n * e.rfmt.bytes | _ => 64
/-- The tensor enables the role. -/
def TensorEntry.hasRole (e : TensorEntry) (role : Nat) : Bool :=
  match role with | 0 => e.gRole | 1 => e.rRole | 2 => e.fRole | _ => false
/-- addr and len meet R313. -/
def TensorEntry.spanOk (e : TensorEntry) (role addr len : Nat) : Bool :=
  addr % 64 == 0 && decide (e.roleLen role ≤ len) && (role != 2 || (decide (len ≤ 2 ^ 32 - 64) && len % 64 == 0))

/-- The slot with a number. -/
def Block.slotNo (b : Block) (n : Nat) : Option SlotRec := b.host.slots.find? (fun s => s.id == n)
/-- A slot changed. -/
def Block.modSlot (b : Block) (n : Nat) (f : SlotRec → SlotRec) : Block := b.modSlots (fun l => l.map (fun s => if s.id == n then f s else s))

/-- CLAIM's effect (R312, R313). -/
def Block.claim (b : Block) (c : Ctx) (p : PartId) (d : List Byte) : DescEnd :=
  let i := b.image p
  let e := i.entry (dTensor d)
  let role := dRole d
  if i.tensors.length ≤ dTensor d ∨ !e.hasRole role then .err b 0x0409
  else if role < 2 ∧ (b.part p).run.isSome then .wait
  else if (b.slotOf p (dTensor d) role).isSome then .err b 0x0406
  else if !e.spanOk role (dAddr d) (dLen d) then .err b 0x0409
  else if b.host.slotsFree = 0 then .err b 0x0408
  else
    let n := lowestFree (b.host.slots.map SlotRec.id) 65536 0
    let s : SlotRec := { id := n, ctx := c.id, part := p, tensor := dTensor d, role := role, addr := dAddr d, len := dLen d, cur := dAddr d
                         armed := none, inUse := none }
    .done (b.modHost (fun x => { x with slots := x.slots ++ [s], slotsFree := x.slotsFree - 1 })).raiseRequests 0 n

/-- CLAIM. -/
def execClaim (ctx : Nat) (d : DescRead) (s : State) : Out := s.act (fun b => b.descriptor ctx 1 d Block.claim)

/-- The slot that a descriptor names, where its context owns it (R312). -/
def Block.ownSlot (b : Block) (c : Ctx) (d : List Byte) : Option SlotRec :=
  match b.slotNo (dSlot d) with | some s => if s.ctx = c.id then some s else none | none => none

/-- RELEASE's effect. -/
def Block.release (b : Block) (c : Ctx) (_p : PartId) (d : List Byte) : DescEnd :=
  match b.ownSlot c d with
  | none => .err b 0x0407
  | some s =>
    if s.inUse.isSome then .wait
    else .ok (b.modHost (fun x => { x with slots := x.slots.filter (fun y => y.id != s.id), slotsFree := x.slotsFree + 1 }))

/-- RELEASE. -/
def execRelease (ctx : Nat) (d : DescRead) (s : State) : Out := s.act (fun b => b.descriptor ctx 2 d Block.release)

/-- POST's effect (R313, R314): for a frame slot `cur` becomes the length armed. -/
def Block.post (b : Block) (c : Ctx) (p : PartId) (d : List Byte) : DescEnd :=
  match b.ownSlot c d with
  | none => .err b 0x0407
  | some s =>
    let e := (b.image p).entry s.tensor
    let addr := if dAddr d = 0 then s.addr else dAddr d
    let len := if dAddr d = 0 then s.len else dLen d
    if dAddr d ≠ 0 ∧ !e.spanOk s.role (dAddr d) (dLen d) then .err b 0x0409
    else match s.role with
      | 0 => if s.armed.isSome then .err b 0x040C else .ok (b.modSlot s.id (fun s => { s with armed := some addr }))
      | 1 => if s.inUse.isSome then .wait else .ok (b.modSlot s.id (fun s => { s with armed := some addr }))
      | _ => .ok (b.modSlot s.id (fun s => { s with armed := some addr, cur := len }))

/-- POST. -/
def execPost (ctx : Nat) (d : DescRead) (s : State) : Out := s.act (fun b => b.descriptor ctx 3 d Block.post)

/-! ### Parcels (R320) -/

/-- What a frame outside any collective is checked against (R320): the tensor entry's values, round 0, not predicted. `bs` picks the factor
of a LOWRANK frame. -/
def PartImage.parcelExp (i : PartImage) (p : PartId) (t : Nat) (room : Nat) (bs : List Byte) : FrameExp :=
  let e := i.entry t
  let q := bitAt (field bs 0x34 4) 7
  let n := if e.method = .lowrank then e.factorN q else e.n
  let k : RKind := if e.method = .lowrank then (if q then .factorQ else .factorP) else .main
  { form := none, partition := p, tensor := t, round := 0, n := n
    uAll := match e.method with | .waggle => kOf (blocksOf e.n) e.select | .codebook => ceilDiv n 128 | _ => blocksOf n
    param := e.kindParam k, predicted := false, blocks := none, room := room }

/-- A rejected frame is logged with the partition, tensor, round and source (R93). -/
def Block.logFrame (b : Block) (code : Nat) (u : EvUnit) (p : PartId) (bs : List Byte) : Block :=
  b.log code u (some p) [field bs 12 2, field bs 14 2, field bs 0x38 4]

/-- A parcel's frame at its destination (R320): checked, and written to the frame slot that it names, or discarded. DESIGN CHOICE (log entry 82): the
write asks for no Relaxed Ordering, since R299 names parcels on neither side and the record that follows must not pass it. -/
def Block.landParcel (b : Block) (p : PartId) (u : EvUnit) (src : Coord) (bs : List Byte) : Block :=
  let t := field bs 12 2
  let lost := b.logPart 0x0414 p []
  match b.slotOf p t 2 with
  | none => lost
  | some s =>
    match s.armed, b.ctx? s.ctx with
    | some a, some c =>
      match checkFrame bs ((b.image p).parcelExp p t s.cur bs) with
      | some code => b.logFrame code u p bs
      | none =>
        if c.room < 2 then lost
        else ((b.hostWrite c.port c.vf a (bs.take (field bs 0x30 4)) false).modSlot s.id (fun s => { s with armed := none })).postRec c.id
          ⟨0, 3, 0, s.id, 0, src.toNat, [], false⟩
    | _, _ => lost

/-- Parcel moves every flit of which has been accepted by its first link complete (R320). -/
def Block.settleParcels (b : Block) : Block :=
  b.host.parcelsOut.foldl (fun b m =>
    if b.unacked (b.ownParcel m.id) then b
    else
      let b := (b.modHost (fun x => { x with parcelsOut := x.parcelsOut.filter (fun y => y.id != m.id) })).modCtx m.ctx
        (fun c => { c with reserved := c.reserved - 1 })
      b.complete m.ctx m.desc 0 0xFFFFFFFF) b

/-- PARCEL's effect (R320). -/
def Block.parcel (frame : HostRead) (b : Block) (c : Ctx) (p : PartId) (d : List Byte) : DescEnd :=
  match b.ownSlot c d with
  | none => .err b 0x0407
  | some s =>
    if s.role ≠ 2 then .err b 0x0409
    else match frame with
      | .failed => .err b 0x040D
      | .ok bs =>
        let dst := coordOf (dArg0 d % 2 ^ 18)
        match checkFrame bs ((b.image p).parcelExp p s.tensor s.len bs) with
        | some code => .err (b.logFrame code (.comb ((b.part p).lastComb)) p bs) code
        | none =>
          if !inGroup (b.part p).vset dst then .err b 0x0413
          else if dst = b.logCoord then .ok (b.landParcel p (.comb ((b.part p).lastComb)) dst bs)
          else
            let len := field bs 0x30 4
            let m : ParcelMove := { id := b.host.nextXfer.toNat, ctx := c.id, desc := d, src := b.logCoord, dst := dst, part := p, total := len
                                    bytes := [(0, bs.take len)], since := b.now }
            let b := b.modHost (fun x => { x with parcelsOut := x.parcelsOut ++ [m], nextXfer := x.nextXfer + 1 })
            .later ((b.modCtx c.id (fun c => { c with reserved := c.reserved + 1 })).sendParcel m)

/-- PARCEL. -/
def execParcel (ctx : Nat) (d : DescRead) (frame : HostRead) (s : State) : Out :=
  s.act (fun b => b.descriptor ctx 4 d (Block.parcel frame))

/-- PARCEL_NO_ROUTE_TIMEOUT (R187): a move of the context with a flit held for want of a route ends with 0x0220. -/
def execParcelNoRouteTimeout (ctx : Nat) (s : State) : Out :=
  s.act (fun b =>
    match b.host.parcelsOut.find? (fun m => m.ctx == ctx && b.heldFlits.any (fun h => b.ownParcel m.id h.2.1)) with
    | none => b
    | some m =>
      let b := (b.advanceTo (m.since + (b.part m.part).timeout.eff)).dropParcel m.id
      let b := (b.modHost (fun x => { x with parcelsOut := x.parcelsOut.filter (fun y => y.id != m.id) })).modCtx ctx
        (fun c => { c with reserved := c.reserved - 1 })
      b.complete ctx m.desc 0x0220 0xFFFFFFFF)

/-! ### Codebook loads (R139 to R141, R321) -/

/-- Some byte of a span has been written by the load. -/
def Codebook.overlaps (x : Codebook) (off len : Nat) : Bool := x.mem.any (fun q => decide (off ≤ q.1) && decide (q.1 < off + len))

/-- The codebook as a load begins (R139). -/
def Codebook.begin (ctx : Nat) : Codebook := { Codebook.reset with st := .loading, owner := some ctx }

/-- A load is under way. -/
def Codebook.busy (x : Codebook) : Bool := (x.st == .loading || x.st == .hashing) && x.owner.isSome

/-- CBLOAD's effect (R321). -/
def Block.cbload (data : HostRead) (b : Block) (c : Ctx) (p : PartId) (d : List Byte) : DescEnd :=
  let i := b.image p
  let cb := (b.part p).cb
  let first := bitAt (dArg1 d) 0
  let last := bitAt (dArg1 d) 1
  if dLen d % 16 ≠ 0 ∨ dArg0 d % 16 ≠ 0 ∨ 80 * i.cbE < dArg0 d + dLen d ∨ i.cbE = 0 ∨ 4 ≤ dArg1 d then .err b 0x0409
  else if (b.part p).run.isSome then .wait
  else if cb.busy ∧ cb.owner ≠ some c.id then .err b 0x040E
  else if !first ∧ !(cb.st == .loading && cb.owner == some c.id) then .err b 0x0409
  else match data with
    | .failed => .err b 0x040D
    | .ok bs =>
      let x := if first then Codebook.begin c.id else cb
      let bs := padTo (dLen d) bs
      let x := { x with twice := x.twice || x.overlaps (dArg0 d) (dLen d), written := x.written + dLen d
                        mem := Mem.store none x.mem (dArg0 d) bs }
      if last then
        .later ((b.modPart p (fun y => { y with cb := { x with st := .hashing, last := some (c.id, d) } })).modCtx c.id
          (fun c => { c with reserved := c.reserved + 1 }))
      else .ok (b.modPart p (fun y => { y with cb := x }))

/-- CBLOAD. -/
def execCbload (ctx : Nat) (d : DescRead) (data : HostRead) (s : State) : Out := s.act (fun b => b.descriptor ctx 5 d (Block.cbload data))

/-- CODEBOOK_HASH_COMPLETE (R140). DESIGN CHOICE (log entry 78): an entry that the hash cannot read matches no digest, since no uncorrectable sector is
used as data (R403). -/
def Block.hashDone (b : Block) (p : PartId) (errs : List MemErr) : Block :=
  let i := b.image p
  let cb := (b.part p).cb
  if cb.st ≠ .hashing then b
  else
    let n := 80 * i.cbE
    let d := b.demand errs (fun q => match q.1 with | .cbk p' => p' == p | _ => false)
    let b := d.1
    let status := if cb.written ≠ n ∨ cb.twice then 0x0581
      else if d.2.isEmpty ∧ sha384 (Mem.bytes none cb.mem 0 n) = i.cbDigest then 0 else 0x0580
    let b := b.modPart p (fun y => { y with cb := { cb with st := if status = 0 then .accepted else .rejected, owner := none, last := none } })
    let b := if status = 0 then b else b.logPart status p []
    match cb.last with
    | some (id, d) => (b.modCtx id (fun c => { c with reserved := c.reserved - 1 })).complete id d status 0xFFFFFFFF
    | none => b.scanReady

/-- CODEBOOK_HASH_COMPLETE. -/
def execCodebookHashComplete (p : PartId) (errs : List MemErr) (s : State) : Out := s.act (fun b => b.hashDone p errs)

/-! ### Spill space (R322 to R324) -/

/-- SPILL_ADD's effect (R322). -/
def Block.spillAdd (b : Block) (c : Ctx) (p : PartId) (d : List Byte) : DescEnd :=
  if dAddr d % 64 ≠ 0 ∨ dLen d = 0 ∨ dLen d % 16448 ≠ 0 then .err b 0x0409
  else if (b.part p).spill.isSome then .err b 0x040E
  else
    let y : Spill :=
      { addr := dAddr d, recs := dLen d / 16448, port := c.port, vf := c.vf, broken := false, kept := [], writing := none }
    .ok (b.modPart p (fun x => { x with spill := some y }))

/-- SPILL_ADD. -/
def execSpillAdd (ctx : Nat) (d : DescRead) (s : State) : Out := s.act (fun b => b.descriptor ctx 6 d Block.spillAdd)

/-- Every page that is paged out comes back in turn (R324). -/
def Block.pageAllIn (p : PartId) (errs : List MemErr) : List HostRead → Nat → Block → Block
  | _, 0, b => b
  | rs, n + 1, b =>
    match (sortBy Page.before ((b.part p).pages.filter (fun q => q.spilled.isSome))).head?, (b.part p).makeRoom (b.image p).share with
    | some q, some x => Block.pageAllIn p errs (rs.drop 1) n ((b.setPart p x).pageData p q (rs.headD .failed) errs)
    | _, _ => b

/-- SPILL_REMOVE's effect (R324): a share below the demand cannot hold every page (the corner ruling on S_p < D_p). -/
def Block.spillRemove (recs : List HostRead) (errs : List MemErr) (b : Block) (_c : Ctx) (p : PartId) (_d : List Byte) : DescEnd :=
  let x := b.part p
  match x.spill with
  | none => .ok b
  | some s =>
    if x.run.isSome ∨ s.writing.isSome then .wait
    else if (b.image p).share < (b.image p).demand then .err b 0x040F
    else .ok ((Block.pageAllIn p errs recs x.pages.length b).modPart p (fun x => { x with spill := none }))

/-- SPILL_REMOVE. -/
def execSpillRemove (ctx : Nat) (d : DescRead) (recs : List HostRead) (errs : List MemErr) (s : State) : Out :=
  s.act (fun b => b.descriptor ctx 7 d (Block.spillRemove recs errs))

/-- A partition's spill space is removed at once (R324): what was paged out is poisoned, in both copies. -/
def Block.dropSpill (b : Block) (p : PartId) : Block :=
  let x := b.part p
  let nb (t : Nat) : Nat := blocksOf ((b.image p).entry t).n
  let b := (x.pages.filter (fun q => q.spilled.isSome)).foldl (fun b q =>
    ((List.range 16).filter (fun k => decide (16 * q.page + k < nb q.tensor))).foldl (fun b k =>
      (b.poisonBlock p q.tensor false (16 * q.page + k)).poisonBlock p q.tensor true (16 * q.page + k)) b) b
  b.modPart p (fun x => { x with spill := none, pages := x.pages.filter (fun q => q.spilled.isNone), pageQ := [] })

/-! ### Closing and resets of a port (R317, R324, R397) -/

/-- CLOSE's effect (R317): the session closes once nothing it uses is in use. -/
def Block.closeDesc (b : Block) (c : Ctx) (_p : PartId) (d : List Byte) : DescEnd :=
  .later (b.modCtx c.id (fun c => { c with closing := some (0, some d) }))

/-- CLOSE. -/
def execClose (ctx : Nat) (d : DescRead) (s : State) : Out := s.act (fun b => (b.descriptor ctx 8 d Block.closeDesc).tryClose ctx)

/-- Contexts that pass `f` are closed at once, after the common abort of the steps that use their slots (R317). -/
def Block.closeFunctions (b : Block) (f : PortId → VfId → Bool) : Block :=
  let ids := (b.host.ctxs.filter (fun c => f c.port c.vf)).map Ctx.id
  let b := allParts.foldl (fun b p =>
    if b.host.slots.any (fun s => s.part == p && s.inUse.isSome && ids.contains s.ctx) then
      (match b.run? p with | some r => b.originate p 0x0411 r.next | none => b) else b) b
  ids.foldl (fun b id => b.cutCtx id) b

/-- A reset of the functions that pass `f`: their contexts close, and spill spaces registered through them go (R317, R324). -/
def Block.resetFunctions (b : Block) (f : PortId → VfId → Bool) : Block :=
  let b := b.closeFunctions f
  let b := allParts.foldl (fun b p => match (b.part p).spill with
    | some s => if f s.port s.vf then b.dropSpill p else b
    | none => b) b
  b.scanReady

/-- The log entry of a port reset (R397). -/
def Block.logReset (b : Block) (h : PortId) (kind vf : Nat) : Block := b.log 0x0551 (.port h) none [kind, vf]

/-- A reset of a port (R397), which has no further effect in a KT in which the chip was reset (R394). -/
def Block.portReset (b : Block) (h : PortId) (kind vf : Nat) (f : Block → Block) : Block :=
  if b.resetActs 5 then f (b.logReset h kind vf) else b

/-- FUNCTION_LEVEL_RESET_VF (R317, R397). -/
def execFunctionLevelResetVf (h : PortId) (vf : VfId) (s : State) : Out :=
  s.act (fun b => b.portReset h 4 (vf.val + 1) (fun b => b.resetFunctions (fun p v => p == h && v == vf)))

/-- A port's SR-IOV capability returns to its reset value, so that no VF exists. -/
def Block.clearSriov (b : Block) (h : PortId) : Block := b.modPort h (fun x => { x with vfEnable := false, numVfs := 0 })

/-- FUNCTION_LEVEL_RESET_PF (R317, R397). -/
def execFunctionLevelResetPf (h : PortId) (s : State) : Out :=
  s.act (fun b => b.portReset h 3 0 (fun b => (b.resetFunctions (fun p _ => p == h)).clearSriov h))

/-- The port's link leaves L0 (R431). -/
def Block.linkLost (b : Block) (h : PortId) : Block :=
  b.modPort h (fun x => { x with linkDown := true, downAt := some b.now, linkUp := false, width := 0, speed := 0, flit := false })

/-- HOT_RESET (R397). -/
def execHotReset (h : PortId) (s : State) : Out :=
  s.act (fun b => b.portReset h 2 0 (fun b => ((b.resetFunctions (fun p _ => p == h)).clearSriov h).linkLost h))

/-- FUNDAMENTAL_RESET (R397). -/
def execFundamentalReset (h : PortId) (s : State) : Out :=
  s.act (fun b => b.portReset h 1 0 (fun b => ((b.resetFunctions (fun p _ => p == h)).clearSriov h).linkLost h))

/-- VF_ENABLE (R296): VFs that cease to exist close as under their own reset. -/
def execVfEnable (h : PortId) (enable : Bool) (numVfs : BitVec 16) (s : State) : Out :=
  s.act (fun b =>
    let n := if enable then numVfs.toNat else 0
    if 128 < numVfs.toNat ∨ !(b.port h).linkUp then b
    else (b.modPort h (fun x => { x with vfEnable := enable, numVfs := numVfs.toNat })).resetFunctions
      (fun p v => p == h && decide (n ≤ v.val)))

/-- PCIE_LINK_DOWN (R431). -/
def execPcieLinkDown (h : PortId) (s : State) : Out := s.act (fun b => if (b.port h).linkUp then b.linkLost h else b)

/-- PCIE_LINK_UP (R296, R431): the widths and speeds that R431 names, from phase 3 on (R357). -/
def execPcieLinkUp (h : PortId) (width : Nat) (speed : Nat) (flit : Bool) (s : State) : Out :=
  s.act (fun b =>
    let early := b.boot.phase == .none || b.boot.phase == .straps
    if width ∉ [1, 2, 4, 8, 16] ∨ speed < 1 ∨ 6 < speed ∨ early ∨ b.inReset ∨ (b.port h).linkUp then b
    else b.modPort h (fun x => { x with linkUp := true, width := width, speed := speed, flit := flit }))

end Sys2Proof.Machine
end

