-- ==== Sys2Proof/Machine/Remap.lean ====
section
/-! DEFINITION. The coordinate remap table: records and their checks (R189, R190), what an applied record changes (R112, R194, R195, R389),
and the management tunnel that carries records and generation reports (R190, R191, R204). -/

namespace Sys2Proof.Machine
open Sys2Proof

/-! ### Records (R189) -/

/-- A record whose fields lie within Table: Remap record. -/
def RemapRec.parse (bs : List Byte) : Option RemapRec :=
  let r : RemapRec := { gen := field bs 0 4, kind := field bs 4 1, dim := field bs 5 1, value := field bs 6 1, logical := field bs 8 4
                        physical := field bs 0x0C 4 }
  let ok := match r.kind with
    | 1 => r.dim == 0 && r.value == 0 && decide (r.logical < 2 ^ 18) && decide (r.physical < 2 ^ 18)
    | 2 => r.dim == 0 && r.value == 0 && decide (r.logical < 2 ^ 18) && r.physical == 0
    | 3 => decide (r.dim ≤ 5) && decide (r.value ≤ 7) && r.logical == 0 && r.physical == 0
    | _ => false
  if bs.length = 16 ∧ field bs 7 1 = 0 ∧ 1 ≤ r.gen ∧ ok = true then some r else none

/-- The 16 bytes of a record. -/
def RemapRec.bytes (r : RemapRec) : List Byte :=
  leBytes 4 r.gen ++ [byteOf r.kind, byteOf r.dim, byteOf r.value, 0] ++ leBytes 4 r.logical ++ leBytes 4 r.physical

/-- The lowest entry number that is free below `n` (R422). -/
def freeEntry (used : List Nat) (n : Nat) : Option Nat := (List.range n).find? (fun i => !used.contains i)

/-- The table with a record applied; none where the record is invalid or finds the table full (R189, R190, R422). -/
def Remap.applied (t : Remap) (desc : Nat) (r : RemapRec) : Option Remap :=
  let l := coordOf r.logical
  let q := coordOf r.physical
  let s := descSpareDim desc
  let t1 := { t with gen := r.gen, kept := (t.kept ++ [r]).drop (t.kept.length - 15) }
  match r.kind with
  | 1 =>
    let v := Coord.digit q s
    if !withinLogical desc l ∨ diffDims l q ≠ [s] ∨ v < descLogical desc s ∨ descPhysical desc s ≤ v ∨
        t.assumes.any (fun a => a.physical == q || a.logical == l) then none
    else (freeEntry (t.assumes.map Assume.idx) 256).map (fun i => { t1 with assumes := t.assumes ++ [⟨i, l, q⟩] })
  | 2 =>
    if t.assumes.any (fun a => a.logical == l) then some { t1 with assumes := t.assumes.filter (fun a => a.logical != l) } else none
  | 3 =>
    if descLogical desc r.dim ≤ r.value ∨ t.excludes.any (fun e => e.dim == r.dim && e.value == r.value) then none
    else (freeEntry (t.excludes.map Exclude.idx) 48).map (fun i => { t1 with excludes := t.excludes ++ [⟨i, r.dim, r.value⟩] })
  | _ => none

/-! ### The management tunnel -/

/-- A tunnel message to the partner on link `l` (R203, R204). -/
def Block.sendTunnel (b : Block) (l : LinkId) (ty : Nat) (payload : List Byte) : Block :=
  let h := headBytes 4 payload.length (partnerCoord b.boot.physCoord l) b.boot.physCoord 0 0 false (byteOf ty :: zeros 15)
  b.modLink l (fun x => x.enqueue 4 128 h payload)

/-- The generation report that opens a link's service (R191). -/
def Block.sendReportGen (b : Block) (l : LinkId) : Block := b.sendTunnel l 2 (leBytes 4 b.remap.gen)

/-- A record goes once over every link in service (R190). -/
def Block.floodRecord (b : Block) (r : RemapRec) : Block :=
  allLinks.foldl (fun b l => if (b.link l).st = .inService then b.sendTunnel l 1 r.bytes else b) b

/-! ### What a record changes -/

/-- A group without value `v` in dimension `d` (R195). -/
def vsetDrop (s : VSet) (d v : Nat) : VSet :=
  Vector.ofFn (fun (k : Fin 6) => if k.val = d then (s.toList.getD k.val 0) &&& ~~~ (BitVec.ofNat 8 (2 ^ v)) else s.toList.getD k.val 0)

/-- The effect of the table on the partitions: groups shrink by EXCLUDE (R195); a chip that comes into a group joins (R194), and a spare that has
just taken a coordinate holds an Empty codebook. -/
def Block.remapped (b : Block) (t : Remap) (r : RemapRec) : Block :=
  let was := b
  let b := { b with remap := t }
  let b := if r.kind = 3 then { b with parts := b.parts.map (fun x => { x with vset := vsetDrop x.vset r.dim r.value }) } else b
  let b := { b with parts := Vector.ofFn (fun (p : PartId) =>
    let x := b.part p
    if b.placed p && !was.placed p then
      { x with joining := true, cb := if b.assumed.isSome && was.assumed.isNone then Codebook.reset else x.cb }
    else x) }
  b

/-- The next record in turn is applied, or refused (R190); held records follow. `fuel` bounds the turns. -/
def Block.remapTurn : Nat → Block → RemapRec → Block
  | 0, b, _ => b
  | n + 1, b, r =>
    match b.remap.applied b.boot.machine r with
    | none => b.log 0x0134 .kettle none []
    | some t =>
      let b := (b.remapped t r).floodRecord r
      match b.remap.held.find? (fun q => q.gen == r.gen + 1) with
      | none => b
      | some q => Block.remapTurn n { b with remap := { b.remap with held := b.remap.held.filter (fun y => y.gen != q.gen) } } q

/-- A remap record arrives (R190), by the MSP or the tunnel; only a chip that has reached Ready has a table (R188, R358). -/
def Block.remapTake (b : Block) (bs : List Byte) : Block :=
  if b.boot.phase ≠ .ready then b
  else match RemapRec.parse bs with
    | none => b.log 0x0134 .kettle none []
    | some r =>
      if r.gen ≤ b.remap.gen then b
      else if r.gen = b.remap.gen + 1 then (((b.remapTurn 17 r).judgeGen).releaseHeld.raiseRequests).scanReady
      else match b.remap.held.find? (fun q => q.gen == r.gen) with
        | some q => if q = r then b else b.log 0x0134 .kettle none []
        | none =>
          if 16 ≤ b.remap.held.length then b.log 0x0134 .kettle none []
          else { b with remap := { b.remap with held := b.remap.held ++ [r] } }

/-! ### Arrivals on the tunnel -/

/-- Flits of the sequenced space meet the link (R210, R211): the block with the link's answer, and the messages that are now accepted whole. Slots
of a message end Simmer and count as traffic (R390). -/
def Block.arriveSeq (b : Block) (l : LinkId) (cls : Nat) (rx : RxMsg) : Block × List (List Byte × List Byte) :=
  let b := (b.simmerExit l).busyGroup l
  let a := (b.link l).arrive cls rx
  let b := b.setLink l a.link
  (match a.leave with | some code => b.leaveService l code false | none => b, a.whole)

/-- An accepted message with this body has left its ingress buffer (R215). -/
def Block.giveBack (b : Block) (l : LinkId) (cls : Nat) (body : List Byte) : Block :=
  b.modLink l (fun x => x.giveBack cls (1 + ceilDiv body.length 64))

/-- The head of the message that arriving flits of class `cls` belong to. -/
def Block.flitHead (b : Block) (l : LinkId) (cls : Nat) (rx : RxMsg) : List Byte :=
  if rx.skip = 0 then rx.head else match (b.link l).rx.partOf cls with | some p => p.head | none => rx.head

/-- A tunnel message of type `ty` for this chip (R190, R191); one of another type is no event of this kind. -/
def Block.tunnel (b : Block) (l : LinkId) (ty : Nat) (rx : RxMsg) (f : Block → List Byte → Block) : Block :=
  let h := b.flitHead l 4 rx
  if b.inReset ∨ (field h 0x10 1 ≠ ty ∧ headOk 4 h) then b
  else
    let a := b.arriveSeq l 4 rx
    a.2.foldl (fun b q =>
      let b := b.giveBack l 4 q.2
      if hdDst q.1 = b.boot.physCoord then f b q.2 else b.relayMsg 128 q.1 q.2) a.1

/-- A generation report (R191): the end that is ahead sends every record the other lacks that it still keeps. -/
def Block.genReport (b : Block) (l : LinkId) (bs : List Byte) : Block :=
  let g := field bs 0 4
  let b := b.modLink l (fun x => { x with rx := { x.rx with peerGen := some g } })
  let b := (b.remap.kept.filter (fun r => decide (g < r.gen))).foldl (fun b r => b.sendTunnel l 1 r.bytes) b
  b.judgeGen.scanReady

/-- A remap record of kind `kind` from where it comes (R190, R373). -/
def Block.remapFrom (b : Block) (kind : Nat) (src : RemapSrc) : Block :=
  match src with
  | .msp bs =>
    if bs.length ≠ 16 ∨ field bs 4 1 ≠ kind then b
    else
      b.onMsp (fun b =>
        let b := b.mspBegin
        if b.msp.session then (b.remapTake bs).mspEnd 0 [] else b.mspEnd 1 [])
  | .tunnel l rx => if rx.body.isEmpty ∨ field rx.body 4 1 = kind then b.tunnel l 1 rx Block.remapTake else b

/-- REMAP_ASSUME. -/
def execRemapAssume (src : RemapSrc) (s : State) : Out := s.act (fun b => b.remapFrom 1 src)
/-- REMAP_RELEASE. -/
def execRemapRelease (src : RemapSrc) (s : State) : Out := s.act (fun b => b.remapFrom 2 src)
/-- REMAP_EXCLUDE. -/
def execRemapExclude (src : RemapSrc) (s : State) : Out := s.act (fun b => b.remapFrom 3 src)
/-- TUNNEL_GENERATION_REPORT. -/
def execTunnelGenerationReport (l : LinkId) (rx : RxMsg) (s : State) : Out := s.act (fun b => b.tunnel l 2 rx (fun b bs => b.genReport l bs))

end Sys2Proof.Machine
end

