-- ==== Sys2Proof/Machine/ResetOps.lean ====
section
/-! DEFINITION. What the resets keep and lose (R394 to R396, R417), the thermal trip's release (R454), and the fuses through a reset
(R395). -/

namespace Sys2Proof.Machine
open Sys2Proof

/-- A link after a reset: the stored coefficients stay where `keep` says so (R395). -/
def Link.afterReset (x : Link) (keep : Bool) : Link :=
  { Link.reset with tr := { LinkTrain.reset with coeffs := keep && x.tr.coeffs } }

/-- Every die sensor reads below 100 °C (R454). -/
def Block.dieCool (b : Block) : Bool := b.kettle.dieTemp.toList.all (fun t => decide (t < 100))

/-- A thermal trip is released by a reset that ends while every sensor reads below 100 °C (R454). -/
def Block.releaseTrip (b : Block) : Block :=
  if b.dieCool then { b with kettle := { b.kettle with thermTrip := false } } else b

/-- The entry of this KT's reset names the source that acts in place of the one that logged it (R394). -/
def Block.amendReset (b : Block) (cause : Nat) : Block :=
  { b with evl := { b.evl with entries := b.evl.entries.map (fun x =>
      if x.code = 0x0550#16 ∧ x.kt = b.now then { x with detail := detailWords [cause] } else x) } }

/-- The source of a non-Kettle reset is recorded (R394, R396 step 1): in an entry of its own, or in that of the source it takes over from. -/
def Block.resetRecorded (b : Block) (cause prec : Nat) : Block :=
  let b := if b.resetNow.isSome then b.amendReset cause else b.log 0x0550 .kettle none [cause]
  { b with kettle := { b.kettle with resetCause := BitVec.ofNat 4 cause, rstAt := some (b.now, prec) } }

/-- The non-Kettle domains at their reset values (R395, R396, R417); the Kettle's own state stays. The NVM port drives nothing outside a
start (R344); a fetch that was due stays due until the layout writes the program copies (R358, R417). -/
def Block.clearDomains (b : Block) (keepCoeffs : Bool) : Block :=
  Block.rebase { b with
    kettle := { b.kettle with haltCode := 0, stopped := false, ending := true }
    boot := { Boot.reset with physCoord := b.boot.physCoord, anchored := b.boot.anchored, code := b.boot.code, detail := b.boot.detail
                              nvmCfg := b.boot.nvmCfg }
    nvm := { b.nvm with busy := false }
    remap := Remap.reset, combs := Vector.replicate 4 Comb.reset
    links := b.links.map (fun x => x.afterReset keepCoeffs), parts := Vector.replicate 128 Part.reset, host := HostSt.reset
    hbm := Hbm.reset, pwr := PwrSt.reset, mirrors := Mirrors.reset, hcbFree := 24576, frozen := none, hcbResErr := 0, hcbSramCorr := 0
    heldFlits := [], ready := [], resets := b.resets + 1 }

/-- A non-Kettle reset from the source `cause` of precedence `prec` (R394, R396): start-up may begin 250 KT later. -/
def Block.nonKettleReset (b : Block) (cause prec : Nat) : Block :=
  let b := (b.resetRecorded cause prec).clearDomains true
  { b with kettle := { b.kettle with startAt := b.now + 250 } }

/-- A Kettle reset (R394, R395): the KT counter from 0, the event log cleared, sessions and lockouts gone, coefficients lost. A Kettle
power-on also resets the test access port (R455). -/
def Block.kettleReset (b : Block) (powerOn : Bool) : Block :=
  let b := b.clearDomains false
  Block.rebase { b with
    kettle := { Kettle.reset with rstLow := b.kettle.rstLow, railBad := b.kettle.railBad, thermTrip := b.kettle.thermTrip
                                  dieTemp := b.kettle.dieTemp, rstAt := some (0, if powerOn then 1 else 2) }
    boot := Boot.reset, msp := Msp.reset, evl := Evl.reset, nvm := Nvm.reset, scanAt := 0, tap := if powerOn then Tap.reset else b.tap }

/-- Bytes of a fuse bank with more bits burnt: a burnt bit stays burnt (R395). -/
def burnOver (old new : List Byte) : List Byte := (old.zip (new ++ zeros old.length)).map (fun q => q.1 ||| q.2)

/-- A Kettle reset meets a burn (R395): the bank's set flag is burnt last, so it stays unset; which bits were burnt is a free value. -/
def Fuses.cut (f : Fuses) (n : Nat) : Fuses :=
  match f.busy with
  | none => { f with data := Vector.replicate 12 0 }
  | some (code, bs) =>
    let part := bs.zipIdx.map (fun q => q.1 &&& Config.burntBits n q.2)
    let f := { f with busy := none, data := Vector.replicate 12 0 }
    if code = 0x0000A5D1#32 then { f with pwd := burnOver f.pwd part } else { f with anchor := burnOver f.anchor part }

/-- A burn ends (R372). -/
def Fuses.burnt (f : Fuses) : Fuses :=
  match f.busy with
  | none => f
  | some (code, bs) =>
    let f := { f with busy := none, data := Vector.replicate 12 0 }
    if code = 0x0000A5D1#32 then { f with pwd := burnOver f.pwd bs, pwdSet := true }
    else { f with anchor := burnOver f.anchor bs, anchorSet := true }

end Sys2Proof.Machine
end

