-- ==== Sys2Proof/Machine/RegWrites.lean ====
section
/-! DEFINITION. Writes through the management port: what a write of each register does (R372, R373, R410, R411, R419, R421 to R436), the
burst of MSP WRITE (R367, R368, R373), and the rows of the table that are one write. -/

namespace Sys2Proof.Machine
open Sys2Proof

/-! ### Control registers (R377, R419) -/

/-- A request recorded (R377). -/
def Ctl.request (c : Ctl) (v : Nat) : Ctl := { c with shown := v, pend := true }
/-- A request honoured. -/
def Ctl.honoured (c : Ctl) : Ctl := { c with eff := c.shown, pend := false }
/-- A request withdrawn by the value none (R419). -/
def Ctl.withdrawn (c : Ctl) : Ctl := { c with shown := 0, pend := false }

/-- A comb leaves service with no step to finish (R331); the last one stops the chip (R333). -/
def Block.releaseIdle (b : Block) (c : CombId) : Block :=
  let b := b.modComb c (fun x => { x with svc := .released, pwr := .cold, entering := none, waking := false, store := none })
  if allCombs.all (fun c => (b.comb c).svc == .released || (b.comb c).svc == .failed) then b.halt 0x0341 [(0x0341, .comb c, [])] else b

/-- A write of CMB_CTRL (R377, R419): none withdraws, release and return are recorded. -/
def Block.writeCmbCtrl (b : Block) (c : CombId) (v : Nat) : Block :=
  match v % 4 with
  | 0 => b.modComb c (fun x => { x with ctrl := x.ctrl.withdrawn })
  | 3 => b
  | k => b.modComb c (fun x => { x with ctrl := x.ctrl.request k })

/-- A comb's request at the KT after its write (R331, R334, R377, R426): a release waits for the end of a running step; a comb that is
already where the request puts it does not change. -/
def Block.honourComb (b : Block) (c : CombId) : Block :=
  let x := b.comb c
  if !x.ctrl.pend ∨ (x.ctrl.shown = 1 ∧ x.svc = .running) then b
  else
    let b := b.setComb c { x with ctrl := x.ctrl.honoured }
    if x.ctrl.shown = 1 ∧ x.svc = .idle then (b.releaseIdle c).scanReady
    else if x.ctrl.shown = 2 ∧ (x.svc = .released ∨ x.svc = .failed) ∧ !x.waking ∧ b.serving then
      b.modComb c (fun x => { x with waking := true, due := b.now + 10000 })
    else b

/-- A write of LNK_CTRL (R377, R429): take-out and bring-back are recorded with the partitions whose fences they wait for. -/
def Block.writeLnkCtrl (b : Block) (l : LinkId) (v : Nat) : Block :=
  let x := b.link l
  match v % 4 with
  | 0 => b.setLink l { x with ctrl := x.ctrl.withdrawn, tr := { x.tr with ctrlWait := [] } }
  | 3 => b
  | k => b.setLink l { x with ctrl := x.ctrl.request k, tr := { x.tr with ctrlWait := b.linkParts l } }

/-- A write of PRT_LINK_WEIGHT (R341, R430). -/
def Block.writeWeight (b : Block) (p : PartId) (v : Nat) : Block :=
  if !b.defined p ∨ v % 256 = 0 then b else b.modPart p (fun x => { x with weight := x.weight.request (v % 256) })

/-- A write of PRT_COLL_TIMEOUT (R247, R430). -/
def Block.writeTimeout (b : Block) (p : PartId) (v : Nat) : Block :=
  let t := v % 2 ^ 28
  if !b.defined p ∨ t < 1250 ∨ 250000000 < t then b else b.modPart p (fun x => { x with timeout := x.timeout.request t })

/-- One field of a power configuration written: the request is recorded (R377, R419); a floor of 0 is out of range. -/
def PwrCfg.write (k : PwrCfg) (f : PwrField) (v : Nat) : PwrCfg :=
  match f with
  | .floor => if v % 4 = 0 then k else { k with floor := k.floor.request (v % 4) }
  | .warm => { k with warm := k.warm.request (v % 2 ^ 31) }
  | .cold => { k with cold := k.cold.request (v % 2 ^ 31) }

/-- The requests of a power configuration honoured, at the KT after their write (R419). -/
def PwrCfg.honoured (k : PwrCfg) : PwrCfg := { floor := k.floor.honoured, warm := k.warm.honoured, cold := k.cold.honoured }

/-- An idle comb in service that is deeper than its floor wakes to the floor (R436). -/
def Comb.toFloor (x : Comb) (floor : Nat) : Comb :=
  if x.svc = .idle ∧ floor < x.pwr.code then { x with pwr := Pwr.ofCode floor } else x

/-- A write of PWR_COMB_CFG(c), PWR_COMB_WARM(c) or PWR_COMB_COLD(c). -/
def Block.writePwrComb (b : Block) (c : CombId) (f : PwrField) (v : Nat) : Block :=
  { b with pwr := { b.pwr with combCfg := b.pwr.combCfg.set c ((b.pwr.combCfg[c]).write f v) } }

/-- A write of PWR_LNK_CFG(d), PWR_LNK_WARM(d) or PWR_LNK_COLD(d). -/
def Block.writePwrLnk (b : Block) (d : DimId) (f : PwrField) (v : Nat) : Block :=
  { b with pwr := { b.pwr with lnkCfg := b.pwr.lnkCfg.set d ((b.pwr.lnkCfg[d]).write f v) } }

/-- A comb's power requests take effect at the next KT (R419, R436). -/
def Block.honourPwrComb (b : Block) (c : CombId) : Block :=
  let k := (b.pwr.combCfg[c]).honoured
  ({ b with pwr := { b.pwr with combCfg := b.pwr.combCfg.set c k } }).modComb c (fun x => x.toFloor k.floor.eff)

/-- A link group's power requests take effect at the next KT: a group that requests, and links parked, deeper than the floor rise to it
(R419, R436). -/
def Block.honourPwrLnk (b : Block) (d : DimId) : Block :=
  let k := (b.pwr.lnkCfg[d]).honoured
  let b := { b with pwr := { b.pwr with lnkCfg := b.pwr.lnkCfg.set d k } }
  let x := Pwr.ofCode k.floor.eff
  if !b.serving then b
  else (groupLinks d).foldl (fun b l => b.modLink l (fun y => if y.parked ∧ x.code < y.pwr.code then { y with pwr := x } else y)) (b.raiseGroup d x)

/-! ### Fuses (R372) -/

/-- The bytes staged in KTL_FUSE_DATA0 to KTL_FUSE_DATA(n − 1). -/
def Fuses.staged (f : Fuses) (n : Nat) : List Byte := (f.data.toList.take n).flatMap (fun w => leBytes 4 w.toNat)

/-- A write of KTL_FUSE_PROG: the fuses, and the fault of a refused code. -/
def Fuses.program (f : Fuses) (v now : Nat) : Fuses × Nat :=
  if v = 0xA5D1 then
    if f.pwdSet ∨ f.busy.isSome then (f, 7) else ({ f with busy := some (0x0000A5D1, f.staged 8), burnAt := now }, 0)
  else if v = 0xA5D2 then
    if f.anchorSet ∨ f.busy.isSome then (f, 7) else ({ f with busy := some (0x0000A5D2, f.staged 12), burnAt := now }, 0)
  else (f, 0)

/-! ### The register map -/

/-- Writes of a comb's registers (R425). -/
def Block.writeCmb (b : Block) (c : CombId) (o v : Nat) : Block :=
  if o = 0x04 then b.writeCmbCtrl c v
  else if o = 0x44 then
    let w := BitVec.ofNat 16 v
    let b := b.count c (fun x => { x with sramCorr := rewritten x.sramCorr b.base.sram[c] w })
    { b with base := { b.base with sram := b.base.sram.set c w } }
  else b

/-- Writes of the HCB block (R427). -/
def Block.writeHcb (b : Block) (o v : Nat) : Block :=
  let w := BitVec.ofNat 16 v
  if o = 0x08 then { b with hcbResErr := rewritten b.hcbResErr b.base.hcbRes w, base := { b.base with hcbRes := w } }
  else if o = 0x0C then { b with hcbSramCorr := rewritten b.hcbSramCorr b.base.hcbSram w, base := { b.base with hcbSram := w } }
  else b

/-- Writes of a link's registers (R428). -/
def Block.writeLnk (b : Block) (l : LinkId) (o v : Nat) : Block :=
  let k := b.base.links[l]
  let cnt (f : LinkCnt → LinkCnt) (k : LinkCnt) : Block :=
    { b.modLink l (fun x => { x with cnt := f x.cnt }) with base := { b.base with links := b.base.links.set l k } }
  let w := BitVec.ofNat 16 v
  if o = 0x04 then b.writeLnkCtrl l v
  else if o = 0x28 then cnt (fun c => { c with fecCorr := rewritten c.fecCorr k.fecCorr w }) { k with fecCorr := w }
  else if o = 0x2C then cnt (fun c => { c with fecUncorr := rewritten c.fecUncorr k.fecUncorr w }) { k with fecUncorr := w }
  else if o = 0x30 then cnt (fun c => { c with crcErr := rewritten c.crcErr k.crcErr w }) { k with crcErr := w }
  else if o = 0x34 then cnt (fun c => { c with trainFail := rewritten c.trainFail k.trainFail w }) { k with trainFail := w }
  else if o = 0x38 then cnt (fun c => { c with resErr := rewritten c.resErr k.resErr w }) { k with resErr := w }
  else if o = 0x3C then (if v % 256 = 0 then b else b.modLink l (fun x => { x with relayWeight := v % 256 }))
  else b

/-- Writes of a partition's registers (R430). -/
def Block.writePrt (b : Block) (p : PartId) (o v : Nat) : Block :=
  if o = 0x10 then b.writeTimeout p v
  else if o = 0x14 then b.writeWeight p v
  else b

/-- A W1C bit after a write of `one` to it (R9, R11): a bit set in the same KT stays. -/
def w1c (bit one : Bool) (setAt : Option Nat) (now : Nat) : Bool := bit && (!one || setAt == some now)

/-- Writes of the HST block (R431). -/
def Block.writeHst (b : Block) (o v : Nat) : Block :=
  let down (h : PortId) : Block :=
    { b with host := { b.host with ports := b.host.ports.set h { b.host.ports[h] with
      linkDown := w1c (b.host.ports[h]).linkDown (bitAt v 16) (b.host.ports[h]).downAt b.now } } }
  if o = 0x00 then down 0
  else if o = 0x04 then down 1
  else if o = 0x20 then { b with host := { b.host with ctxSel := BitVec.ofNat 12 v } }
  else b

/-- A stack changed. -/
def Block.modStack (b : Block) (s : StackId) (f : Stack → Stack) : Block :=
  { b with hbm := { b.hbm with stackOf := b.hbm.stackOf.set s (f b.hbm.stackOf[s]) } }

/-- A pass of the scrubber ends, and the next one starts (R405). -/
def Block.passEnds (b : Block) : Block :=
  { b with hbm := { b.hbm with next := 0, passes := wrapAdd b.hbm.passes 1, passStart := b.now } }

/-- A new pass time (R405), which takes effect in the next KT (R432). -/
def Block.setScrubHours (b : Block) (h : Nat) : Block := { b with hbm := { b.hbm with scrubHours := h, scrubNew := true } }

/-- A new pass time takes effect (R405): the pass in hand ends at once where it began longer ago than that; an hour is 9 · 10^10 KT. -/
def Block.scrubPaced (b : Block) : Block :=
  let b := { b with hbm := { b.hbm with scrubNew := false } }
  if b.hbm.scrubOn ∧ b.hbm.passStart + b.hbm.scrubHours * 90000000000 ≤ b.now then b.passEnds else b

/-- A write of NVM_CTRL (R424): the bit takes effect in the KT after the write. -/
def Nvm.enable (n : Nvm) (v : Bool) (now : Nat) : Nvm :=
  { n with refetchEn := v, refetchWas := if n.refetchAt = now then n.refetchWas else n.refetchEn, refetchAt := now }

/-- Writes of the HBM and STP block (R405, R432). -/
def Block.writeHbm (b : Block) (o v : Nat) : Block :=
  let w := BitVec.ofNat 16 v
  let s : StackId := Fin.ofNat 4 (o / 4)
  let k := b.base.ecc[s]
  let ecc (f : Stack → Stack) (k : BitVec 16 × BitVec 16) : Block :=
    { b.modStack s f with base := { b.base with ecc := b.base.ecc.set s k } }
  if 0x20 ≤ o ∧ o < 0x30 then ecc (fun x => { x with eccCorr := rewritten x.eccCorr k.1 w }) (w, k.2)
  else if 0x30 ≤ o ∧ o < 0x40 then ecc (fun x => { x with eccUncorr := rewritten x.eccUncorr k.2 w }) (k.1, w)
  else if o = 0x40 then (if 4 ≤ v % 256 ∧ v % 256 ≤ 168 then b.setScrubHours (v % 256) else b)
  else b

/-- Writes of the EVL block (R410, R411, R433, R434). -/
def Block.writeEvl (b : Block) (o v : Nat) : Block :=
  if o = 0x04 then { b with evl := { b.evl with ack := BitVec.ofNat 32 v } }
  else if o = 0x08 then
    { b with evl := { b.evl with lost := rewritten b.evl.lost b.base.lost (BitVec.ofNat 32 v) }, base := { b.base with lost := BitVec.ofNat 32 v } }
  else if o = 0x0C then { b with evl := { b.evl with sel := BitVec.ofNat 32 v, miss := false, copy := none } }
  else if o = 0x10 then { b with evl := { b.evl with lostEvt := w1c b.evl.lostEvt (bitAt v 1) b.evl.lostAt b.now } }
  else b

/-- Writes of the PWR block (R394, R435). -/
def Block.writePwr (b : Block) (o v : Nat) : Block :=
  let fieldOf (k : Nat) : Option PwrField := match k with | 0 => some .floor | 4 => some .warm | 8 => some .cold | _ => none
  if o = 0x04 then (if v = 0x5EED ∧ b.resetActs 4 then b.nonKettleReset 4 4 else b)
  else if 0x10 ≤ o ∧ o < 0x50 then
    (match fieldOf ((o - 0x10) % 16) with | some f => b.writePwrComb (Fin.ofNat 4 ((o - 0x10) / 16)) f v | none => b)
  else if 0x80 ≤ o ∧ o < 0xE0 then
    (match fieldOf ((o - 0x80) % 16) with | some f => b.writePwrLnk (Fin.ofNat 6 ((o - 0x80) / 16)) f v | none => b)
  else b

/-- A write of a register outside the KTL block; the registers of the non-Kettle domains ignore it during their reset (R375). -/
def Block.writeOuter (b : Block) (a v : Nat) : Block :=
  if a < 0x20000 then
    (let w := BitVec.ofNat 16 v
     if a = 0x1000C then { b with msp := { b.msp with loginFail := rewritten b.msp.loginFail b.base.loginFail w }, base := { b.base with loginFail := w } }
     else if a = 0x10010 then { b with msp := { b.msp with resync := rewritten b.msp.resync b.base.resync w }, base := { b.base with resync := w } }
     else b)
  else if a < 0x30000 then (if a = 0x20004 then { b with nvm := b.nvm.enable (bitAt v 0) b.now } else b)
  else if 0x700000 ≤ a ∧ a < 0x800000 then b.writeEvl (a - 0x700000) v
  else if b.inReset then b
  else if 0x100000 ≤ a ∧ a < 0x200000 then b.writeCmb (Fin.ofNat 4 ((a - 0x100000) / 0x40000)) ((a - 0x100000) % 0x40000) v
  else if 0x200000 ≤ a ∧ a < 0x300000 then b.writeHcb (a - 0x200000) v
  else if 0x300000 ≤ a ∧ a < 0x400000 then b.writeLnk (Fin.ofNat 42 ((a - 0x300000) / 0x1000)) ((a - 0x300000) % 0x1000) v
  else if 0x400000 ≤ a ∧ a < 0x500000 then b.writePrt (Fin.ofNat 128 ((a - 0x400000) / 0x400)) ((a - 0x400000) % 0x400) v
  else if 0x500000 ≤ a ∧ a < 0x600000 then b.writeHst (a - 0x500000) v
  else if 0x600000 ≤ a ∧ a < 0x700000 then b.writeHbm (a - 0x600000) v
  else b.writePwr (a - 0x800000) v

/-- One of KTL_REMAP_WR0 to KTL_REMAP_WR3. -/
def isRemapWr (a : Nat) : Bool := decide (0x40 ≤ a) && decide (a ≤ 0x4C)

/-- A write of the register at an address that exists and may be written: the block, the fuses, and a fault. -/
def Block.writeReg (b : Block) (f : Fuses) (a v : Nat) : Block × Fuses × Nat :=
  if a = 0x2C then let r := f.program v b.now; (b, r.1, r.2)
  else if 0x80 ≤ a ∧ a ≤ 0xAC then (b, { f with data := f.data.set! ((a - 0x80) / 4) (BitVec.ofNat 32 v) }, 0)
  else if isRemapWr a then (b, f, 8)
  else if a < 0x10000 then (b, f, 0)
  else (b.writeOuter a v, f, 0)

/-! ### MSP WRITE -/

/-- A burst under way: the block, the fuses and the first fault. -/
structure WBurst where
  blk : Block
  fz : Fuses
  err : Nat

/-- One register of a WRITE burst (R367, R370). -/
def WBurst.one (w : WBurst) (a v : Nat) : WBurst :=
  match w.blk.readReg w.fz a with
  | none => { w with err := firstErr w.err 3 }
  | some _ =>
    if !w.blk.msp.session then { w with err := firstErr w.err 1 }
    else
      let r := w.blk.writeReg w.fz a v
      ⟨r.1, r.2.1, firstErr w.err r.2.2⟩

/-- WRITE (R366 to R368, R373): whole registers in ascending order. A burst of exactly 16 bytes at KTL_REMAP_WR0 is a remap record. `early`
says that select rose in the command or address phase. -/
def Block.mspWrite (b : Block) (f : Fuses) (a : Nat) (data : List Byte) (early : Bool) : Block × Fuses :=
  let b := b.mspBegin
  if early then (b.mspEnd 6 [], f)
  else if a % 4 ≠ 0 then (b.mspEnd 2 [], f)
  else if a = 0x40 ∧ data.length = 16 then
    if b.msp.session then ((b.remapTake data).mspEnd 0 [], f) else (b.mspEnd 1 [], f)
  else
    let n := data.length / 4
    let w := (burstAddrs a n).zipIdx.foldl (fun w q => w.one q.1 (field data (4 * q.2) 4)) (⟨b, f, 0⟩ : WBurst)
    (w.blk.mspEnd (if data.length % 4 = 0 then w.err else firstErr w.err 6) [], w.fz)

/-- A transaction that writes, on the MSP's pins. -/
def State.mspWrite (s : State) (a : Nat) (data : List Byte) (early : Bool) : Host.Outcome State Fault Refusal :=
  s.actFuses (fun b f => if b.mspOff then (b, f) else b.mspWrite f a data early)

/-- One register written. -/
def State.regWrite (s : State) (a v : Nat) : Host.Outcome State Fault Refusal := s.mspWrite a (leBytes 4 v) false

/-- MSP_WRITE. -/
def execMspWrite (_lanes : BitVec 4) (addr : BitVec 32) (data : List Byte) (early : Bool) (s : State) : Out :=
  s.mspWrite addr.toNat data early
/-- REGISTER_WRITE (R9). -/
def execRegisterWrite (addr v : BitVec 32) (s : State) : Out := s.regWrite addr.toNat v.toNat
/-- FUSE_BURN_PASSWORD (R372). -/
def execFuseBurnPassword (s : State) : Out := s.regWrite 0x2C 0xA5D1
/-- FUSE_BURN_ANCHOR (R372). -/
def execFuseBurnAnchor (s : State) : Out := s.regWrite 0x2C 0xA5D2
/-- FUSE_BURN_COMPLETE (R372): a burn may end before its limit of 250,000 KT, which the clock holds it to. -/
def execFuseBurnComplete (s : State) : Out := s.actFuses (fun b f => (b, f.burnt))

/-- The MSP address of a comb's register (R415). -/
def cmbAddr (c : CombId) (o : Nat) : Nat := 0x100000 + c.val * 0x40000 + o
/-- The MSP address of a link's register (R415). -/
def lnkAddr (l : LinkId) (o : Nat) : Nat := 0x300000 + l.val * 0x1000 + o
/-- The MSP address of a partition's register (R415). -/
def prtAddr (p : PartId) (o : Nat) : Nat := 0x400000 + p.val * 0x400 + o
/-- The offset of a power configuration field (R435). -/
def pwrOff : PwrField → Nat
  | .floor => 0 | .warm => 4 | .cold => 8

/-- CMB_RELEASE_REQUEST (R331). -/
def execCmbReleaseRequest (c : CombId) (s : State) : Out := s.regWrite (cmbAddr c 4) 1
/-- CMB_RETURN_REQUEST (R334). -/
def execCmbReturnRequest (c : CombId) (s : State) : Out := s.regWrite (cmbAddr c 4) 2
/-- LNK_TAKE_OUT_REQUEST (R429). -/
def execLnkTakeOutRequest (l : LinkId) (s : State) : Out := s.regWrite (lnkAddr l 4) 1
/-- LNK_BRING_BACK_REQUEST (R429). -/
def execLnkBringBackRequest (l : LinkId) (s : State) : Out := s.regWrite (lnkAddr l 4) 2
/-- CTRL_REQUEST_WITHDRAW (R419). -/
def execCtrlRequestWithdraw (t : CtrlTarget) (s : State) : Out :=
  match t with
  | .comb c => s.regWrite (cmbAddr c 4) 0
  | .link l => s.regWrite (lnkAddr l 4) 0
/-- PRT_LINK_WEIGHT_WRITE (R341). -/
def execPrtLinkWeightWrite (p : PartId) (v : BitVec 32) (s : State) : Out := s.regWrite (prtAddr p 0x14) v.toNat
/-- PRT_COLL_TIMEOUT_WRITE (R247). -/
def execPrtCollTimeoutWrite (p : PartId) (v : BitVec 32) (s : State) : Out := s.regWrite (prtAddr p 0x10) v.toNat
/-- PWR_COMB_CFG_WRITE (R436). -/
def execPwrCombCfgWrite (c : CombId) (f : PwrField) (v : BitVec 32) (s : State) : Out := s.regWrite (0x800010 + 16 * c.val + pwrOff f) v.toNat
/-- PWR_LNK_CFG_WRITE (R436). -/
def execPwrLnkCfgWrite (d : DimId) (f : PwrField) (v : BitVec 32) (s : State) : Out := s.regWrite (0x800080 + 16 * d.val + pwrOff f) v.toNat
/-- PWR_RST_REQ (R394). -/
def execPwrRstReq (v : BitVec 32) (s : State) : Out := s.regWrite 0x800004 v.toNat
/-- EVL_ACK_WRITE (R410). -/
def execEvlAckWrite (v : BitVec 32) (s : State) : Out := s.regWrite 0x700004 v.toNat
/-- EVL_SEL_WRITE (R411). -/
def execEvlSelWrite (v : BitVec 32) (s : State) : Out := s.regWrite 0x70000C v.toNat
/-- NVM_CTRL_WRITE (R345). -/
def execNvmCtrlWrite (v : BitVec 32) (s : State) : Out := s.regWrite 0x20004 v.toNat
/-- HBM_SCRUB_HOURS_WRITE (R405). -/
def execHbmScrubHoursWrite (v : BitVec 32) (s : State) : Out := s.regWrite 0x600040 v.toNat
/-- LNK_RELAY_WEIGHT_WRITE (R428). -/
def execLnkRelayWeightWrite (l : LinkId) (v : BitVec 32) (s : State) : Out := s.regWrite (lnkAddr l 0x3C) v.toNat

/-- EVL_DATA_READ (R411, R434): a READ of EVL_DATA0; `err` is the error of the entry's SRAM word (R407, R410). -/
def execEvlDataRead (err : Option Bool) (s : State) : Out :=
  s.act (fun b => b.onMsp (fun b =>
    let b := b.mspBegin
    if !b.msp.session then b.mspEnd 1 (byteOf (b.status true) :: zeros 4)
    else
      let st := byteOf (b.status true)
      let b := b.evlSample err
      b.mspEnd 0 (st :: leBytes 4 (match b.evl.copy with | some c => field c 0 4 | none => 0))))

end Sys2Proof.Machine
end

