-- ==== Sys2Proof/Machine/Messages.lean ====
section
/-! DEFINITION. Messages as they arrive over a link: buzz (R205, R210, R221, R230 to R234, R244 to R249), bulk (R55, R235 to R238), parcels
(R320), and what waits at the ingress (R238). -/

namespace Sys2Proof.Machine
open Sys2Proof

/-- The participant of R219 that a passing message belongs to: its partition where this chip holds it, else the relay queue. -/
def Block.relayWho (b : Block) (p : PartId) : Nat := if b.defined p then p.val else 128

/-! ### Buzz -/

/-- A message of the membership agreement that R194 takes whatever its epoch: one with the join mark, or any while this chip joins. -/
def Block.agreeExempt (b : Block) (p : PartId) (h : List Byte) : Bool :=
  (hdBuzz h).opidx == 0 && (hdBuzz h).op == 8 &&
  (hdJoin h || ((b.part p).joining && (match b.run? p with | some r => !r.agreed | none => true)))

/-- The chip does not yet know the partition's epoch (R194): it joins, and its agreement has not completed. -/
def Block.epochOpen (b : Block) (p : PartId) : Bool :=
  (b.part p).joining && (match b.run? p with | some r => !r.agreed | none => true)

/-- A buzz message for this chip (R55, R194): taken by the running step, held for the next one, or stale. Until a joining chip knows its epoch,
every message but those of the agreement is held. -/
def Block.deliverBuzz (b : Block) (l : LinkId) (m : HeldMsg) : Block :=
  let p := hdPart m.head
  let keep (b : Block) : Block := b.modPart p (fun x => { x with heldNext := x.heldNext ++ [m] })
  if b.kettle.stopped then b
  else if (b.part p).img.isNone then b.log 0x0105 (.link l) (some p) []
  else
    let ex := b.agreeExempt p m.head
    let d := b.epochDiff p (hdEpoch m.head)
    match b.run? p with
    | some r =>
      if ex then (if r.agreed then keep b else (b.takeBuzz p r m).drive p)
      else if b.epochOpen p then keep b
      else if d = 0 then (b.takeBuzz p r m).drive p
      else if d = 1 then keep b
      else b.log 0x0105 (.link l) (some p) []
    | none => if ex ∨ b.epochOpen p ∨ d ≤ 1 then keep b else b.log 0x0105 (.link l) (some p) []

/-- A buzz message of operation `op` arrives (R210, R211, R221). -/
def Block.buzz (b : Block) (l : LinkId) (op : Nat) (m : BuzzRx) : Block :=
  if b.inReset ∨ (headOk 1 m.head ∧ (hdBuzz m.head).op ≠ op) then b
  else
    let b := (b.simmerExit l).busyGroup l
    let a := (b.link l).arriveBuzz m
    let b := b.setLink l a.1
    match a.2.1 with
    | .discard => b
    | .leave code => b.leaveService l code false
    | .accept =>
      let b := b.modLink l (fun x => x.giveBack 1 2)
      let body := m.body.take (hdLen m.head)
      if b.kettle.stopped then b
      else if hdDst m.head ≠ b.boot.physCoord then b.relayMsg 128 m.head body
      else b.deliverBuzz l ⟨true, m.head, body, l, if a.2.2 then none else some (BitVec.ofNat 12 (field m.head 0x38 2)),
        match m.strike with | some s => .adder s | none => .none⟩

/-- BUZZ_BARRIER. -/
def execBuzzBarrier (l : LinkId) (m : BuzzRx) (s : State) : Out := s.act (fun b => b.buzz l 0x01 m)
/-- BUZZ_SUM_W32. -/
def execBuzzSumW32 (l : LinkId) (m : BuzzRx) (s : State) : Out := s.act (fun b => b.buzz l 0x02 m)
/-- BUZZ_SUM_W64. -/
def execBuzzSumW64 (l : LinkId) (m : BuzzRx) (s : State) : Out := s.act (fun b => b.buzz l 0x03 m)
/-- BUZZ_SUM_F32. -/
def execBuzzSumF32 (l : LinkId) (m : BuzzRx) (s : State) : Out := s.act (fun b => b.buzz l 0x04 m)
/-- BUZZ_MAX8. -/
def execBuzzMax8 (l : LinkId) (m : BuzzRx) (s : State) : Out := s.act (fun b => b.buzz l 0x05 m)
/-- BUZZ_MAX16. -/
def execBuzzMax16 (l : LinkId) (m : BuzzRx) (s : State) : Out := s.act (fun b => b.buzz l 0x06 m)
/-- BUZZ_MAX32. -/
def execBuzzMax32 (l : LinkId) (m : BuzzRx) (s : State) : Out := s.act (fun b => b.buzz l 0x07 m)
/-- BUZZ_MAX64. -/
def execBuzzMax64 (l : LinkId) (m : BuzzRx) (s : State) : Out := s.act (fun b => b.buzz l 0x08 m)
/-- BUZZ_CAP_REPORT. -/
def execBuzzCapReport (l : LinkId) (m : BuzzRx) (s : State) : Out := s.act (fun b => b.buzz l 0x10 m)
/-- BUZZ_ABORT. -/
def execBuzzAbort (l : LinkId) (m : BuzzRx) (s : State) : Out := s.act (fun b => b.buzz l 0x11 m)

/-! ### Confirmation (R210, R213, R234) -/

/-- The message that `bseq` numbers on link `l` is confirmed wherever it is held. -/
def Part.confirm (x : Part) (l : LinkId) (s : BitVec 12) : Part :=
  let held (m : HeldMsg) : HeldMsg := if m.link = l ∧ m.conf = some s then { m with conf := none } else m
  { x with
    heldNext := x.heldNext.map held
    run := x.run.map (fun r => { r with
      held := r.held.map held
      buzz := r.buzz.map (fun o => { o with got := o.got.map (fun c => if c.conf = some (l, s) then { c with conf := none } else c) }) }) }

/-- BUZZ_CONFIRM (R210): the decoder has processed the oldest unconfirmed message of the link. A correction within it, or an uncorrectable
codeword, takes the link out of service with 0x0204. -/
def Block.buzzConfirm (b : Block) (l : LinkId) (s : BitVec 12) (f : Fec) : Block :=
  match (b.link l).rx.unconf with
  | [] => b
  | m :: rest =>
    if m.seq ≠ s then b
    else
      let b := b.modLink l (fun x => x.fec f)
      if f.corr ≠ 0 ∨ f.uncorr ≠ 0 then b.leaveService l 0x0204 false
      else
        let b := b.modLink l (fun x => ({ x with rx := { x.rx with unconf := rest, back := s } }).lcDue)
        let b := { b with parts := b.parts.map (fun x => Part.confirm x l s) }
        let p := hdPart m.head
        (b.retakeHeld p).drive p

/-- BUZZ_CONFIRM. -/
def execBuzzConfirm (l : LinkId) (bseq : BitVec 12) (f : Fec) (s : State) : Out := s.act (fun b => b.buzzConfirm l bseq f)

/-! ### Bulk -/

/-- A bulk message at the ingress: passed on, or offered to its partition; whether it has left the ingress. A stopped chip sends no collective
traffic (R47 step 5). -/
def Block.ingress (b : Block) (l : LinkId) (head body : List Byte) (fault : AddFault) : Block × Bool :=
  if b.kettle.stopped then (b, true)
  else if hdDst head ≠ b.boot.physCoord then (b.relayMsg (b.relayWho (hdPart head)) head body, true)
  else b.takeBulk l head body fault

/-- BULK_MESSAGE (R210, R236, R238): a message accepted whole queues behind one that waits on the same link. -/
def Block.bulk (b : Block) (l : LinkId) (rx : RxMsg) (fault : AddFault) : Block :=
  if b.inReset then b
  else
    let a := b.arriveSeq l 2 rx
    a.2.foldl (fun b q =>
      let wait (b : Block) : Block := b.modLink l (fun x => { x with rx := { x.rx with waiting := x.rx.waiting ++ [(x.st == .inService, q.1, q.2, fault)] } })
      if !(b.link l).rx.waiting.isEmpty then wait b
      else
        let t := b.ingress l q.1 q.2 fault
        if t.2 then t.1.giveBack l 2 q.2 else wait t.1) a.1

/-- BULK_MESSAGE. -/
def execBulkMessage (l : LinkId) (rx : RxMsg) (fault : AddFault) (s : State) : Out := s.act (fun b => b.bulk l rx fault)

/-- The messages that wait at an ingress go on in order, as far as they can; `fuel` bounds them. -/
def Block.ingressGo (l : LinkId) : Nat → Block → Block
  | 0, b => b
  | n + 1, b =>
    match (b.link l).rx.waiting with
    | [] => b
    | m :: rest =>
      let t := b.ingress l m.2.1 m.2.2.1 m.2.2.2
      if t.2 then
        Block.ingressGo l n (t.1.modLink l (fun x =>
          let x := { x with rx := { x.rx with waiting := rest } }
          if m.1 then x.giveBack 2 (1 + ceilDiv m.2.2.1.length 64) else x))
      else b

/-- INGRESS_WAIT_END (R238). -/
def execIngressWaitEnd (l : LinkId) (s : State) : Out := s.act (fun b => Block.ingressGo l (b.link l).rx.waiting.length b)

/-! ### Parcels (R320) -/

/-- The logical coordinate behind a physical one (R188). -/
def Block.logOf (b : Block) (q : Coord) : Coord :=
  match b.remap.assumes.find? (fun a => a.physical == q) with | some a => a.logical | none => q

/-- A piece of a parcel joins its transfer; a piece at offset 0 starts it afresh (R187). The frame lands when the last byte has come. -/
def Block.parcelPiece (b : Block) (l : LinkId) (head body : List Byte) : Block :=
  let id := field head 0x10 4
  let off := field head 0x18 4
  let total := field head 0x1C 4
  let src := b.logOf (hdOrg head)
  let same (m : ParcelMove) : Bool := m.id == id && m.src == src && m.part == hdPart head
  let old := if off = 0 then [] else match b.host.parcelsIn.find? same with | some m => m.bytes | none => []
  let bytes := old ++ [(off, body)]
  let m : ParcelMove := { id := id, ctx := 0, desc := [], src := src, dst := b.logCoord, part := hdPart head, total := total, bytes := bytes
                          since := b.now }
  let whole := (sortBy (fun x y => decide (x.1 < y.1)) bytes).flatMap Prod.snd
  let others := b.host.parcelsIn.filter (fun m => !same m)
  if total ≤ whole.length then (b.modHost (fun x => { x with parcelsIn := others })).landParcel (hdPart head) (.link l) src (whole.take total)
  else b.modHost (fun x => { x with parcelsIn := others ++ [m] })

/-- PARCEL_RECEIVE (R210, R320). -/
def Block.parcelIn (b : Block) (l : LinkId) (rx : RxMsg) : Block :=
  if b.inReset then b
  else
    let a := b.arriveSeq l 3 rx
    a.2.foldl (fun b q =>
      let b := b.giveBack l 3 q.2
      if b.kettle.stopped then b
      else if hdDst q.1 ≠ b.boot.physCoord then b.relayMsg (hdPart q.1).val q.1 q.2
      else b.parcelPiece l q.1 q.2) a.1

/-- PARCEL_RECEIVE. -/
def execParcelReceive (l : LinkId) (rx : RxMsg) (s : State) : Out := s.act (fun b => b.parcelIn l rx)

end Sys2Proof.Machine
end

