-- ==== Sys2Proof/Machine/Links.lean ====
section
/-! DEFINITION. The links themselves: link-control flits (R207, R208), the slots of a train (R199 to R201, R217 to R220), acknowledgement and
resend (R212), credits (R215), departures (R225), training (R184, R222 to R224), Standby and entry into service (R227). -/

namespace Sys2Proof.Machine
open Sys2Proof

/-! ### States -/

/-- The link sends and accepts link-control flits (R227). -/
def Link.linked (x : Link) : Bool := x.st == .standby || x.st == .inService
/-- A training attempt is under way (R222, R225). -/
def Link.training (x : Link) : Bool := x.st != .cold && !x.linked && x.tr.pauseUntil == 0
/-- The link's transmitter changed. -/
def Link.modTx (x : Link) (f : LinkTx → LinkTx) : Link := { x with tx := f x.tx }
/-- The link's training state changed. -/
def Link.modTr (x : Link) (f : LinkTrain → LinkTrain) : Link := { x with tr := f x.tr }
/-- Nothing of the link's own waits to leave, and nothing is unacknowledged (R390). -/
def LinkTx.quiet (t : LinkTx) : Bool :=
  t.qBuzz.isEmpty && t.qBulk.isEmpty && t.qParcel.isEmpty && t.qTunnel.isEmpty && t.curBulk.1.isEmpty && t.curParcel.1.isEmpty &&
  t.curTunnel.1.isEmpty && t.buzzBody.isNone && t.kept.isEmpty && t.keptBuzz.isEmpty

/-! ### Link-control flits (R207) -/

/-- The body of a link-control flit. -/
def Link.controlBody (x : Link) (request : Pwr) : List Byte :=
  [1, byteOf (b2n x.tr.ready + 2 * b2n (x.st == .inService) + 4 * request.code)] ++ leBytes 2 (x.rx.exp - 1).toNat ++
  leBytes 2 x.rx.back.toNat ++ [byteOf (x.rx.nakEv.toNat + 16 * x.rx.bnakEv.toNat), 0] ++ leBytes 2 x.rx.nakSeq.toNat ++
  leBytes 2 x.rx.bnakSeq.toNat ++ leBytes 4 (x.lc.heartbeat + 1).toNat ++ leBytes 2 x.rx.ret.buzz ++ leBytes 2 x.rx.ret.bulk ++
  leBytes 2 x.rx.ret.parcel ++ leBytes 2 x.rx.ret.tunnel ++ zeros 40

/-- The number lies at or before an acknowledged one (R211, R212). -/
def acked (ack s : BitVec 12) : Bool := decide ((ack - s).toNat < 1024)

/-- Acknowledged flits and messages leave the retry buffers; an advance ends the count of resends (R212). -/
def LinkTx.ack (t : LinkTx) (ack back : BitVec 12) : LinkTx :=
  let kept := t.kept.filter (fun k => !acked ack k.seq)
  let keptBuzz := t.keptBuzz.filter (fun m => !acked back m.seq)
  { t with kept := kept, keptBuzz := keptBuzz, resendBuzz := t.resendBuzz.filter (fun m => !acked back m.seq)
           stuck := if kept.length < t.kept.length then 0 else t.stuck
           bstuck := if keptBuzz.length < t.keptBuzz.length then 0 else t.bstuck }

/-- Everything kept from number `s` on (R212). -/
def keptFrom {α : Type} (num : α → BitVec 12) (s : BitVec 12) (l : List α) : List α := l.filter (fun k => decide ((num k - s).toNat < 2048))

/-- A resend of the sequenced space from number `s` begins with the next train (R212); one that another has displaced before that is none. -/
def Link.resendSeq (x : Link) (s : BitVec 12) : Link :=
  if x.tx.resendFrom.isSome then { x with tx := { x.tx with resendFrom := some s } }
  else { x with tx := { x.tx with resendFrom := some s, stuck := x.tx.stuck + 1 }, cnt := { x.cnt with retry := wrapAdd x.cnt.retry 1 } }
/-- A resend of the buzz space begins (R212). -/
def Link.resendBuzz (x : Link) (ms : List BuzzMsg) : Link :=
  { x with tx := { x.tx with resendBuzz := ms, bstuck := x.tx.bstuck + 1 }, cnt := { x.cnt with retry := wrapAdd x.cnt.retry 1 } }

/-- NAK events that the sender has not seen start resends (R212). -/
def Link.takeNaks (x : Link) (ev bev : BitVec 4) (s bs : BitVec 12) : Link :=
  let x := if ev = x.tx.nakSeen then x
    else ({ x with tx := { x.tx with nakSeen := ev } }).resendSeq s
  if bev = x.tx.bnakSeen then x
  else ({ x with tx := { x.tx with bnakSeen := bev } }).resendBuzz (keptFrom BuzzMsg.seq bs x.tx.keptBuzz)

/-- Credits come back: the difference of the cumulative counts modulo 2^16 (R215). -/
def LinkTx.credits (t : LinkTx) (ret : Four) : LinkTx :=
  let d := Four.zip (fun n o => (n + 2 ^ 16 - o) % 2 ^ 16) ret t.retSeen
  { t with free := Four.zip (· + ·) t.free d, used := Four.zip (· - ·) t.used d, retSeen := ret }

/-- A link-control flit as a link takes it (R207, R212, R215, R227, R388). -/
def Link.takeControl (x : Link) (body : List Byte) : Link :=
  let fl := field body 1 1
  let ev := field body 6 1
  let x := x.modTx (fun t => (t.ack (BitVec.ofNat 12 (field body 2 2)) (BitVec.ofNat 12 (field body 4 2))).credits
    ⟨field body 0x10 2, field body 0x12 2, field body 0x14 2, field body 0x16 2⟩)
  let x := x.takeNaks (BitVec.ofNat 4 ev) (BitVec.ofNat 4 (ev / 16)) (BitVec.ofNat 12 (field body 8 2)) (BitVec.ofNat 12 (field body 0x0A 2))
  let peer := Pwr.ofCode (bitsOf fl 3 2)
  { x with tr := { x.tr with peerReady := bitAt fl 0 }
           rx := { x.rx with peerPwr := peer, peerInService := bitAt fl 1 } }

/-- Heartbeat supervision is suspended (R208): both ends have shown a power state below Boil, and this end still requests one. -/
def Link.hbSuspended (x : Link) (request : Pwr) : Bool := x.rx.peerPwr != .boil && x.lc.shown != .boil && request != .boil

/-- LINK_CONTROL_FLIT (R207): parcel moves whose last flit it acknowledges complete (R320). A Simmer link that sees it, a slot with a non-idle
tag, ungates (R390). -/
def Block.linkControl (b : Block) (l : LinkId) (body : List Byte) (f : Fec) : Block :=
  if b.inReset then b
  else
    let b := b.modLink l (fun x => x.fec f)
    if !(b.link l).linked ∨ field body 0 1 ≠ 1 then b
    else ((b.simmerExit l).modLink l (fun x => x.takeControl body)).settleParcels

/-- LINK_CONTROL_FLIT. -/
def execLinkControlFlit (l : LinkId) (body : List Byte) (f : Fec) (s : State) : Out := s.act (fun b => b.linkControl l body f)

/-! ### Weighted deficit round robin (R219) -/

def LinkTx.deficit (t : LinkTx) (who : Nat) : Nat := match t.wdrr.find? (fun q => q.1 == who) with | some q => q.2 | none => 0
def LinkTx.setDeficit (t : LinkTx) (who v : Nat) : LinkTx :=
  { t with wdrr := (if v = 0 then [] else [(who, v)]) ++ t.wdrr.filter (fun q => q.1 != who) }

/-- The message that the bulk class starts next: `credited` says that the participant in turn has had its quantum on this visit. `fuel` bounds
the visits. -/
def LinkTx.pickBulk (weight : Nat → Nat) : Nat → Bool → LinkTx → LinkTx × Option TxMsg
  | 0, _, t => (t, none)
  | n + 1, credited, t =>
    let next := (t.visited + 1) % 129
    match t.qBulk.find? (fun m => m.who == t.visited) with
    | none => LinkTx.pickBulk weight n false { t.setDeficit t.visited 0 with visited := next }
    | some m =>
      let d := t.deficit t.visited + if credited then 0 else 16 * weight t.visited
      let f := m.body.length + 1
      if f ≤ d then ({ t.setDeficit t.visited (d - f) with qBulk := t.qBulk.eraseP (fun m => m.who == t.visited) }, some m)
      else LinkTx.pickBulk weight n false { t.setDeficit t.visited d with visited := next }

/-- The next parcel message: partitions in ascending cyclic order, one message a turn (R220). -/
def LinkTx.pickParcel (t : LinkTx) : LinkTx × Option TxMsg :=
  match ((List.range 128).map (fun i => (t.parcelTurn + 1 + i) % 128)).find? (fun p => t.qParcel.any (fun m => m.who == p)) with
  | none => (t, none)
  | some p => ({ t with parcelTurn := p, qParcel := t.qParcel.eraseP (fun m => m.who == p) }, t.qParcel.find? (fun m => m.who == p))

/-- The next tunnel message: in the order they became ready (R220). -/
def LinkTx.pickTunnel (t : LinkTx) : LinkTx × Option TxMsg :=
  match t.qTunnel with
  | [] => (t, none)
  | m :: rest => ({ t with qTunnel := rest }, some m)

/-- The slots of a message (R200, R203). -/
def TxMsg.slots (m : TxMsg) (cls : Nat) : List Slot := ⟨cls, true, m.head⟩ :: m.body.map (fun x => ⟨cls, false, x⟩)

/-! ### Filling a slot (R217) -/

/-- The bits of a slot: tag then body, the tag in three bytes (R200, R201). -/
def Slot.bytes (s : Slot) : List Byte := leBytes 3 (crc19 s.first s.kind s.body + 2 ^ 19 * b2n s.first + 2 ^ 20 * s.kind) ++ s.body
/-- The train header (R201), in three bytes. -/
def headerBytes (base : BitVec 12) : List Byte := leBytes 3 (256 * base.toNat + crc8 base.toNat)
/-- The place of train bit `t` (R198, R199): codeword of the train, message symbol, symbol bit, and the lane on which the symbol is sent. -/
def trainPlace (t : Nat) : Nat × Nat × Nat × Nat := (t / 5140, t % 5140 / 10, t % 10, t % 5140 / 10 % 2)
/-- The train bit of tag bit `i` of slot `k`, and of bit `b` of body byte `j` of it (R199). -/
def tagBit (k i : Nat) : Nat := 20 + 535 * k + i
def bodyBit (k j b : Nat) : Nat := 20 + 535 * k + 23 + 8 * j + b
/-- The 25,700 message bits of a train, train bit 0 first: the header, then tag and body of each of its 48 slots, least significant bit first
(R199). -/
def trainBits (header : List Byte) (slots : List (List Byte)) : List Bool :=
  ((header.flatMap byteBits).take 20) ++ slots.flatMap (fun s => ((s.take 3).flatMap byteBits).take 23 ++ (s.drop 3).flatMap byteBits)
/-- The message symbols of the five codewords of a train (R198, R199). -/
def trainSymbols (header : List Byte) (slots : List (List Byte)) : List (List (List Bool)) :=
  (chunks 5140 (trainBits header slots)).map (chunks 10)

/-- The idle slot (R200). -/
def Slot.idle : Slot := ⟨0, false, zeros 64⟩

/-- A message of a class in progress, or a new one that `pick` chooses (R217, orders 6 to 8). -/
def LinkTx.inProgress (t : LinkTx) (cls : Nat) (cur : List Slot × List Byte) (pick : LinkTx → LinkTx × Option TxMsg) :
    Option (LinkTx × List Slot × List Byte) :=
  if t.free.get cls = 0 ∨ 1024 ≤ t.kept.length then none
  else if !cur.1.isEmpty then some (t, cur)
  else match pick t with
    | (t, some m) => some (t, m.slots cls, m.head)
    | _ => none

/-- A flit of the sequenced space leaves for the first time: it takes the next number, uses a credit and is kept (R209, R212, R215). -/
def Link.sendNew (x : Link) (cls : Nat) (s : Slot) (head : List Byte) : Link :=
  let k : Kept := ⟨x.tx.next, s, head⟩
  { x with
    tx := { x.tx with next := x.tx.next + 1, kept := x.tx.kept ++ [k]
                      free := x.tx.free.map cls (· - 1), used := x.tx.used.map cls (· + 1) }
    cnt := { x.cnt with txBytes := wrapAdd x.cnt.txBytes 64 } }

/-- The next flit of a class, where it may be sent. -/
def Link.classSlot (x : Link) (cls : Nat) (weight : Nat → Nat) : Option (Link × Slot) :=
  let t := x.tx
  let r := match cls with
    | 2 => if t.curBulk.1.isEmpty ∧ t.qBulk.isEmpty then none else t.inProgress 2 t.curBulk (fun t => t.pickBulk weight 800 true)
    | 3 => t.inProgress 3 t.curParcel LinkTx.pickParcel
    | _ => t.inProgress 4 t.curTunnel LinkTx.pickTunnel
  match r with
  | some (t, s :: rest, head) =>
    let x := x.modTx (fun _ => match cls with
      | 2 => { t with curBulk := (rest, head) } | 3 => { t with curParcel := (rest, head) } | _ => { t with curTunnel := (rest, head) })
    some (x.sendNew cls s head, s)
  | _ => none

/-- A link-control flit is sent (R207, R208). DESIGN CHOICE (log entry 70): only flits of messages count in LNK_TX_BYTES and LNK_RX_BYTES. -/
def Link.controlSlot (x : Link) (request : Pwr) : Link × Slot :=
  ({ x with lc := { due := false, overdue := false, sentInTrain := true, heartbeat := x.lc.heartbeat + 1, shown := request } },
   ⟨5, false, x.controlBody request⟩)

/-- A buzz head is sent: resends before new messages, of which one takes two credits (R215, R217 order 3). -/
def Link.buzzSlot (x : Link) : Option (Link × Slot) :=
  let t := x.tx
  match t.resendBuzz, t.qBuzz with
  | m :: rest, _ => some (x.modTx (fun t => { t with resendBuzz := rest, buzzBody := some m.body }), ⟨1, true, m.head⟩)
  | [], q :: rest =>
    if t.free.buzz < 2 ∨ 64 ≤ t.keptBuzz.length then none
    else
      let m : BuzzMsg := ⟨t.bnext, withBseq q.1 t.bnext q.2, padTo 64 q.2⟩
      let x := x.modTx (fun t => { t with
        qBuzz := rest, buzzBody := some m.body, bnext := t.bnext + 1, keptBuzz := t.keptBuzz ++ [m], free := t.free.map 1 (· - 2)
        used := t.used.map 1 (· + 2) })
      some ({ x with cnt := { x.cnt with txBytes := wrapAdd x.cnt.txBytes 128 } }, ⟨1, true, m.head⟩)
  | [], [] => none

/-- A resend of the sequenced space goes on (R217 order 5): in the train where it began every flit of it is sent in turn, since a flit's number
is its place (R209). -/
def Link.resendSlot (x : Link) : Option (Link × Slot) :=
  match x.tx.resend with
  | k :: rest => some (x.modTx (fun t => { t with resend := rest }), k.slot)
  | [] => none

/-- The slot of a link in service at Boil, by Table: Slot order (R217). -/
def Link.orderedSlot (x : Link) (request : Pwr) (weight : Nat → Nat) : Link × Slot :=
  match x.tx.buzzBody with
  | some body => (x.modTx (fun t => { t with buzzBody := none }), ⟨1, false, body⟩)
  | none =>
    if x.lc.overdue then x.controlSlot request
    else match x.buzzSlot with
      | some r => r
      | none =>
        if x.lc.due && !x.lc.sentInTrain then x.controlSlot request
        else match x.resendSlot with
          | some r => r
          | none => (((x.classSlot 2 weight).orElse (fun _ => x.classSlot 3 weight)).orElse (fun _ => x.classSlot 4 weight)).getD (x, Slot.idle)

/-- The slot of a link in Standby: link-control flits only (R227). -/
def Link.standbySlot (x : Link) (request : Pwr) : Link × Slot :=
  if x.lc.overdue || (x.lc.due && !x.lc.sentInTrain) then x.controlSlot request else (x, Slot.idle)

/-- A train begins: its header carries the number of its first sequenced slot, and a resend that waits starts here (R201, R209, R212). -/
def Link.trainStart (x : Link) : Link :=
  if x.tx.slotPos ≠ 0 then x
  else
    let ks := match x.tx.resendFrom with
      | some s => keptFrom Kept.seq s x.tx.kept
      | none => x.tx.resend.filter (fun k => x.tx.kept.any (fun q => q.seq == k.seq))
    let base := match ks with | k :: _ => k.seq | [] => x.tx.next
    { x with tx := { x.tx with resend := ks, resendFrom := none }, lc := { x.lc with sentInTrain := false }, slotOut := x.slotOut ++ [headerBytes base] }

/-- The slot leaves; the next boundary comes. -/
def Link.emit (x : Link) (s : Slot) : Link :=
  { x with slotOut := x.slotOut ++ [s.bytes], tx := { x.tx with slotPos := (x.tx.slotPos + 1) % 48 } }

/-- The training flit of an attempt in Lock, Identify or Grant (R223); the clock values are free values. -/
def Block.trainingBody (b : Block) (l : LinkId) (d : Nat) : List Byte :=
  let x := b.link l
  let phase := match x.st with | .lock => 1 | .identify => 2 | _ => 3
  let echo := match x.tr.echo with | some t => t | none => Config.xclkNow (d + 1)
  [2, byteOf phase, byteOf l, 0xB0] ++ leBytes 4 b.boot.physCoord.toNat ++ leBytes 4 b.boot.machine ++ leBytes 4 (Config.xclkNow d).toNat ++
  leBytes 4 echo.toNat ++ leBytes 4 (Config.xclkNow (d + 2)).toNat ++
  (if x.st = .grant then leBytes 2 grants.buzz ++ leBytes 2 grants.bulk ++ leBytes 2 grants.parcel ++ leBytes 2 grants.tunnel else zeros 8) ++
  zeros 32

/-- The weight of a participant of R219. -/
def Block.weightOf (b : Block) (l : LinkId) (who : Nat) : Nat :=
  if h : who < 128 then (b.part ⟨who, h⟩).weight.eff else (b.link l).relayWeight

/-- SLOT_FILL (R217): a link that drives no trains sends nothing; one in Simmer sends idle slots (R385), and ungates when it has another to
send (R390). -/
def Block.slotFill (b : Block) (l : LinkId) : Block :=
  let req := (b.pwr.groups[groupOf l]).request
  let x := b.link l
  if b.inReset then b
  else match x.st with
    | .cold | .detect | .equalise => b
    | .standby => let r := x.trainStart.standbySlot req; b.setLink l (r.1.emit r.2)
    | .inService =>
      if x.pwr = .simmer then
        let b := if x.tx.quiet && !x.lc.due then b else b.simmerExit l
        b.modLink l (fun x => x.trainStart.emit Slot.idle)
      else
        let r := x.trainStart.orderedSlot req (b.weightOf l)
        let b := b.setLink l (r.1.emit r.2)
        if 1 ≤ r.2.kind ∧ r.2.kind ≤ 4 then b.busyGroup l else b
    | _ =>
      let d := b.free
      ({ b with free := d + 3 }).setLink l (x.trainStart.emit ⟨5, false, b.trainingBody l d⟩)

/-- SLOT_FILL. -/
def execSlotFill (l : LinkId) (s : State) : Out := s.act (fun b => b.slotFill l)

/-! ### Timers of a link (R208, R212) and departures (R225) -/

/-- HEARTBEAT_DUE (R208): 512 XCLK since the last link-control flit. A Simmer link sends idle trains only (R385). -/
def execHeartbeatDue (l : LinkId) (s : State) : Out :=
  s.act (fun b => b.modLink l (fun x => if x.linked ∧ x.pwr = .boil then { x with lc := { x.lc with overdue := true } } else x))

/-- A new NAK event with the same number (R212, step 3). -/
def Link.nakAgain (x : Link) (buzz : Bool) : Link :=
  if x.st ≠ .inService then x
  else if buzz then (if x.rx.bnakWait then ({ x with rx := { x.rx with bnakEv := x.rx.bnakEv + 1 } }).lcDue else x)
  else (if x.rx.nakWait then ({ x with rx := { x.rx with nakEv := x.rx.nakEv + 1 } }).lcDue else x)

/-- NAK_REPEAT_TIMEOUT. -/
def execNakRepeatTimeout (l : LinkId) (buzz : Bool) (s : State) : Out := s.act (fun b => b.modLink l (fun x => x.nakAgain buzz))

/-- A space with no progress for 4,096 XCLK is resent from its first unacknowledged flit (R212, step 4). -/
def Link.resendAll (x : Link) (buzz : Bool) : Link :=
  if x.st ≠ .inService then x
  else if buzz then (if x.tx.keptBuzz.isEmpty then x else x.resendBuzz x.tx.keptBuzz)
  else match x.tx.kept with | [] => x | k :: _ => x.resendSeq k.seq

/-- RESEND_TIMEOUT. -/
def execResendTimeout (l : LinkId) (buzz : Bool) (s : State) : Out := s.act (fun b => b.modLink l (fun x => x.resendAll buzz))

/-- RESEND_LIMIT_EXCEEDED (R212): sixteen resends of a space without progress. -/
def execResendLimitExceeded (l : LinkId) (buzz : Bool) (s : State) : Out :=
  s.act (fun b => if 16 ≤ (if buzz then (b.link l).tx.bstuck else (b.link l).tx.stuck) then b.leaveService l 0x0201 false else b)

/-- HEARTBEAT_LOSS (R225): while supervision runs (R208). -/
def execHeartbeatLoss (l : LinkId) (s : State) : Out :=
  s.act (fun b => if (b.link l).hbSuspended (b.pwr.groups[groupOf l]).request then b else b.leaveService l 0x0203 false)

/-- A link fails at its lanes: it leaves service with `code`, or its training attempt ends with 0x0205 (R225). -/
def Block.linkFails (b : Block) (l : LinkId) (code : Nat) : Block :=
  if (b.link l).linked then b.leaveService l code false else if (b.link l).training then b.trainFail l 0x0205 else b

/-- ALIGNMENT_LOSS (R225). -/
def execAlignmentLoss (l : LinkId) (f : Fec) (s : State) : Out := s.act (fun b => (b.modLink l (fun x => x.fec f)).linkFails l 0x0202)

/-- LANE_LOSS (R197, R225): the table of R225 gives this departure no code, so it is a free value. -/
def execLaneLoss (l : LinkId) (s : State) : Out :=
  s.act (fun b => let d := b.draw; d.2.linkFails l (Config.laneLossCode d.1).toNat)

/-! ### Training (R184, R222 to R224) -/

/-- TRAINING_DETECT (R222): the partner's signal on both lanes. -/
def Block.detected (b : Block) (l : LinkId) : Block :=
  let x := b.link l
  if b.inReset ∨ x.st ≠ .detect ∨ b.now < x.tr.pauseUntil then b
  else b.setLink l
    { x with st := .equalise, tr := { x.tr with pauseUntil := 0, since := if x.tr.pauseUntil = 0 then x.tr.since else b.now } }

/-- TRAINING_DETECT. -/
def execTrainingDetect (l : LinkId) (s : State) : Out := s.act (fun b => b.detected l)

/-- TRAINING_EQUALISE_DONE (R222). -/
def execTrainingEqualiseDone (l : LinkId) (s : State) : Out :=
  s.act (fun b => b.modLink l (fun x => if x.st = .equalise then { x with st := .lock, tr := { x.tr with lockRun := 0, echo := none } } else x))

/-- A train of training flits in Lock: 8 good ones in a row end it (R222). -/
def Link.locked (x : Link) (good : Bool) : Link :=
  if x.st ≠ .lock then x
  else if !good then x.modTr (fun t => { t with lockRun := 0 })
  else if 7 ≤ x.tr.lockRun then { x with st := .identify, tr := { x.tr with lockRun := 8, idCount := 0, idMax := 0 } }
  else x.modTr (fun t => { t with lockRun := t.lockRun + 1 })

/-- The fields of a training flit that R223 fixes. -/
def trainingOk (body : List Byte) : Bool :=
  body.length == 64 && field body 0 1 == 2 && decide (1 ≤ field body 1 1) && decide (field body 1 1 ≤ 3) && decide (field body 4 4 < 2 ^ 18) &&
  allZero (slice body 0x20 32) && (field body 1 1 == 3 || allZero (slice body 0x18 8))

/-- The tx_time of a training flit is the echo_time of the next one sent, whatever its phase (R223). -/
def Link.heard (x : Link) (body : List Byte) : Link := x.modTr (fun t => { t with echo := some (BitVec.ofNat 32 (field body 0x0C 4)) })

/-- A train of training flits arrives in Lock, Identify or Grant: what the decoder found is counted, and a malformed flit ends the attempt
(R223, R225, R228). -/
def Block.trainFlit (b : Block) (l : LinkId) (st : LState) (body : List Byte) (f : Fec) (go : Block → Block) : Block :=
  if b.inReset then b
  else
    let b := b.modLink l (fun x => x.fec f)
    if (b.link l).st ≠ st then b
    else if !trainingOk body then b.trainFail l 0x0205
    else go (b.modLink l (fun x => x.heard body))

/-- TRAINING_LOCK_FLIT (R222): a train that fails its checks is none of the 8. -/
def Block.lockFlit (b : Block) (l : LinkId) (good : Bool) (body : List Byte) (f : Fec) : Block :=
  if good then b.trainFlit l .lock body f (fun b => b.modLink l (fun x => x.locked true))
  else if b.inReset then b
  else b.modLink l (fun x => (x.fec f).locked false)

/-- TRAINING_LOCK_FLIT. -/
def execTrainingLockFlit (l : LinkId) (good : Bool) (body : List Byte) (f : Fec) (s : State) : Out := s.act (fun b => b.lockFlit l good body f)

/-- The first condition of R184 that the partner fails, delay apart. -/
def Block.identityFault (b : Block) (l : LinkId) (body : List Byte) : Option Nat :=
  if field body 3 1 ≠ 0xB0 ∨ field body 4 4 ≠ (partnerCoord b.boot.physCoord l).toNat ∨ field body 2 1 ≠ partnerLink b.boot.physCoord l then
    some 0x0210
  else if field body 8 4 ≠ b.boot.machine then some 0x0212
  else none

/-- The one-way wire delay that a training flit measures (R224). -/
def wireDelayOf (body : List Byte) (arrival : BitVec 32) : Nat :=
  ceilDiv (arrival - BitVec.ofNat 32 (field body 0x10 4) - BitVec.ofNat 32 (field body 0x14 4)).toNat 2

/-- Both ends' sequence spaces, buffers and credits as Grant sets them (R222); the train under way goes on (R199). -/
def Link.toGrant (x : Link) : Link :=
  { x with st := .grant, tx := { x.tx.withdraw with slotPos := x.tx.slotPos }, rx := x.rx.withdraw }

/-- TRAINING_IDENTIFY_FLIT (R184, R223, R224): flits of the Lock phase are not yet judged. -/
def Block.identify (b : Block) (l : LinkId) (body : List Byte) (arrival : BitVec 32) : Block :=
  let x := b.link l
  if field body 1 1 = 1 then b
  else match b.identityFault l body with
    | some code => b.trainFail l code
    | none =>
      let m := Nat.max x.tr.idMax (wireDelayOf body arrival)
      let n := x.tr.idCount + 1
      let x := { x with
        partner := some (BitVec.ofNat 6 (field body 2 1), coordOf (field body 4 4))
        tr := { x.tr with idCount := n, idMax := m } }
      if n < 16 then b.setLink l x
      else
        let x := { x with wireDelay := BitVec.ofNat 16 (Nat.min m 65535) }
        if 500 < m then (b.setLink l x).trainFail l 0x0211 else b.setLink l x.toGrant

/-- TRAINING_IDENTIFY_FLIT. -/
def execTrainingIdentifyFlit (l : LinkId) (body : List Byte) (arrival : BitVec 32) (f : Fec) (s : State) : Out :=
  s.act (fun b => b.trainFlit l .identify body f (fun b => b.identify l body arrival))

/-- TRAINING_GRANT_FLIT (R214, R222, R227): the partner's grant makes the sender's credits, the coefficients are kept, and the link enters
Standby. -/
def Block.granted (b : Block) (l : LinkId) (body : List Byte) : Block :=
  let x := b.link l
  if field body 1 1 ≠ 3 then b
  else if slice body 0x18 8 ≠ leBytes 2 grants.buzz ++ leBytes 2 grants.bulk ++ leBytes 2 grants.parcel ++ leBytes 2 grants.tunnel then
    b.trainFail l 0x0205
  else
    let wait := b.standbyWait l
    b.setLink l { x with
      st := .standby, pwr := .boil, entering := none, tx := { x.tx.withdraw with slotPos := x.tx.slotPos, free := grants, used := Four.zero }
      tr := { x.tr with coeffs := true, wait := wait, ready := x.tr.atOnce || wait.isEmpty, peerReady := false } }

/-- TRAINING_GRANT_FLIT. -/
def execTrainingGrantFlit (l : LinkId) (body : List Byte) (f : Fec) (s : State) : Out :=
  s.act (fun b => b.trainFlit l .grant body f (fun b => b.granted l body))

/-- TRAINING_TIMEOUT (R222): 20 ms from Cold without coefficients, 20 µs with them. -/
def execTrainingTimeout (l : LinkId) (s : State) : Out :=
  s.act (fun b =>
    let x := b.link l
    if x.training then (b.advanceTo (x.tr.since + if x.tr.coeffs then 500 else 500000)).trainFail l 0x0205 else b)

/-- TRAINING_RETRY (R222): 1 ms after a failed attempt. -/
def execTrainingRetry (l : LinkId) (s : State) : Out :=
  s.act (fun b =>
    let x := b.link l
    if x.st = .detect ∧ x.tr.pauseUntil ≠ 0 then
      let b := b.advanceTo x.tr.pauseUntil
      b.setLink l { x with tr := { x.tr with pauseUntil := 0, since := b.now } }
    else b)

/-! ### Into service (R227) -/

/-- LINK_READY (R227). -/
def execLinkReady (l : LinkId) (s : State) : Out :=
  s.act (fun b => b.modLink l (fun x =>
    if x.st = .standby ∧ x.tr.wait = [] then { x with tr := { x.tr with ready := true } } else x))

/-- LINK_ENTER_SERVICE (R227): at a train boundary routing begins, held flits leave, and the ends exchange their generations (R185, R191). -/
def Block.enterService (b : Block) (l : LinkId) : Block :=
  let x := b.link l
  if x.st ≠ .standby ∨ !x.tr.ready ∨ !x.tr.peerReady ∨ x.tx.slotPos ≠ 0 then b
  else
    let b := b.setLink l { x with
      st := .inService, pwr := .boil, rx := { x.rx with peerGen := none }
      tr := { x.tr with atOnce := false } }
    ((b.sendReportGen l).releaseHeld.busyGroup l).scanReady

/-- LINK_ENTER_SERVICE. -/
def execLinkEnterService (l : LinkId) (s : State) : Out := s.act (fun b => b.enterService l)

end Sys2Proof.Machine
end

