-- ==== Sys2Proof/Machine/Power.lean ====
section
/-! DEFINITION. Power states of combs and link groups (R385 to R393), WAKE (R266), combs that fail and return (R331 to R334), and lost
reference clocks (R384). -/

namespace Sys2Proof.Machine
open Sys2Proof

/-! ### Idle timers (R387, R391) -/

/-- The state that an idle unit sinks to next and the KT of idleness at which it does: of the deeper states that the floor permits, the one
whose time comes first; a time of 0 is never (R435). -/
def nextIdle (now floor simmer warm cold : Nat) : Option (Pwr × Nat) :=
  let cand : List (Pwr × Nat) :=
    (if now < 1 ∧ simmer ≠ 0 then [(Pwr.simmer, simmer)] else []) ++
    (if now < 2 ∧ 2 ≤ floor ∧ warm ≠ 0 then [(Pwr.warm, warm)] else []) ++
    (if now < 3 ∧ 3 ≤ floor ∧ cold ≠ 0 then [(Pwr.cold, cold)] else [])
  cand.foldl (fun best c => match best with
    | none => some c
    | some x => if c.2 < x.2 then some c else some x) none

/-- COMB_IDLE_TIMER_EXPIRY (R385, R387): the entry begins. -/
def Block.combIdle (b : Block) (c : CombId) : Block :=
  let x := b.comb c
  let k := b.pwr.combCfg[c]
  if x.svc ≠ .idle ∨ x.entering.isSome ∨ x.waking then b
  else match nextIdle x.pwr.code k.floor.eff 1 k.warm.eff k.cold.eff with
    | none => b
    | some (t, idle) =>
      let b := b.advanceTo (x.idleSince + idle)
      b.setComb c { x with entering := some t, due := b.now + entryKt t }

/-- COMB_IDLE_TIMER_EXPIRY. -/
def execCombIdleTimerExpiry (c : CombId) (s : State) : Out := s.act (fun b => b.combIdle c)

/-- The deeper states that a group's request may fall to, each with its KT (R389 to R391): Simmer after 512 XCLK, which are 7 KT, of quiet, and
none within as long of leaving Simmer; a time of 0 is never (R435). -/
def Group.sinks (g : Group) (floor warm cold : Nat) : List (Pwr × Nat) :=
  let cand : List (Pwr × Nat) :=
    [(Pwr.simmer, 7)] ++ (if 2 ≤ floor ∧ warm ≠ 0 then [(Pwr.warm, warm)] else []) ++ (if 3 ≤ floor ∧ cold ≠ 0 then [(Pwr.cold, cold)] else [])
  (cand.filter (fun c => decide (g.request.code < c.1.code))).map (fun c => (c.1, Nat.max (g.idleSince + c.2) (g.boilAt + 7)))

/-- The request falls to `t`: Simmer links have it to show (R388), which takes them out of Simmer (R390), and parked links go on to the
deeper state (R391). -/
def Block.sinkGroup (b : Block) (d : DimId) (t : Pwr) : Block :=
  let parked := (groupLinks d).filter (fun l =>
    (b.link l).parked && decide ((match (b.link l).entering with | some o => o | none => (b.link l).pwr).code < t.code))
  let b := b.modGroup d (fun g => if 2 ≤ t.code ∧ parked ≠ [] then
    { g with request := t, entering := some (match g.entering with | some o => if o.code ≤ t.code then t else o | none => t)
             due := Nat.max g.due (b.now + entryKt t) } else { g with request := t })
  let b := (groupLinks d).foldl (fun b l => b.modLink l (fun x => if x.st = .inService ∧ x.pwr = .simmer ∧ x.lc.shown ≠ t then x.lcDue else x)) b
  if 2 ≤ t.code then parked.foldl (fun b l => b.modLink l (fun x => { x with entering := some t })) b else b

/-- LINK_GROUP_IDLE_TIMER_EXPIRY (R389 to R391): the group's request falls to the deepest state that its timers then permit. It falls only while
every link of the group is quiet, and below Simmer only while nothing of R389 holds. -/
def Block.groupIdle (b : Block) (d : DimId) : Block :=
  let g := b.pwr.groups[d]
  let k := b.pwr.lnkCfg[d]
  let quiet := (groupLinks d).all (fun l => (b.link l).tx.quiet)
  if g.waking ∨ g.entering.isSome ∨ !quiet ∨ !b.serving then b
  else
    match g.sinks (if b.mustSimmer d then 1 else k.floor.eff) k.warm.eff k.cold.eff with
    | [] => b
    | c :: cs =>
      let b := b.advanceTo (cs.foldl (fun t q => Nat.min t q.2) c.2)
      b.sinkGroup d ((c :: cs).foldl (fun t q => if q.2 ≤ b.now ∧ t.code < q.1.code then q.1 else t) g.request)

/-- LINK_GROUP_IDLE_TIMER_EXPIRY. -/
def execLinkGroupIdleTimerExpiry (d : DimId) (s : State) : Out := s.act (fun b => b.groupIdle d)

/-! ### Entry and wake (R385) -/

/-- A comb's entry ends: Cold loses its stores; a wake that waited counts from here. -/
def Comb.entered (x : Comb) (t : Pwr) (now : Nat) : Comb :=
  { x with pwr := t, entering := none, store := if t = .cold then none else x.store, due := if x.waking then now + wakeKt t else x.due }

/-- POWER_ENTRY_COMPLETE (R385). -/
def Block.entryDone (b : Block) (u : PwrUnit) : Block :=
  match u with
  | .comb c =>
    (match (b.comb c).entering with
     | none => b
     | some t => let b := b.advanceTo (b.comb c).due; b.modComb c (fun x => x.entered t b.now))
  | .group d =>
    (match (b.pwr.groups[d]).entering with
     | none => b
     | some t =>
       let b := b.advanceTo (b.pwr.groups[d]).due
       let b := (groupLinks d).foldl (fun b l => b.modLink l (fun x => match x.entering with
         | some p => { x with pwr := p, entering := none }
         | none => x)) b
       b.modGroup d (fun g => { g with entering := none, due := if g.waking then b.now + wakeKt t else g.due }))

/-- The comb buffers as an entry leaves them: one of a comb that is then Cold is lost, and reads +0 when the comb comes back (R385, R386). -/
def Block.keptBufs (b : Block) (m : Vector Mem 4) : Vector Mem 4 :=
  Vector.ofFn (fun (c : CombId) => if (b.comb c).pwr = .cold then [] else m[c])

/-- POWER_ENTRY_COMPLETE. -/
def execPowerEntryComplete (u : PwrUnit) (s : State) : Out := s.actBufs (fun b m => (b.entryDone u, (b.entryDone u).keptBufs m))

/-- WAKE_COMPLETE (R385): an idle comb is at Boil, or the Simmer links of a group; parked links come back by training (R392). -/
def Block.wakeDone (b : Block) (u : PwrUnit) : Block :=
  match u with
  | .comb c =>
    let x := b.comb c
    if x.waking ∧ x.entering.isNone ∧ x.svc = .idle then
      (b.advanceTo x.due).setComb c { x with pwr := .boil, waking := false }
    else b
  | .group d =>
    let g := b.pwr.groups[d]
    if g.waking ∧ g.entering.isNone then
      let b := (b.advanceTo g.due).modGroup d (fun g => { g with waking := false })
      if g.request = .boil then (groupLinks d).foldl (fun b l => b.modLink l Link.ungate) b else b
    else b

/-- The comb buffers after a wake: that of a comb which leaves Cold is cleared (R386). -/
def Block.wokenBufs (b : Block) (u : PwrUnit) (m : Vector Mem 4) : Vector Mem 4 :=
  match u with
  | .comb c => if (b.comb c).pwr = .cold ∧ ((b.wakeDone u).comb c).pwr = .boil then m.set c [] else m
  | .group _ => m

/-- WAKE_COMPLETE: a partition that waits for the comb may start then. -/
def execWakeComplete (u : PwrUnit) (s : State) : Out := s.actBufs (fun b m => (b.wakeDone u, b.wokenBufs u m))

/-! ### Simmer and parking of links (R390 to R392) -/

/-- LINK_SIMMER_ENTRY (R390): at a train boundary, when both ends show Simmer or deeper and nothing waits. -/
def Link.simmer (x : Link) (request : Pwr) : Link :=
  if x.st = .inService ∧ x.pwr = .boil ∧ request ≠ .boil ∧ x.lc.shown ≠ .boil ∧ x.rx.peerPwr ≠ .boil ∧ x.tx.quiet ∧ x.tx.slotPos = 0 then
    { x with pwr := .simmer }
  else x

/-- LINK_SIMMER_ENTRY. -/
def execLinkSimmerEntry (l : LinkId) (s : State) : Out :=
  s.act (fun b => b.modLink l (fun x => x.simmer (b.pwr.groups[groupOf l]).request))

/-- LINK_SIMMER_EXIT. -/
def execLinkSimmerExit (l : LinkId) (s : State) : Out := s.act (fun b => b.simmerExit l)

/-- The deeper of two states. -/
def Pwr.deeper (a b : Pwr) : Pwr := if a.code ≤ b.code then b else a

/-- LINK_PARK (R391): both ends have shown Warm or deeper and nothing is outstanding; the credits go back to the ledger. -/
def Block.park (b : Block) (l : LinkId) : Block :=
  let x := b.link l
  let g := groupOf l
  let req := (b.pwr.groups[g]).request
  if x.st ≠ .inService ∨ req.code < 2 ∨ x.lc.shown.code < 2 ∨ x.rx.peerPwr.code < 2 ∨ !x.tx.quiet ∨ !x.rx.unconf.isEmpty ∨
      !x.rx.waiting.isEmpty ∨ x.lc.due ∨ x.tx.slotPos ≠ 0 then b
  else
    let t := req.deeper x.rx.peerPwr
    let b := b.setLink l { x with
      st := .cold, parked := true, entering := some t, tx := x.tx.withdraw, rx := x.rx.withdraw
      lc := ⟨false, false, false, x.lc.heartbeat, .boil⟩, tr := { x.tr with ready := false, peerReady := false, wait := [] } }
    b.modGroup g (fun y => { y with
      entering := some (match y.entering with | some o => o.deeper t | none => t), due := Nat.max y.due (b.now + entryKt t) })

/-- LINK_PARK. -/
def execLinkPark (l : LinkId) (s : State) : Out := s.act (fun b => b.park l)

/-- LINK_WAKE (R392): an end of a parked link requests Simmer or Boil, and training starts at Detect; an entry under way ends first (R385). -/
def Link.wakeParked (x : Link) (now : Nat) : Link :=
  if x.parked ∧ x.entering.isNone then
    { x with st := .detect, pwr := .boil, parked := false
             tr := { x.tr with lockRun := 0, idCount := 0, atOnce := true, pauseUntil := 0, since := now } }
  else x

/-- LINK_WAKE. -/
def execLinkWake (l : LinkId) (s : State) : Out := s.act (fun b => b.modLink l (fun x => x.wakeParked b.now))

/-! ### Wake hints (R266, R393) -/

/-- The group and every connected link of it is at Boil. -/
def Block.groupBoil (b : Block) (d : DimId) : Bool :=
  (b.pwr.groups[d]).request == .boil && !(b.pwr.groups[d]).waking &&
  (groupLinks d).all (fun l => b.linkAbsent l || (b.link l).pwr == .boil)

/-- A hint for one group: no effect on one at Boil, else Boil at once and the hold afresh. -/
def Block.hintGroup (b : Block) (d : DimId) : Block :=
  if b.groupBoil d ∨ descPhysical b.boot.machine d ≤ 1 then b
  else (b.raiseGroup d .boil).modGroup d (fun g => { g with holdUntil := some (b.now + 25000) })

/-- WAKE's effect: for each named group the sequencer acts on the hint or not (R266), which is a free value. -/
def Block.wakeHint (b : Block) (mask : BitVec 6) : Block :=
  let k := b.draw
  (List.finRange 6).foldl (fun b (d : DimId) => if mask.getLsbD d.val = true ∧ Config.wakeActs k.1 d.val = true then b.hintGroup d else b) k.2

/-- WAKE. -/
def execWake (c : CombId) (p : Pr) (mask : BitVec 6) (s : State) : Out :=
  s.act (fun b => b.issue c p (fun _ => false) (fun b => b.wakeHint mask))

/-- The hold of a wake hint ends (R393). -/
def Block.holdEnds (b : Block) (d : DimId) : Block :=
  match (b.pwr.groups[d]).holdUntil with
  | none => b
  | some t => (b.advanceTo t).modGroup d (fun g => { g with holdUntil := none })

/-- WAKE_HINT_HOLD_EXPIRY. -/
def execWakeHintHoldExpiry (d : DimId) (s : State) : Out := s.act (fun b => b.holdEnds d)

/-! ### Combs that fail and return (R331 to R334) -/

/-- A comb fails for a cause: its step aborts with 0x0340 and gives back its cells and tokens, and the comb leaves service in the same XCLK
(R331, R332; DEDUCED, log entry 71); the last one stops the chip (R333). -/
def Block.combFails (b : Block) (c : CombId) (cause : Nat) : Block :=
  let x := b.comb c
  if x.svc ≠ .idle ∧ x.svc ≠ .running then b
  else
    let p := if x.svc = .running then x.part else none
    let b := match p with | some p => (b.originate p 0x0340 0).returnAll p | none => b
    let b := b.modComb c (fun x => { x with
      svc := .failed, pwr := .cold, entering := none, waking := false, store := none, failCause := byteOf cause, failCode := 0x0340, prods := [], ops := [] })
    let b := b.log 0x0340 (.comb c) p ([c.val, cause] ++ (match p with | some p => [p.val] | none => []))
    if allCombs.all (fun c => (b.comb c).svc == .released || (b.comb c).svc == .failed) then b.halt 0x0341 [(0x0341, .comb c, [])] else b

/-- COMB_FAILURE (R331, R407): a correctable SRAM error is only counted and logged. A comb that fails is Cold (R387), and its buffer is lost. -/
def execCombFailure (c : CombId) (cause : CombCause) (s : State) : Out :=
  s.actBufs (fun b m =>
    let n := match cause with
    | .sramCorrectable =>
      if (b.comb c).svc = .idle ∨ (b.comb c).svc = .running then
        (b.modComb c (fun x => { x with cnt := { x.cnt with sramCorr := satAdd x.cnt.sramCorr 1 } })).log 0x0331 (.comb c) none []
      else b
    | .sramUncorrectable => b.combFails c 1
    | .parity => b.combFails c 2
    (n, n.keptBufs m))

/-- The step on comb `c` has instructions left to issue and waits on nothing outside the comb (R331): it has agreed and meets no abort, nothing
that it launched is unfinished, and no page or block of its stage 1 is awaited. A step that ends has no run any more. -/
def Block.stuckInside (b : Block) (c : CombId) : Bool :=
  match (b.comb c).part with
  | none => false
  | some p => match b.run? p with
    | none => false
    | some r => (b.comb c).svc == .running && r.agreed && r.abort.isNone && r.launches.isEmpty && r.buzz.all BuzzOp.capped &&
        r.rounds.all (fun o => o.st == .drained) && r.runs.all (fun t => t.left.isNone && (!t.xissued || (t.delivered && t.residDone)))

/-- The watchdog of a comb runs out (R331): 50,000 KT without an issue. -/
def Block.watchdogEnds (b : Block) (c : CombId) : Block :=
  if b.stuckInside c then (b.advanceTo ((b.comb c).lastIssue + 50000)).combFails c 3 else b

/-- COMB_WATCHDOG. -/
def execCombWatchdog (c : CombId) (s : State) : Out := s.actBufs (fun b m => (b.watchdogEnds c, (b.watchdogEnds c).keptBufs m))

/-- COMB_RETURN_WAKE_DONE (R334): its SRAM is cleared. -/
def Block.combReturns (b : Block) (c : CombId) (ok : Bool) : Block :=
  let x := b.comb c
  if !x.waking ∨ (x.svc ≠ .released ∧ x.svc ≠ .failed) ∨ !b.serving then b
  else
    let b := b.advanceTo x.due
    if ok then (b.setComb c { x with svc := .idle, pwr := .boil, waking := false, store := none, idleSince := b.now }).scanReady
    else (b.setComb c { x with svc := .failed, waking := false, failCause := 4, failCode := 0x0340 }).log 0x0340 (.comb c) none [c.val, 4]

/-- COMB_RETURN_WAKE_DONE. -/
def execCombReturnWakeDone (c : CombId) (selfCheckOk : Bool) (s : State) : Out :=
  s.actBufs (fun b m => (b.combReturns c selfCheckOk, if (b.combReturns c selfCheckOk).comb c = b.comb c then m else m.set c []))

/-! ### Lost references (R384) -/

/-- CORE_REFCLK_LOSS: the chip halts with 0x0342. -/
def execCoreRefclkLoss (s : State) : Out :=
  s.act (fun b =>
    let b := b.advanceTo (b.now + 25)
    if b.inReset then b else b.halt 0x0342 [(0x0342, .kettle, [])])

/-- LNK_REFCLK_LOSS: every link loses alignment. -/
def execLnkRefclkLoss (s : State) : Out :=
  s.act (fun b =>
    let b := b.advanceTo (b.now + 25)
    allLinks.foldl (fun b l => b.linkFails l 0x0202) b)

/-- PCIE_REFCLK_LOSS: the port's link goes down, and its contexts close as under a reset of its PF. -/
def execPcieRefclkLoss (h : PortId) (s : State) : Out :=
  s.act (fun b =>
    let b := b.advanceTo (b.now + 25)
    ((b.linkLost h).closeFunctions (fun p _ => p == h)).scanReady)

end Sys2Proof.Machine
end

