-- ==== Sys2Proof/Machine/Image.lean ====
section
/-! DEFINITION. The Genul image: header, directory and entries (R346 to R351), its checks in table order (R354), and the signature
(R352). -/

namespace Sys2Proof.Machine
open Sys2Proof

/-! ### Layout (R346 to R350) -/

/-- The directory entry of index `k` (R348). -/
def dirEntry (img : List Byte) (k : Nat) : List Byte := slice img (0x100 + 16 * k) 16
/-- Partition number, offset and length of a directory entry. -/
def dirPart (d : List Byte) : Nat := field d 0 1 % 128
def dirOff (d : List Byte) : Nat := field d 4 4
def dirLen (d : List Byte) : Nat := field d 8 4

/-- The entry of a directory entry: its bytes. -/
def entryBytes (img : List Byte) (d : List Byte) : List Byte := slice img (dirOff d) (dirLen d)
/-- The bytes of tensor entry `t` of a partition entry (R349). -/
def tensorBytes (e : List Byte) (t : Nat) : List Byte := slice e (0x100 + 64 * t) 64
/-- The program's bytes (R349). -/
def progBytes (e : List Byte) : List Byte := slice e (0x100 + 64 * field e 2 2) (8 * field e 4 4)
/-- Instruction words of program bytes, little-endian (R269). -/
def progWords (bs : List Byte) : List DWord := (chunks 8 bs).map (fun w => BitVec.ofNat 64 (leNat w))

/-- A tensor entry (R350): codes that name nothing give a value that the checks refuse beforehand. -/
def tensorOf (t : List Byte) : TensorEntry :=
  let fl := field t 4 1
  let fmt (o : Nat) : Fmt := (Fmt.ofCode (field t o 1)).getD .f32
  { method := (Method.ofCode (field t 0 1)).getD .dense, xfmt := fmt 1, gfmt := fmt 2, rfmt := fmt 3, ef := bitAt fl 0, spec := bitAt fl 1
    stats := bitAt fl 2, gRole := bitAt fl 3, rRole := bitAt fl 4, fRole := bitAt fl 5, split := 2 ^ bitsOf fl 7 6, bundle := field t 5 1
    z := signedOf 8 (field t 6 1), x := signedOf 8 (field t 7 1), n := field t 8 4, select := field t 0x0C 4, a := field t 0x10 4
    b := field t 0x14 4, rank := field t 0x18 1, opfmt := if field t 0x19 1 = 2 then .h16 else .b16, beam := field t 0x1A 1
    iters := field t 0x1B 1, seed := field t 0x1C 4 }

/-- The value sets of an entry (R349). -/
def vsetOf (e : List Byte) : VSet := Vector.ofFn (fun (d : Fin 6) => e.getD (8 + d.val) 0)

/-- The entry with the bytes that its digest takes as zero (R351). -/
def digestForm (e : List Byte) : List Byte :=
  e.take 0x18 ++ [0] ++ slice e 0x19 3 ++ zeros 4 ++ slice e 0x20 16 ++ zeros 32 ++ e.drop 0x50

/-- What an entry at `off` fixes for its partition (R349, R351). -/
def partOf (off : Nat) (e : List Byte) : PartImage :=
  let tc := field e 2 2
  { tensors := (List.range tc).map (fun t => tensorOf (tensorBytes e t)), prog := progWords (progBytes e), progOff := off + 0x100 + 64 * tc
    vset := vsetOf e, quota := field e 0x10 4, share := field e 0x14 4, weight := field e 0x18 1
    timeout := if field e 0x1C 4 = 0 then 50000 else field e 0x1C 4, cbE := field e 0x20 4, key := slice e 0x30 32
    cbDigest := slice e 0x50 48, progDigest := slice e 0x80 48, entryDigest := sha384 (digestForm e) }

/-! ### Header checks (R347, checks 1 to 3) -/

/-- The div range of a read mode (R342). -/
def divOk (mode div : Nat) : Bool := decide ((if mode = 3 then 2 else 4) ≤ div) && decide (div ≤ 16)
/-- nvm_cfg (R347). -/
def nvmCfgOk (c : Nat) : Bool :=
  bitsOf c 31 21 == 0 && bitsOf c 15 13 == 0 && bitsOf c 7 2 == 0 && divOk (bitsOf c 1 0) (bitsOf c 12 8)
/-- The first of checks 1 to 3 that the header fails (R354). -/
def checkHeader (h : List Byte) : Option Nat :=
  let pc := field h 6 2
  let sig := field h 8 4
  if field h 0 4 ≠ 0x4C4E4547 ∨ field h 4 1 ≠ 1 then some 0x0501
  else if field h 5 1 ≠ 0xB0 then some 0x0502
  else if 128 < pc ∨ sig % 64 ≠ 0 ∨ sig < roundUp (0x100 + 16 * pc) 64 ∨ field h 0x0C 4 ≠ sig + 256 ∨ 2 ^ 28 < field h 0x0C 4 ∨
      !nvmCfgOk (field h 0x14 4) ∨ field h 0x18 2 < 4 ∨ 168 < field h 0x18 2 ∨ !allZero (slice h 0x1A 2) ∨ !allZero (slice h 0x20 224) then
    some 0x0503
  else none

/-! ### Signature (R352, checks 4 and 5) -/

/-- The first of checks 4 and 5 that the image fails. -/
def checkSignature (f : Fuses) (img : List Byte) (sigOff : Nat) : Option Nat :=
  let s := slice img sigOff 256
  let key := slice s 0 96
  let num (o : Nat) : Nat := beNat (slice s o 48)
  if !allZero f.anchor && sha384 key != f.anchor then some 0x0504
  else if !onCurve384 (num 0) (num 0x30) || !allZero (slice s 0xC0 64) ||
      !ecdsa384Verify (num 0) (num 0x30) (num 0x60) (num 0x90) (img.take sigOff) then some 0x0505
  else none

/-! ### Content checks (checks 6 to 15) -/

/-- The detail word of a failure that concerns a partition, and a tensor or instruction (R354). -/
def bootDetail (part idx : Nat) : Nat := 128 + part + 256 * idx

/-- What check 8 finds wrong with directory entry `k`, the end of the entry before it at `from'` (R346, R348, R349). -/
def dirBad (img : List Byte) (prev : Option Nat) (from' : Nat) (d : List Byte) : Bool :=
  let e := entryBytes img d
  bitAt (field d 0 1) 7 || !allZero (slice d 1 3) || !allZero (slice d 12 4) ||
  (match prev with | some p => decide (dirPart d ≤ p) | none => false) ||
  dirOff d % 64 != 0 || decide (dirOff d < from') || dirLen d != 0x100 + 64 * field e 2 2 + 8 * field e 4 4

/-- The directory in order; answers the end of the last entry. -/
def checkDirAux (img : List Byte) : List (List Byte) → Option Nat → Nat → Nat ⊕ Nat
  | [], _, stop => .inr stop
  | d :: t, prev, stop =>
    if dirBad img prev stop d then .inl (bootDetail (dirPart d) 0)
    else checkDirAux img t (some (dirPart d)) (dirOff d + dirLen d)

/-- The signed bytes outside the header, the directory and the entries are 0 (R346): the gaps, in order, from `at'` on. -/
def gapsZero (img : List Byte) : List (List Byte) → Nat → Nat → Bool
  | [], at', sig => allZero (slice img at' (sig - at'))
  | d :: t, at', sig => allZero (slice img at' (dirOff d - at')) && gapsZero img t (dirOff d + dirLen d) sig

/-- Check 8: the detail word of its failure. -/
def check8 (img : List Byte) (ds : List (List Byte)) (sig : Nat) : Option Nat :=
  let first := roundUp (0x100 + 16 * ds.length) 64
  match checkDirAux img ds none first with
  | .inl d => some d
  | .inr e => if sig < e ∨ !gapsZero img ds (0x100 + 16 * ds.length) sig then some 0 else none

/-- Check 9 on an entry (R182, R349). -/
def entryHeaderOk (machine : Nat) (d e : List Byte) : Bool :=
  let cbE := field e 0x20 4
  let t := field e 0x1C 4
  field e 0 1 == dirPart d && allZero (slice e 1 1) && decide (1 ≤ field e 2 2) && decide (1 ≤ field e 4 4) && decide (field e 4 4 ≤ 32768) &&
  dims.all (fun k => vsetAt (vsetOf e) k != 0 && (vals (vsetOf e) k).all (fun v => decide (v < descLogical machine k))) &&
  allZero (slice e 0x0E 2) && decide (1 ≤ field e 0x10 4) && decide (1 ≤ field e 0x18 1) && allZero (slice e 0x19 3) &&
  (t == 0 || (decide (1250 ≤ t) && decide (t ≤ 250000000))) && (cbE == 0 || (decide (64 ≤ cbE) && decide (cbE ≤ 2 ^ 30))) &&
  allZero (slice e 0x24 12) && (cbE != 0 || allZero (slice e 0x50 48)) && allZero (slice e 0xB0 80)

/-- The formats that carry statistics (R174). -/
def statsFmt (f : Fmt) : Bool := f == .s8 || f == .s4 || f == .t2 || f == .bx8 || f == .bx4

/-- Check 10 on a tensor entry (R79, R82, R103, R124, R166, R174, R350). -/
def tensorOk (v : VSet) (t : List Byte) : Bool :=
  match Method.ofCode (field t 0 1), Fmt.ofCode (field t 1 1) with
  | some m, some f =>
    let x := tensorOf t
    let k := kOf (blocksOf x.n) x.select
    let low := m == .lowrank
    let cbk := m == .codebook
    m.permits f && decide (field t 2 1 ≤ 2) && [0, 1, 2, 3, 4, 6].contains (field t 3 1) &&
    (!x.spec || m == .waggle) && (!x.stats || statsFmt f) && (!cbk || x.split == 1) && (x.split == 1 || (splitDim v x.split).isSome) &&
    (m == .waggle || field t 6 1 == 0) && (f == .w32 || f == .w64 || field t 7 1 == 0) && decide (1 ≤ x.n) &&
    (if m = .waggle then decide (1 ≤ k) && decide (k ≤ blocksOf x.n) &&
        (!bitAt x.select 31 || (bitsOf x.select 30 16 == 0 && decide (1 ≤ bitsOf x.select 15 0))) else x.select == 0) &&
    (if low then x.a * x.b == x.n && decide (1 ≤ x.rank) && decide (x.rank ≤ 64) && decide (x.rank ≤ Nat.min x.a x.b) &&
        (field t 0x19 1 == 1 || field t 0x19 1 == 2)
      else x.a == 0 && x.b == 0 && x.rank == 0 && field t 0x19 1 == 0 && x.seed == 0) &&
    (if cbk then decide (4 ≤ x.beam) && decide (x.beam ≤ 64) && decide (1 ≤ x.iters) else x.beam == 0 && x.iters == 0) &&
    allZero (slice t 0x20 32)
  | _, _ => false

/-- Tensor `t` breaks R253: its bundle holds 1 or more than 64 tensors, it is not DENSE or differs from the first member, or the bundle's
element count passes 2^32 − 1 with it. -/
def bundleBad (i : PartImage) (t : Nat) : Bool :=
  let e := i.entry t
  if e.bundle = 0 then false
  else
    let h := i.head t
    let f := i.entry h
    let u := i.unit h
    u.length == 1 || (u.findIdx? (· == t)).getD 0 ≥ 64 || e.method != .dense || e.xfmt != f.xfmt || e.split != f.split || e.stats != f.stats ||
    (match (i.offsets h).find? (fun q => q.1 == t) with | some q => decide (2 ^ 32 ≤ q.2 + e.n) | none => false)

/-- Check 12 on a partition (R156, R157): the tensor index of its failure, 0 for the entry as a whole. -/
def check12 (machine : Nat) (i : PartImage) : Option Nat :=
  let cb := i.tensors.findIdx? (fun t => t.method == .codebook)
  let n := groupSize i.vset
  let chips := (dims.map (descLogical machine)).foldl (· * ·) 1
  match cb with
  | none => if i.cbE = 0 then none else some 0
  | some t =>
    if i.cbE = 0 ∨ i.quota < ceilDiv n 16 then some 0
    else if 4096 < n ∨ (4096 < chips ∧ 2 < (openDims i.vset).length) then some t
    else none

/-- Tensor `t` breaks R243 under the quota. -/
def cellsBad (i : PartImage) (t : Nat) : Bool :=
  let e := i.entry t
  let ks : List RKind := match e.method with
    | .waggle => if 8 < blocksOf e.n then [.score, .main] else [.main]
    | .lowrank => [.factorP, .factorQ]
    | .codebook => []
    | _ => if i.head t = t then [.main] else []
  (e.method == .codebook && decide (i.quota < ceilDiv (groupSize i.vset) 16)) ||
  ks.any (fun k => decide (i.quota < i.cellsFor i.vset t k (Nat.min 16 (i.kindUnits t k))))

/-- The steep share breaks R336. -/
def shareBad (i : PartImage) : Bool := decide (i.share < i.demand) && decide (i.share < 64)

/-- Bytes of a partition's areas (R328). -/
def PartImage.areaBytes (i : PartImage) (p : PartId) : Nat := ((i.areas p).map Prod.fst).foldl (· + ·) 0

/-- Check 15 in directory order with its running totals of cells and bytes (R354). -/
def check15 : List (Nat × PartImage) → Nat → Nat → Option Nat
  | [], _, _ => none
  | q :: t, cells, bytes =>
    let i := q.2
    match (List.range i.tensors.length).find? (cellsBad i) with
    | some k => some (bootDetail q.1 k)
    | none =>
      let bytes := bytes + i.areaBytes (Fin.ofNat 128 q.1)
      if shareBad i ∨ 24576 < cells + i.quota ∨ 96 * 2 ^ 30 < bytes then some (bootDetail q.1 0)
      else check15 t (cells + i.quota) bytes

/-- The first of checks 6 to 15 that the image fails: its code and detail word (R354). -/
def checkContent (img : List Byte) (physCoord : Coord) : Option (Nat × Nat) :=
  let machine := field img 0x10 4
  let ds := (List.range (field img 6 2)).map (dirEntry img)
  let es := ds.map (fun d => (dirPart d, d, entryBytes img d))
  let ps := es.map (fun q => (q.1, partOf (dirOff q.2.1) q.2.2))
  let each (code : Nat) (f : Nat × List Byte × List Byte → Option Nat) : Option (Nat × Nat) :=
    es.findSome? (fun q => (f q).map (fun k => (code, bootDetail q.1 k)))
  let eachP (code : Nat) (f : PartImage → Option Nat) : Option (Nat × Nat) :=
    ps.findSome? (fun q => (f q.2).map (fun k => (code, bootDetail q.1 k)))
  (if descOk machine then none else some (0x0506, 0)).orElse fun _ =>
  (if withinPhysical machine physCoord then none else some (0x0540, 0)).orElse fun _ =>
  ((check8 img ds (field img 8 4)).map (fun d => (0x0507, d))).orElse fun _ =>
  (each 0x0508 (fun q => if entryHeaderOk machine q.2.1 q.2.2 then none else some 0)).orElse fun _ =>
  (each 0x0509 (fun q => (List.range (field q.2.2 2 2)).find? (fun t => !tensorOk (vsetOf q.2.2) (tensorBytes q.2.2 t)))).orElse fun _ =>
  (eachP 0x050A (fun i => (List.range i.tensors.length).find? (bundleBad i))).orElse fun _ =>
  (eachP 0x050B (check12 machine)).orElse fun _ =>
  (each 0x050C (fun q => if sha384 (progBytes q.2.2) = slice q.2.2 0x80 48 then none else some 0)).orElse fun _ =>
  (eachP 0x050D (fun i => (checkProgram i.prog i.tensors.length).map Prod.snd)).orElse fun _ =>
  (check15 ps 0 (2 ^ 28)).map (fun d => (0x050E, d))

/-- The image of partition `p`, where the directory has it. -/
def imagePart (img : List Byte) (p : PartId) : Option PartImage :=
  (((List.range (field img 6 2)).map (dirEntry img)).find? (fun d => dirPart d == p.val)).map (fun d => partOf (dirOff d) (entryBytes img d))

end Sys2Proof.Machine
end

