-- ==== Sys2Proof/Machine/Boot.lean ====
section
/-! DEFINITION. The resets of the chip (R394 to R396, R448) and start-up from the Genul image (R353 to R358), with the fetching of a program
again (R360). -/

namespace Sys2Proof.Machine
open Sys2Proof

/-! ### Resets -/

/-- A Kettle reset (R394, R395): a burn under way is cut short. -/
def State.kettleReset (s : State) (powerOn : Bool) : Out :=
  s.actFuses (fun b f => let d := b.draw; (d.2.kettleReset powerOn, f.cut d.1))

/-- KETTLE_POWER_ON. -/
def execKettlePowerOn (s : State) : Out := s.kettleReset true
/-- KETTLE_SELF_WATCHDOG. -/
def execKettleSelfWatchdog (s : State) : Out := s.kettleReset false

/-- A source of precedence 3 arises and acts 25 KT later (R394, R448): in the KT in which it arises it takes over from a register request, and
has no further effect beside a source of a lower number. -/
def Block.pinReset (b : Block) : Block :=
  match b.resetNow with
  | none => (b.advanceTo (b.now + 25)).nonKettleReset 3 3
  | some p => if 3 < p then b.resetRecorded 3 3 else b

/-- CHIP_RST_N low for 25 KT, or high again (R394, R396). -/
def Block.chipReset (b : Block) (low : Bool) : Block :=
  if low = b.kettle.rstLow then b
  else if low then
    let b := b.pinReset
    { b with kettle := { b.kettle with rstLow := true } }
  else { b with kettle := { b.kettle with rstLow := false, startAt := Nat.max b.kettle.startAt (b.now + 1) } }

/-- CHIP_RST_N. -/
def execChipRstN (low : Bool) (s : State) : Out := s.act (fun b => b.chipReset low)

/-- RAIL_FAULT (R448): out of tolerance for 1 µs; start-up waits until every rail has been back for 1 ms. -/
def Block.railFault (b : Block) : Block :=
  let b := b.pinReset
  { b with kettle := { b.kettle with railBad := true, startAt := b.now + 25000 } }

/-- RAIL_FAULT. -/
def execRailFault (s : State) : Out := s.act Block.railFault

/-! ### Start-up (R353) -/

/-- Start-up changed. -/
def Block.modBoot (b : Block) (f : Boot → Boot) : Block := { b with boot := f b.boot }

/-- The NVM port drives its pins, or not. -/
def Block.nvmBusy (b : Block) (x : Bool) : Block := { b with nvm := { b.nvm with busy := x } }

/-- The command of a read mode (R342): in 8D-8D-8D the command byte and its complement. -/
def nvmCommand (mode : Nat) : List Byte :=
  match mode with
  | 0 => [0x0C] | 1 => [0xBC] | 2 => [0xEC] | _ => [0xEE, 0x11]

/-- The read commands for `len` bytes from `addr` on: bursts of at most 4 KiB at ascending addresses (R344). -/
def nvmBursts (mode div dummy addr len : Nat) : List NvmRead :=
  (List.range (ceilDiv len 4096)).map (fun k => ⟨nvmCommand mode, addr + 4096 * k, Nat.min 4096 (len - 4096 * k), div, dummy⟩)

/-- The read of the header in the mode that the strap selects, at 25 MHz (R343). -/
def headerBursts (strap : Bool) : List NvmRead := if strap then nvmBursts 3 16 20 0 256 else nvmBursts 0 16 8 0 256

/-- A read in the mode that nvm_cfg gives (R343, R347). -/
def cfgBursts (cfg addr len : Nat) : List NvmRead := nvmBursts (cfg % 4) (cfg / 2 ^ 8 % 32) (cfg / 2 ^ 16 % 32) addr len

/-- The NVM port has driven these read commands. -/
def Block.nvmReads (b : Block) (rs : List NvmRead) : Block := { b with nvm := { b.nvm with reads := b.nvm.reads ++ rs } }

/-- A failed start (R354 to R356). -/
def Block.startFails (b : Block) (code detail : Nat) (u : EvUnit) : Block :=
  ((b.modBoot (fun x => { x with
    phase := .failed, code := BitVec.ofNat 16 code, detail := BitVec.ofNat 32 detail, image := [] })).nvmBusy false).log code u none [code, detail]

/-- START_UP_BEGIN (R353, R394, R396, R454): phase 1, once nothing holds the domains in reset. The reset that ends here releases a thermal
trip, or leaves it latched. -/
def Block.startUp (b : Block) (crd : Coord) (mode : Bool) : Block :=
  if b.boot.phase ≠ .none ∨ b.kettle.rstLow ∨ b.mspOff then b
  else
    let b := b.advanceTo b.kettle.startAt
    let b := if b.kettle.ending then b.releaseTrip else b
    let b := { b with kettle := { b.kettle with ending := false, railBad := false } }
    if b.kettle.thermTrip then b
    else (b.modBoot (fun x => { x with phase := .straps, physCoord := crd, strapMode := mode, code := 0, detail := 0 })).nvmBusy true

/-- START_UP_BEGIN. -/
def execStartUpBegin (crd : BitVec 18) (bootMode : Bool) (s : State) : Out := s.act (fun b => b.startUp crd bootMode)

/-- Phases 2 and 3 run side by side: the header is being read, or the core domains come up (R353). -/
def Block.early (b : Block) : Bool := b.boot.phase == .straps || b.boot.phase == .header || b.boot.phase == .core

/-- HEADER_READ_DONE (R347, checks 1 to 3 of R354). -/
def Block.headerRead (b : Block) (h : List Byte) : Block :=
  if !b.early ∨ b.boot.hdrDone ∨ h.length ≠ 256 then b
  else
  let b := b.nvmReads (headerBursts b.boot.strapMode)
  match checkHeader h with
    | some code => b.startFails code 0 .kettle
    | none => b.modBoot (fun x => { x with
        phase := if x.coreDone then .stream else .core, hdrDone := true, imageId := BitVec.ofNat 32 (field h 0x1C 4)
        nvmCfg := BitVec.ofNat 32 (field h 0x14 4), scrubHours := field h 0x18 2, partCount := field h 6 2, sigOff := field h 8 4
        imageLen := field h 0x0C 4, image := h })

/-- HEADER_READ_DONE. -/
def execHeaderReadDone (hdr : List Byte) (s : State) : Out := s.act (fun b => b.headerRead hdr)

/-- CORE_INIT_DONE (R357, R408, R432): a stack that does not initialise ends the start with 0x0513. -/
def Block.coreInit (b : Block) (bad : Vector Bool 4) : Block :=
  if !b.early ∨ b.boot.coreDone then b
  else
    let b := { b with hbm := { b.hbm with stackOf := Vector.ofFn (fun (i : Fin 4) =>
      { b.hbm.stackOf[i] with st := if bad[i] then 2 else 1 }) } }
    match (List.finRange 4).find? (fun (i : StackId) => bad[i]) with
    | some i => b.startFails 0x0513 0 (.stack i)
    | none => b.modBoot (fun x => { x with coreDone := true, phase := if x.hdrDone then .stream else x.phase })

/-- CORE_INIT_DONE. -/
def execCoreInitDone (stackFailed : Vector Bool 4) (s : State) : Out := s.act (fun b => b.coreInit stackFailed)

/-- IMAGE_STREAM_DONE (R343, R344): the image's bytes after the header; each byte is read once in a start. -/
def Block.streamed (b : Block) (rest : List Byte) : Block :=
  if b.boot.phase ≠ .stream ∨ 256 + rest.length ≠ b.boot.imageLen then b
  else
    let b := b.nvmReads (cfgBursts b.boot.nvmCfg.toNat 256 rest.length)
    (b.modBoot (fun x => { x with phase := .signature, image := x.image ++ rest })).nvmBusy false

/-- IMAGE_STREAM_DONE. -/
def execImageStreamDone (image : List Byte) (s : State) : Out := s.act (fun b => b.streamed image)

/-- SIGNATURE_VERIFY_DONE (R352, checks 4 and 5). -/
def Block.verified (b : Block) (f : Fuses) : Block :=
  if b.boot.phase ≠ .signature then b
  else
    let b := b.modBoot (fun x => { x with anchored := !allZero f.anchor })
    match checkSignature f b.boot.image b.boot.sigOff with
    | some code => b.startFails code 0 .kettle
    | none => b.modBoot (fun x => { x with phase := .content })

/-- SIGNATURE_VERIFY_DONE. -/
def execSignatureVerifyDone (s : State) : Out := s.act (fun b => b.verified s.fuses)

/-- CONTENT_VERIFY_DONE (R354, checks 6 to 15): the machine descriptor shows once check 6 has passed (R421). -/
def Block.contentDone (b : Block) : Block :=
  if b.boot.phase ≠ .content then b
  else
    let r := checkContent b.boot.image b.boot.physCoord
    let b := if r.map Prod.fst = some 0x0506 then b else b.modBoot (fun x => { x with machine := field x.image 0x10 4 })
    match r with
    | some q => b.startFails q.1 q.2 .kettle
    | none => b.modBoot (fun x => { x with phase := .layout })

/-- CONTENT_VERIFY_DONE. -/
def execContentVerifyDone (s : State) : Out := s.act Block.contentDone

/-- A defined partition as the layout phase sets it up (R326, R358). -/
def Part.laidOut (i : PartImage) : Part :=
  ({ Part.reset with img := some i, vset := i.vset, timeout := Ctl.at i.timeout, weight := Ctl.at i.weight, prog := i.prog }).formed i

/-- A link at Ready: it trains from Detect, unless R183 or a request holds it Cold. -/
def Link.atReady (x : Link) (absent : Bool) (now : Nat) : Link :=
  if absent || x.tr.takenOut then x else { x with st := .detect, pwr := .boil, tr := { x.tr with since := now } }

/-- LAYOUT_DONE (R358, R388, R405): HBM is laid out, the combs enter service, the links train, and the chip is Ready. -/
def Block.layout (b : Block) : Block :=
  if b.boot.phase ≠ .layout then b
  else
    let img := b.boot.image
    { b with
      boot := { b.boot with phase := .ready, image := [] }
      nvm := { b.nvm with due := [] }
      parts := Vector.ofFn (fun (p : PartId) => match imagePart img p with | some i => Part.laidOut i | none => Part.reset)
      combs := b.combs.map (fun x => { x with svc := .idle, pwr := .boil, idleSince := b.now })
      links := Vector.ofFn (fun (l : LinkId) => (b.link l).atReady (b.linkAbsent l) b.now)
      pwr := { b.pwr with groups := Vector.ofFn (fun (d : DimId) =>
        if 1 < descPhysical b.boot.machine d then { b.pwr.groups[d] with request := .boil, idleSince := b.now } else b.pwr.groups[d]) }
      hbm := { b.hbm with scrubHours := b.boot.scrubHours, scrubOn := true, passStart := b.now } }

/-- LAYOUT_DONE. -/
def execLayoutDone (s : State) : Out := s.act Block.layout

/-! ### A program fetched again (R360) -/

/-- An event of class 0x05 for a fetch or a mismatch: the spec gives no code within the class, so its low byte is a free value. -/
def Block.logFetch (b : Block) (p : PartId) : Block :=
  let d := b.draw
  d.2.log (0x0500 + (Config.progFetchCode d.1).toNat) .kettle (some p) []

/-- A fetch may start at a KT: refetch_en as it has effect there (R424). -/
def Nvm.mayFetch (n : Nvm) (kt : Nat) : Bool := if n.refetchAt < kt then n.refetchEn else n.refetchWas

/-- PROGRAM_FETCH (R345, R360): a fetch that is due and may run. -/
def Block.fetchProgram (b : Block) (p : PartId) (bytes : List Byte) : Block :=
  let x := b.part p
  if !b.nvm.due.contains p ∨ !b.nvm.mayFetch (Nat.max b.now x.fetchAt) ∨ b.boot.phase ≠ .ready then b
  else
    let b := (b.advanceTo x.fetchAt).nvmReads (cfgBursts b.boot.nvmCfg.toNat (b.image p).progOff (8 * (b.image p).prog.length))
    let b := ({ b with nvm := { b.nvm with fetches := wrapAdd b.nvm.fetches 1 } }).logFetch p
    let leave (b : Block) : Block := { b with nvm := { b.nvm with due := b.nvm.due.filter (· != p) } }
    if bytes.length = 8 * (b.image p).prog.length ∧ sha384 bytes = (b.image p).progDigest then
      (leave b).setPart p { x with prog := progWords bytes, progSt := .available, fetchTries := 0, fetchAt := 0 }
    else
      let b := b.logFetch p
      if 2 ≤ x.fetchTries then (leave b).setPart p { x with progSt := .unavailable, fetchTries := 3 }
      else b.setPart p { x with fetchTries := x.fetchTries + 1, fetchAt := b.now + 25000 }

/-- PROGRAM_FETCH. -/
def execProgramFetch (p : PartId) (bytes : List Byte) (s : State) : Out := s.act (fun b => b.fetchProgram p bytes)

end Sys2Proof.Machine
end

