-- ==== Sys2Proof/Machine/Service.lean ====
section
/-! DEFINITION. Memory service: the scrubber (R402, R403, R405), stack temperatures and failures (R400, R408), die sensors (R453, R454) and
the mirror audit (R378). -/

namespace Sys2Proof.Machine
open Sys2Proof

/-! ### The scrubber -/

/-- Sectors of HBM (R400, R405). -/
def hbmSectors : Nat := 3221225472

/-- The program copy of a partition is lost: a fetch falls due (R360). -/
def Block.progLost (b : Block) (p : PartId) : Block :=
  if (b.part p).progSt ≠ .available then b
  else ({ b with nvm := { b.nvm with due := b.nvm.due ++ [p] } }).modPart p (fun x => { x with progSt := .pending })

/-- The header that the FT642 keeps of a spill record is poisoned: its next comparison fails (R403). -/
def Part.loseHeader (x : Part) (num : Nat) : Part :=
  { x with spill := x.spill.map (fun s => { s with kept := s.kept.map (fun r => if r.num = num then { r with hdr := [] } else r) }) }

/-- What the scrubber does on an uncorrectable sector, for each place that the sector lies in (R403). -/
def Block.scrubbedBad (b : Block) (q : HKind × Nat) (progOf : Option PartId) : Block :=
  match q.1 with
  | .steep p => (match (b.part p).blockAt q.2 with | some k => b.poisonBlock p k.1 k.2.1 k.2.2 | none => b)
  | .poison p t c => b.poisonSector p t c q.2
  | .index p t c => b.modTMem p t (fun m => if m.idxCur1 = c then { m with idxBad := true } else m)
  | .warm p t c => b.modTMem p t (fun m => if m.qCur1 = c then { m with qBad := true } else m)
  | .cbk p => (entriesAt q.2).foldl (fun b k => b.poisonEntry p k) b
  | .cbkPoison p => b.poisonCbSector p q.2
  | .hdrs p => b.modPart p (fun x => x.loseHeader (q.2 / 64))
  | .sys => (match progOf with | some p => b.progLost p | none => b)
  | _ => b

/-- SCRUB_SECTOR_READ (R405): the next sector, and the end of a pass. `progOf` names the partition whose program copy holds the sector, where
one does; the layout of the system area is not the spec's. -/
def Block.scrub (b : Block) (r : ScrubResult) (progOf : Option PartId) : Block :=
  if !b.hbm.scrubOn ∨ b.inReset then b
  else
    let n := b.hbm.next.toNat
    let prog := if (b.locate (32 * n)).1 = .sys then progOf else none
    let b := match r with
      | .clean => b
      | .correctable => b.hbmError ⟨n, false⟩ true prog
      | .uncorrectable => (b.places n).foldl (fun b q => b.scrubbedBad q prog) (b.hbmError ⟨n, true⟩ true prog)
    if n + 1 < hbmSectors then { b with hbm := { b.hbm with next := BitVec.ofNat 32 (n + 1) } }
    else b.passEnds

/-- SCRUB_SECTOR_READ. -/
def execScrubSectorRead (r : ScrubResult) (progOf : Option PartId) (s : State) : Out := s.act (fun b => b.scrub r progOf)

/-! ### Sensors (R400, R453, R454) -/

/-- THERM_TRIP_N falls and is latched; the entry carries the sensor, whose number is a free value, and the reading. -/
def Block.trip (b : Block) (reading : Int) : Block :=
  if b.kettle.thermTrip then b
  else
    let d := b.draw
    ({ d.2 with kettle := { d.2.kettle with thermTrip := true } }).log 0x0552 .kettle none [Config.thermSensor d.1, codeOf 32 reading]

/-- HBM_TEMP_READ (R400): refresh doubles at or above 85 °C; 105 °C trips (R454). -/
def Block.stackTemp (b : Block) (s : StackId) (t : BitVec 8) : Block :=
  if b.inReset ∨ (b.hbm.stackOf[s]).st = 0 then b
  else
    let b := b.modStack s (fun x => { x with temp := t, hot := decide (85 ≤ t.toNat) })
    if 105 ≤ t.toNat then b.trip t.toNat else b

/-- HBM_TEMP_READ. -/
def execHbmTempRead (s : StackId) (temp : BitVec 8) (st : State) : Out := st.act (fun b => b.stackTemp s temp)

/-- DIE_SENSOR_READ (R453, R454): 115 °C trips. -/
def Block.dieTemps (b : Block) (ts : Vector Int 8) : Block :=
  let b := { b with kettle := { b.kettle with dieTemp := ts } }
  match ts.toList.find? (fun t => decide (115 ≤ t)) with
  | some t => b.trip t
  | none => b

/-- DIE_SENSOR_READ. -/
def execDieSensorRead (temps : Vector Int 8) (s : State) : Out := s.act (fun b => b.dieTemps temps)

/-! ### Failed stacks (R408) -/

/-- A stack has failed: the chip halts with 0x0370. -/
def Block.stackFails (b : Block) (s : StackId) : Block :=
  if (b.hbm.stackOf[s]).st ≠ 1 ∨ b.inReset then b
  else (b.modStack s (fun x => { x with st := 2 })).halt 0x0370 [(0x0370, .stack s, [])]

/-- Distinct sectors of the stack whose uncorrectable errors lie in the window that ends at the latest (R408). -/
def Stack.ueSectors (x : Stack) : Nat := ((x.ueAt.map Prod.fst).eraseDups).length

/-- HBM_STACK_ERROR_LIMIT: 64 distinct sectors within 1 ms. -/
def execHbmStackErrorLimit (s : StackId) (st : State) : Out :=
  st.act (fun b => if 64 ≤ (b.hbm.stackOf[s]).ueSectors then b.stackFails s else b)
/-- HBM_READ_TIMEOUT: 2,500 KT without an answer. -/
def execHbmReadTimeout (s : StackId) (st : State) : Out :=
  st.act (fun b => if (b.hbm.stackOf[s]).st = 1 then (b.advanceTo (b.now + 2500)).stackFails s else b)
/-- HBM_TRAINING_LOSS. -/
def execHbmTrainingLoss (s : StackId) (st : State) : Out := st.act (fun b => b.stackFails s)

/-! ### The mirror audit (R378) -/

/-- The pushes to a mirror are held up, or come through again (DESIGN CHOICE, log entry 66): a change that waited is pushed (R376). -/
def Mirror.hold (m : Mirror) (late : Bool) (view : BitVec 24) : Mirror :=
  if m.held ∧ !late ∧ m.val ≠ view then { m with held := false, val := view, mseq := m.mseq + 1 } else { m with held := late }

/-- One mirror audited against the data path: the mirror, and whether it was resynchronised. -/
def Mirror.audit (m : Mirror) (now : Nat) (view : BitVec 24) : Mirror × Bool :=
  if m.val = view then ({ m with diffAt := none }, false)
  else match m.diffAt with
    | none => ({ m with diffAt := some now }, false)
    | some t => if t + 250000 ≤ now then ({ m with val := view, mseq := m.mseq + 1, diffAt := none }, true) else (m, false)

/-- The mirrors of one kind audited; `late` names those to which no push comes through. -/
def auditKind {n : Nat} (now : Nat) (late : List (BitVec 32)) (addr : Fin n → Nat) (view : Fin n → BitVec 24) (ms : Vector Mirror n) :
    Vector Mirror n × List (List Nat) :=
  let held (i : Fin n) : Mirror := ms[i].hold (late.contains (BitVec.ofNat 32 (addr i))) (view i)
  (Vector.ofFn (fun i => ((held i).audit now (view i)).1),
   (List.finRange n).filterMap (fun i =>
     if ((held i).audit now (view i)).2 then some [addr i, (held i).val.toNat, (view i).toNat] else none))

/-- MIRROR_AUDIT: a mirror that has differed for 250,000 KT is logged, copied afresh and counted. -/
def Block.audit (b : Block) (late : List (BitVec 32)) : Block :=
  let m := b.mirrors
  let c := auditKind b.now late (fun (i : Fin 4) => cmbAddr i 0) (fun i => combView (b.comb i)) m.comb
  let l := auditKind b.now late (fun (i : Fin 42) => lnkAddr i 0) (fun i => linkView (b.link i)) m.link
  let p := auditKind b.now late (fun (i : Fin 128) => prtAddr i 0) (fun i => b.partView i) m.part
  let s := auditKind b.now late (fun (i : Fin 4) => 0x600000 + 4 * i.val) (fun i => stackView b.hbm.stackOf[i]) m.stack
  let pc := auditKind b.now late (fun (i : Fin 4) => 0x80001C + 16 * i.val) (fun i => pcombView (b.comb i)) m.pcomb
  let pl := auditKind b.now late (fun (i : Fin 6) => 0x80008C + 16 * i.val) (fun i => b.plinkView i) m.plink
  (c.2 ++ l.2 ++ p.2 ++ s.2 ++ pc.2 ++ pl.2).foldl (fun b d =>
    ({ b with msp := { b.msp with resync := satAdd b.msp.resync 1 } }).log 0x0360 .kettle none d)
    { b with mirrors := ⟨c.1, l.1, p.1, s.1, pc.1, pl.1⟩, kettle := { b.kettle with auditAt := b.now } }

/-- MIRROR_AUDIT: `late` names the mirrors, by MSP address, to which the data path's pushes do not come through until a later audit (log
entry 66). -/
def execMirrorAudit (late : List (BitVec 32)) (s : State) : Out := s.act (fun b => b.audit late)

end Sys2Proof.Machine
end

