-- ==== Sys2Proof/Machine/Clock.lean ====
section
/-! DEFINITION. What the Kettle does at each KT of its own accord (R377, R382, R419): requests that wait for the next KT, and timers that expire in
the first KT in which their time has passed. -/

namespace Sys2Proof.Machine
open Sys2Proof

/-- What a KT may bring: a request that waits to be honoured, a timer of Table: Kettle timers with its unit, the ready queue, or an issued operation
of a comb that can go on. -/
inductive Due where
  | combCtrl (c : CombId)
  | linkCtrl (l : LinkId)
  | combCfg (c : CombId)
  | linkCfg (d : DimId)
  | handshake (ctx : Nat)
  | lockout (h : PortId) (vf : VfId)
  | session
  | hold (d : DimId)
  | entry (u : PwrUnit)
  | wake (u : PwrUnit)
  | combIdle (c : CombId)
  | groupIdle (d : DimId)
  | watchdog (c : CombId)
  | collective (p : PartId) (opidx : Nat)
  | settle (p : PartId)
  | burn
  | audit
  | scrub
  | ready
  | ops (c : CombId)
deriving DecidableEq, Repr

/-- A power unit's entry or wake ends at `due`. -/
def Block.unitDue (b : Block) (u : PwrUnit) : Nat :=
  match u with | .comb c => (b.comb c).due | .group d => (b.pwr.groups[d]).due
/-- A power unit is entering a state. -/
def Block.unitEnters (b : Block) (u : PwrUnit) : Bool :=
  match u with | .comb c => (b.comb c).entering.isSome | .group d => (b.pwr.groups[d]).entering.isSome
/-- A power unit is waking, with no entry under way; a comb that returns to service waits for its self-check instead (R334). -/
def Block.unitWakes (b : Block) (u : PwrUnit) : Bool :=
  match u with
  | .comb c => (b.comb c).waking && (b.comb c).entering.isNone && (b.comb c).svc == .idle
  | .group d => (b.pwr.groups[d]).waking && (b.pwr.groups[d]).entering.isNone

/-- The KT at which an idle comb's timer expires (R387). -/
def Block.combIdleAt (b : Block) (c : CombId) : Option Nat :=
  let x := b.comb c
  let k := b.pwr.combCfg[c]
  if x.svc ≠ .idle ∨ x.entering.isSome ∨ x.waking then none
  else (nextIdle x.pwr.code k.floor.eff 1 k.warm.eff k.cold.eff).map (fun q => x.idleSince + q.2)

/-- The KT at which the first of a link group's idle timers expires (R389 to R391). -/
def Block.groupIdleAt (b : Block) (d : DimId) : Option Nat :=
  let g := b.pwr.groups[d]
  let k := b.pwr.lnkCfg[d]
  if g.waking ∨ g.entering.isSome ∨ !(groupLinks d).all (fun l => (b.link l).tx.quiet) ∨ !b.serving then none
  else match g.sinks (if b.mustSimmer d then 1 else k.floor.eff) k.warm.eff k.cold.eff with
    | [] => none
    | c :: cs => some (cs.foldl (fun t q => Nat.min t q.2) c.2)

/-- The collectives of a partition's step that its timer still runs for: opidx and launch (R247). -/
def StepRun.timed (r : StepRun) : List (Nat × Nat) :=
  (r.buzz.filter (fun o => !o.isReport && (if o.why = .membership then !r.agreed else !o.capped))).map (fun o => (o.opidx, o.since)) ++
  (r.rounds.filter (fun o => o.st != .capped && o.st != .drained)).map (fun o => (o.opidx, o.since))

/-- The thing is due at the present KT. -/
def State.isDue (s : State) (d : Due) : Bool :=
  let b := s.block
  let t := b.now
  match d with
  | .combCtrl c => (b.comb c).ctrl.pend
  | .linkCtrl l => (b.link l).ctrl.pend
  | .combCfg c => let k := b.pwr.combCfg[c]; k.floor.pend || k.warm.pend || k.cold.pend
  | .linkCfg d => let k := b.pwr.lnkCfg[d]; k.floor.pend || k.warm.pend || k.cold.pend
  | .handshake ctx => (match b.ctx? ctx with | some c => !c.isOpen && decide (c.since + 250000 ≤ t) | none => false)
  | .lockout h vf => (b.port h).lockouts.any (fun q => q.1 == vf && decide (q.2 ≤ t))
  | .session => b.msp.session && decide (b.msp.lastUse + 250000000 ≤ t)
  | .hold d => (match (b.pwr.groups[d]).holdUntil with | some k => decide (k ≤ t) | none => false)
  | .entry u => b.unitEnters u && decide (b.unitDue u ≤ t)
  | .wake u => b.unitWakes u && decide (b.unitDue u ≤ t)
  | .combIdle c => (match b.combIdleAt c with | some k => decide (k ≤ t) | none => false)
  | .groupIdle d => (match b.groupIdleAt d with | some k => decide (k ≤ t) | none => false)
  | .watchdog c => b.stuckInside c && decide ((b.comb c).lastIssue + 50000 ≤ t)
  | .collective p k => (match b.run? p with
      | some r => r.abort.isNone && r.timed.any (fun q => q.1 == k && decide (q.2 + (b.part p).timeout.eff ≤ t))
      | none => false)
  | .settle p => (match b.run? p with | some r => r.abort.isSome && decide (r.abortAt + 250 ≤ t) | none => false)
  | .burn => s.fuses.busy.isSome && decide (s.fuses.burnAt + 250000 ≤ t)
  | .audit => decide (b.kettle.auditAt + 25000 ≤ t)
  | .scrub => b.hbm.scrubNew
  | .ready => allParts.any (fun p => b.stepDue p != b.ready.contains p)
  | .ops c => !(b.comb c).ops.isEmpty && b.onStep c false (fun _ r => r.abort.isNone)

/-- The thing happens. -/
def State.fire (s : State) (d : Due) : State :=
  let b := s.block
  let on (b : Block) : State := { s with block := b }
  let lost (b : Block) : State := { s with block := b, bufs := b.keptBufs s.bufs }
  match d with
  | .combCtrl c => lost (b.honourComb c)
  | .linkCtrl l => on (Block.honourLink none b l)
  | .combCfg c => on (b.honourPwrComb c)
  | .linkCfg d => on (b.honourPwrLnk d)
  | .handshake ctx => on (b.handshakeEnds ctx)
  | .lockout h vf => on (b.lockoutEnds h vf)
  | .session => on b.sessionEnds
  | .hold d => on (b.holdEnds d)
  | .entry u => lost (b.entryDone u)
  | .wake u => { s with block := b.wakeDone u, bufs := b.wokenBufs u s.bufs }
  | .combIdle c => on (b.combIdle c)
  | .groupIdle d => on (b.groupIdle d)
  | .watchdog c => lost (b.watchdogEnds c)
  | .collective p k => on (b.collTimeout p k)
  | .settle p => lost (b.settleEnd p)
  | .burn => { s with fuses := s.fuses.burnt }
  | .audit => on (b.audit [])
  | .scrub => on b.scrubPaced
  | .ready => on b.scanReady
  | .ops c => let w := Block.runOps c (b.comb c).ops.length (b, s.bufs[c]); { s with block := w.1, bufs := s.bufs.set c w.2 }

/-- Every thing that a KT may bring to a state, in the order in which the model takes them (log entry 2). -/
def State.dues (s : State) : List Due :=
  let b := s.block
  allCombs.map .combCtrl ++ allLinks.map .linkCtrl ++ allCombs.map .combCfg ++ (List.finRange 6).map .linkCfg ++
  b.host.ctxs.map (fun c => .handshake c.id) ++
  (List.finRange 2).flatMap (fun h => (b.port h).lockouts.map (fun q => .lockout h q.1)) ++
  [.session] ++ (List.finRange 6).map .hold ++
  allCombs.flatMap (fun c => [.entry (.comb c), .wake (.comb c)]) ++ (List.finRange 6).flatMap (fun d => [.entry (.group d), .wake (.group d)]) ++
  allCombs.map .combIdle ++ (List.finRange 6).map .groupIdle ++ allCombs.map .watchdog ++
  allParts.flatMap (fun p => match b.run? p with | some r => r.timed.map (fun q => .collective p q.1) ++ [.settle p] | none => []) ++
  [.burn, .audit, .scrub, .ready] ++ allCombs.map .ops

/-- One KT passes (R381, R382): the counter advances, and what is then due happens, each thing if it still is when its turn comes. -/
def State.clock (s : State) : State :=
  let t : State := { s with block := s.block.tick }
  let n := t.dues.foldl (fun (x : State) d => if x.isDue d then x.fire d else x) t
  { n with block := finish s.block n.block }

end Sys2Proof.Machine
end

