-- ==== Sys2Proof/Machine/Scan.lean ====
section
/-! DEFINITION. Boundary scan (R455, R456): the test access port's instructions. -/

namespace Sys2Proof.Machine
open Sys2Proof

/-- The instruction holds the non-Kettle domains in reset (R456). -/
def TapIr.holds (i : TapIr) : Bool := i == .extest || i == .clamp || i == .highz

/-- An instruction is loaded: one that holds the domains resets them as CHIP_RST_N low does, and one that does not releases them, so that a
start follows (R456). -/
def Block.loadIr (b : Block) (i : TapIr) : Block :=
  let was := b.tap.ir.holds
  let b := { b with tap := { b.tap with ir := i } }
  if i.holds ∧ !was then (if b.resetActs 3 then b.nonKettleReset 3 3 else b)
  else if was ∧ !i.holds then { b with kettle := { b.kettle with startAt := Nat.max b.kettle.startAt (b.now + 1) } }
  else b

/-- TAP_RESET: BYPASS is selected (R455). -/
def execTapReset (s : State) : Out := s.act (fun b => b.loadIr .bypass)
/-- EXTEST. -/
def execExtest (s : State) : Out := s.act (fun b => b.loadIr .extest)
/-- CLAMP. -/
def execClamp (s : State) : Out := s.act (fun b => b.loadIr .clamp)
/-- HIGHZ. -/
def execHighz (s : State) : Out := s.act (fun b => b.loadIr .highz)
/-- BYPASS, and every opcode that the table does not have (R455). -/
def execBypass (s : State) : Out := s.act (fun b => b.loadIr .bypass)
/-- SAMPLE_PRELOAD: the cells capture the pins, and what is shifted in becomes their update stage. -/
def execSamplePreload (pins shift : BitVec 78) (s : State) : Out :=
  s.act (fun b => let b := b.loadIr .sample; { b with tap := { b.tap with shift := pins, update := shift } })

end Sys2Proof.Machine
end

