-- ==== Sys2Proof/Machine/Steps.lean ====
section
/-! DEFINITION. The commands that carry a step on: its start, its agreements, the stages of its tensors, its collectives and its end (05 to
08, 11 to 13, 15). -/

namespace Sys2Proof.Machine
open Sys2Proof

/-- STEP_START (R314, R329). -/
def execStepStart (p : PartId) (errs : List MemErr) (s : State) : Out := s.actBufs (fun b ms => b.stepStart ms p errs)

/-- MEMBERSHIP_AGREEMENT_COMPLETE (R193). -/
def execMembershipAgreementComplete (p : PartId) (s : State) : Out := s.act (fun b => b.membershipDone p)

/-- MEMBERSHIP_AGREEMENT_RETRY (R193). -/
def execMembershipAgreementRetry (p : PartId) (s : State) : Out := s.act (fun b => b.membershipRetry p)

/-- DIGEST_AGREEMENT_COMPLETE (R142). -/
def execDigestAgreementComplete (p : PartId) (errs : List MemErr) (s : State) : Out := s.act (fun b => b.digestDone p errs)

/-- The first member of the unit that tensor `t` belongs to. -/
def Block.headOf (b : Block) (p : PartId) (t : BitVec 16) : Nat := (b.image p).head t.toNat

/-- SELECT_BLOCKS (R104). -/
def execSelectBlocks (p : PartId) (t : BitVec 16) (s : State) : Out := s.act (fun b => b.selectBlocks p (b.headOf p t))

/-- QUANTISE_PACK (R71). -/
def execQuantisePack (p : PartId) (t : BitVec 16) (errs : List MemErr) (s : State) : Out :=
  s.act (fun b => b.quantisePack p (b.headOf p t) errs)

/-- UNPACK_DEQUANTISE (R72, R89). -/
def execUnpackDequantise (p : PartId) (t : BitVec 16) (sram : Option Bool) (s : State) : Out :=
  s.goOps p (fun b => (b.hcbRead p (b.headOf p t) sram).unpack p (b.headOf p t))

/-- WRITE_RESIDUAL (R98, R99). -/
def execWriteResidual (p : PartId) (t : BitVec 16) (errs : List MemErr) (s : State) : Out :=
  s.goOps p (fun b => b.writeResidual p (b.headOf p t) errs)

/-- DELIVER_RESULT (R121). -/
def execDeliverResult (p : PartId) (t : BitVec 16) (s : State) : Out := s.goOps p (fun b => b.deliver p (b.headOf p t))

/-- LOWRANK_ORTHOGONALISE (R128, R129). -/
def execLowrankOrthogonalise (p : PartId) (t : BitVec 16) (errs : List MemErr) (sram : Option Bool) (s : State) : Out :=
  s.act (fun b => (b.hcbRead p (b.headOf p t) sram).orthonormal p (b.headOf p t) errs)

/-- CODEBOOK_DECODE (R153). -/
def execCodebookDecode (p : PartId) (t : BitVec 16) (errs : List MemErr) (sram : Option Bool) (s : State) : Out :=
  s.goOps p (fun b => (b.hcbRead p (b.headOf p t) sram).cbDecode p (b.headOf p t) errs)

/-- ROUND_ALLOCATE (R242, R56). -/
def execRoundAllocate (p : PartId) (opidx : BitVec 16) (s : State) : Out := s.act (fun b => b.allocate p opidx.toNat)

/-- CAP_REPORT_SEND (R244). -/
def execCapReportSend (p : PartId) (opidx : BitVec 16) (s : State) : Out := s.act (fun b => b.capReport p opidx.toNat)

/-- COLLECTIVE_TIMEOUT (R247). -/
def execCollectiveTimeout (p : PartId) (opidx : BitVec 16) (s : State) : Out := s.act (fun b => b.collTimeout p opidx.toNat)

/-- SETTLE_PERIOD_END (R250). -/
def execSettlePeriodEnd (p : PartId) (s : State) : Out := s.act (fun b => b.settleEnd p)

/-- PAGE_OUT (R323, R339). -/
def execPageOut (p : PartId) (errs : List MemErr) (s : State) : Out := s.act (fun b => b.pageOut p errs)

/-- PAGE_OUT_READBACK (R323). -/
def execPageOutReadback (p : PartId) (hdr : HostRead) (errs : List MemErr) (s : State) : Out := s.goOps p (fun b => b.pageOutReadback p hdr errs)

/-- PAGE_IN_COMPLETE (R323, R339). -/
def execPageInComplete (p : PartId) (rec : HostRead) (errs : List MemErr) (s : State) : Out := s.goOps p (fun b => b.pageIn p rec errs)

end Sys2Proof.Machine
end

