-- ==== Sys2Proof/Machine/Dispatch.lean ====
section
/-! DEFINITION. One arm per command: each calls its meaning. -/

namespace Sys2Proof.Machine
open Sys2Proof

def exec (i : Instr) (s : State) : Host.Outcome State Fault Refusal :=
  match i with
  | .nop c p => Sys2Proof.Machine.execNop c p s
  | .fence c => Sys2Proof.Machine.execFence c s
  | .br c p target => Sys2Proof.Machine.execBr c p target s
  | .loop c k target => Sys2Proof.Machine.execLoop c k target s
  | .lset c p k src => Sys2Proof.Machine.execLset c p k src s
  | .wake c p mask => Sys2Proof.Machine.execWake c p mask s
  | .tld c p td idx => Sys2Proof.Machine.execTld c p td idx s
  | .tldx c p td sb => Sys2Proof.Machine.execTldx c p td sb s
  | .tview c p td src mode => Sys2Proof.Machine.execTview c p td src mode s
  | .tinfo c p sd td sel => Sys2Proof.Machine.execTinfo c p sd td sel s
  | .tcopy c p dst src rd errs => Sys2Proof.Machine.execTcopy c p dst src rd errs s
  | .steep c p td g errs => Sys2Proof.Machine.execSteep c p td g errs s
  | .xchg c p td g errs => Sys2Proof.Machine.execXchg c p td g errs s
  | .xstat c p dst src mode errs => Sys2Proof.Machine.execXstat c p dst src mode errs s
  | .score c p sd td sb => Sys2Proof.Machine.execScore c p sd td sb s
  | .bsel c p qd td sb => Sys2Proof.Machine.execBsel c p qd td sb s
  | .cbq c p sd td sb errs => Sys2Proof.Machine.execCbq c p sd td sb errs s
  | .mma c p dst stream weights cvt cfg rd errs => Sys2Proof.Machine.execMma c p dst stream weights cvt cfg rd errs s
  | .mmag c p dst stream weights cvt cfg rd errs => Sys2Proof.Machine.execMmag c p dst stream weights cvt cfg rd errs s
  | .orth c p dst src rd errs => Sys2Proof.Machine.execOrth c p dst src rd errs s
  | .sli c p sd imm => Sys2Proof.Machine.execSli c p sd imm s
  | .slih c p sd imm => Sys2Proof.Machine.execSlih c p sd imm s
  | .smov c p sd sa => Sys2Proof.Machine.execSmov c p sd sa s
  | .sadd c p sd sa b => Sys2Proof.Machine.execSadd c p sd sa b s
  | .ssub c p sd sa b => Sys2Proof.Machine.execSsub c p sd sa b s
  | .smul c p sd sa b => Sys2Proof.Machine.execSmul c p sd sa b s
  | .sdiv c p sd sa b => Sys2Proof.Machine.execSdiv c p sd sa b s
  | .sand c p sd sa b => Sys2Proof.Machine.execSand c p sd sa b s
  | .sor c p sd sa b => Sys2Proof.Machine.execSor c p sd sa b s
  | .sxor c p sd sa b => Sys2Proof.Machine.execSxor c p sd sa b s
  | .sshl c p sd sa b => Sys2Proof.Machine.execSshl c p sd sa b s
  | .sshr c p sd sa b => Sys2Proof.Machine.execSshr c p sd sa b s
  | .ssra c p sd sa b => Sys2Proof.Machine.execSsra c p sd sa b s
  | .fadd c p sd sa b => Sys2Proof.Machine.execFadd c p sd sa b s
  | .fsub c p sd sa b => Sys2Proof.Machine.execFsub c p sd sa b s
  | .fmul c p sd sa b => Sys2Proof.Machine.execFmul c p sd sa b s
  | .fdiv c p sd sa b => Sys2Proof.Machine.execFdiv c p sd sa b s
  | .fmax c p sd sa b => Sys2Proof.Machine.execFmax c p sd sa b s
  | .fmin c p sd sa b => Sys2Proof.Machine.execFmin c p sd sa b s
  | .fsqrt c p sd sa => Sys2Proof.Machine.execFsqrt c p sd sa s
  | .fcvti c p sd sa => Sys2Proof.Machine.execFcvti c p sd sa s
  | .icvtf c p sd sa => Sys2Proof.Machine.execIcvtf c p sd sa s
  | .scmp c p qd sa sb cond => Sys2Proof.Machine.execScmp c p qd sa sb cond s
  | .plog c p qd qa qb table => Sys2Proof.Machine.execPlog c p qd qa qb table s
  | .barr c p => Sys2Proof.Machine.execBarr c p s
  | .sred c p sd sa op countM1 => Sys2Proof.Machine.execSred c p sd sa op countM1 s
  | .sout c p sa idx => Sys2Proof.Machine.execSout c p sa idx s
  | .mspStatus lanes sent => Sys2Proof.Machine.execMspStatus lanes sent s
  | .mspRead lanes addr count notReady pace cut => Sys2Proof.Machine.execMspRead lanes addr count notReady pace cut s
  | .mspWrite lanes addr data early => Sys2Proof.Machine.execMspWrite lanes addr data early s
  | .mspLogin lanes data => Sys2Proof.Machine.execMspLogin lanes data s
  | .mspLogout lanes => Sys2Proof.Machine.execMspLogout lanes s
  | .mspInvalidOpcode cmd => Sys2Proof.Machine.execMspInvalidOpcode cmd s
  | .registerWrite addr v => Sys2Proof.Machine.execRegisterWrite addr v s
  | .fuseBurnPassword => Sys2Proof.Machine.execFuseBurnPassword s
  | .fuseBurnAnchor => Sys2Proof.Machine.execFuseBurnAnchor s
  | .fuseBurnComplete => Sys2Proof.Machine.execFuseBurnComplete s
  | .remapAssume src => Sys2Proof.Machine.execRemapAssume src s
  | .remapRelease src => Sys2Proof.Machine.execRemapRelease src s
  | .remapExclude src => Sys2Proof.Machine.execRemapExclude src s
  | .cmbReleaseRequest c => Sys2Proof.Machine.execCmbReleaseRequest c s
  | .cmbReturnRequest c => Sys2Proof.Machine.execCmbReturnRequest c s
  | .lnkTakeOutRequest l => Sys2Proof.Machine.execLnkTakeOutRequest l s
  | .lnkBringBackRequest l => Sys2Proof.Machine.execLnkBringBackRequest l s
  | .ctrlRequestWithdraw t => Sys2Proof.Machine.execCtrlRequestWithdraw t s
  | .prtLinkWeightWrite p v => Sys2Proof.Machine.execPrtLinkWeightWrite p v s
  | .prtCollTimeoutWrite p v => Sys2Proof.Machine.execPrtCollTimeoutWrite p v s
  | .pwrCombCfgWrite c f v => Sys2Proof.Machine.execPwrCombCfgWrite c f v s
  | .pwrLnkCfgWrite d f v => Sys2Proof.Machine.execPwrLnkCfgWrite d f v s
  | .pwrRstReq v => Sys2Proof.Machine.execPwrRstReq v s
  | .evlAckWrite v => Sys2Proof.Machine.execEvlAckWrite v s
  | .evlSelWrite v => Sys2Proof.Machine.execEvlSelWrite v s
  | .evlDataRead err => Sys2Proof.Machine.execEvlDataRead err s
  | .nvmCtrlWrite v => Sys2Proof.Machine.execNvmCtrlWrite v s
  | .hbmScrubHoursWrite v => Sys2Proof.Machine.execHbmScrubHoursWrite v s
  | .lnkRelayWeightWrite l v => Sys2Proof.Machine.execLnkRelayWeightWrite l v s
  | .mspSessionIdleExpiry => Sys2Proof.Machine.execMspSessionIdleExpiry s
  | .mspLoginLockoutExpiry => Sys2Proof.Machine.execMspLoginLockoutExpiry s
  | .hello h vf msg => Sys2Proof.Machine.execHello h vf msg s
  | .prove h vf msg => Sys2Proof.Machine.execProve h vf msg s
  | .openDoorbellIgnored h vf why => Sys2Proof.Machine.execOpenDoorbellIgnored h vf why s
  | .handshakeExpiry ctx => Sys2Proof.Machine.execHandshakeExpiry ctx s
  | .openLockoutExpiry h vf => Sys2Proof.Machine.execOpenLockoutExpiry h vf s
  | .doorbell h vf ctx width v => Sys2Proof.Machine.execDoorbell h vf ctx width v s
  | .claim ctx d => Sys2Proof.Machine.execClaim ctx d s
  | .release ctx d => Sys2Proof.Machine.execRelease ctx d s
  | .post ctx d => Sys2Proof.Machine.execPost ctx d s
  | .parcel ctx d frame => Sys2Proof.Machine.execParcel ctx d frame s
  | .parcelReceive l rx => Sys2Proof.Machine.execParcelReceive l rx s
  | .parcelNoRouteTimeout ctx => Sys2Proof.Machine.execParcelNoRouteTimeout ctx s
  | .cbload ctx d data => Sys2Proof.Machine.execCbload ctx d data s
  | .codebookHashComplete p errs => Sys2Proof.Machine.execCodebookHashComplete p errs s
  | .spillAdd ctx d => Sys2Proof.Machine.execSpillAdd ctx d s
  | .spillRemove ctx d recs errs => Sys2Proof.Machine.execSpillRemove ctx d recs errs s
  | .close ctx d => Sys2Proof.Machine.execClose ctx d s
  | .functionLevelResetVf h vf => Sys2Proof.Machine.execFunctionLevelResetVf h vf s
  | .functionLevelResetPf h => Sys2Proof.Machine.execFunctionLevelResetPf h s
  | .hotReset h => Sys2Proof.Machine.execHotReset h s
  | .fundamentalReset h => Sys2Proof.Machine.execFundamentalReset h s
  | .vfEnable h enable numVfs => Sys2Proof.Machine.execVfEnable h enable numVfs s
  | .pcieLinkDown h => Sys2Proof.Machine.execPcieLinkDown h s
  | .stepStart p errs => Sys2Proof.Machine.execStepStart p errs s
  | .membershipAgreementComplete p => Sys2Proof.Machine.execMembershipAgreementComplete p s
  | .membershipAgreementRetry p => Sys2Proof.Machine.execMembershipAgreementRetry p s
  | .digestAgreementComplete p errs => Sys2Proof.Machine.execDigestAgreementComplete p errs s
  | .selectBlocks p t => Sys2Proof.Machine.execSelectBlocks p t s
  | .quantisePack p t errs => Sys2Proof.Machine.execQuantisePack p t errs s
  | .unpackDequantise p t sram => Sys2Proof.Machine.execUnpackDequantise p t sram s
  | .writeResidual p t errs => Sys2Proof.Machine.execWriteResidual p t errs s
  | .deliverResult p t => Sys2Proof.Machine.execDeliverResult p t s
  | .lowrankOrthogonalise p t errs sram => Sys2Proof.Machine.execLowrankOrthogonalise p t errs sram s
  | .codebookDecode p t errs sram => Sys2Proof.Machine.execCodebookDecode p t errs sram s
  | .gatheredRowTake c row => Sys2Proof.Machine.execGatheredRowTake c row s
  | .roundAllocate p opidx => Sys2Proof.Machine.execRoundAllocate p opidx s
  | .capReportSend p opidx => Sys2Proof.Machine.execCapReportSend p opidx s
  | .collectiveTimeout p opidx => Sys2Proof.Machine.execCollectiveTimeout p opidx s
  | .settlePeriodEnd p => Sys2Proof.Machine.execSettlePeriodEnd p s
  | .buzzBarrier l m => Sys2Proof.Machine.execBuzzBarrier l m s
  | .buzzSumW32 l m => Sys2Proof.Machine.execBuzzSumW32 l m s
  | .buzzSumW64 l m => Sys2Proof.Machine.execBuzzSumW64 l m s
  | .buzzSumF32 l m => Sys2Proof.Machine.execBuzzSumF32 l m s
  | .buzzMax8 l m => Sys2Proof.Machine.execBuzzMax8 l m s
  | .buzzMax16 l m => Sys2Proof.Machine.execBuzzMax16 l m s
  | .buzzMax32 l m => Sys2Proof.Machine.execBuzzMax32 l m s
  | .buzzMax64 l m => Sys2Proof.Machine.execBuzzMax64 l m s
  | .buzzCapReport l m => Sys2Proof.Machine.execBuzzCapReport l m s
  | .buzzAbort l m => Sys2Proof.Machine.execBuzzAbort l m s
  | .buzzConfirm l bseq fec => Sys2Proof.Machine.execBuzzConfirm l bseq fec s
  | .bulkMessage l rx fault => Sys2Proof.Machine.execBulkMessage l rx fault s
  | .ingressWaitEnd l => Sys2Proof.Machine.execIngressWaitEnd l s
  | .linkControlFlit l body fec => Sys2Proof.Machine.execLinkControlFlit l body fec s
  | .slotFill l => Sys2Proof.Machine.execSlotFill l s
  | .heartbeatDue l => Sys2Proof.Machine.execHeartbeatDue l s
  | .nakRepeatTimeout l buzz => Sys2Proof.Machine.execNakRepeatTimeout l buzz s
  | .resendTimeout l buzz => Sys2Proof.Machine.execResendTimeout l buzz s
  | .resendLimitExceeded l buzz => Sys2Proof.Machine.execResendLimitExceeded l buzz s
  | .heartbeatLoss l => Sys2Proof.Machine.execHeartbeatLoss l s
  | .alignmentLoss l fec => Sys2Proof.Machine.execAlignmentLoss l fec s
  | .laneLoss l => Sys2Proof.Machine.execLaneLoss l s
  | .tunnelGenerationReport l rx => Sys2Proof.Machine.execTunnelGenerationReport l rx s
  | .trainingDetect l => Sys2Proof.Machine.execTrainingDetect l s
  | .trainingEqualiseDone l => Sys2Proof.Machine.execTrainingEqualiseDone l s
  | .trainingLockFlit l good body fec => Sys2Proof.Machine.execTrainingLockFlit l good body fec s
  | .trainingIdentifyFlit l body arrival fec => Sys2Proof.Machine.execTrainingIdentifyFlit l body arrival fec s
  | .trainingGrantFlit l body fec => Sys2Proof.Machine.execTrainingGrantFlit l body fec s
  | .trainingTimeout l => Sys2Proof.Machine.execTrainingTimeout l s
  | .trainingRetry l => Sys2Proof.Machine.execTrainingRetry l s
  | .linkReady l => Sys2Proof.Machine.execLinkReady l s
  | .linkEnterService l => Sys2Proof.Machine.execLinkEnterService l s
  | .combIdleTimerExpiry c => Sys2Proof.Machine.execCombIdleTimerExpiry c s
  | .powerEntryComplete u => Sys2Proof.Machine.execPowerEntryComplete u s
  | .wakeComplete u => Sys2Proof.Machine.execWakeComplete u s
  | .linkSimmerEntry l => Sys2Proof.Machine.execLinkSimmerEntry l s
  | .linkSimmerExit l => Sys2Proof.Machine.execLinkSimmerExit l s
  | .linkGroupIdleTimerExpiry d => Sys2Proof.Machine.execLinkGroupIdleTimerExpiry d s
  | .linkPark l => Sys2Proof.Machine.execLinkPark l s
  | .linkWake l => Sys2Proof.Machine.execLinkWake l s
  | .wakeHintHoldExpiry d => Sys2Proof.Machine.execWakeHintHoldExpiry d s
  | .combFailure c cause => Sys2Proof.Machine.execCombFailure c cause s
  | .combWatchdog c => Sys2Proof.Machine.execCombWatchdog c s
  | .combReturnWakeDone c selfCheckOk => Sys2Proof.Machine.execCombReturnWakeDone c selfCheckOk s
  | .coreRefclkLoss => Sys2Proof.Machine.execCoreRefclkLoss s
  | .lnkRefclkLoss => Sys2Proof.Machine.execLnkRefclkLoss s
  | .pcieRefclkLoss h => Sys2Proof.Machine.execPcieRefclkLoss h s
  | .kettlePowerOn => Sys2Proof.Machine.execKettlePowerOn s
  | .kettleSelfWatchdog => Sys2Proof.Machine.execKettleSelfWatchdog s
  | .chipRstN low => Sys2Proof.Machine.execChipRstN low s
  | .railFault => Sys2Proof.Machine.execRailFault s
  | .startUpBegin crd bootMode => Sys2Proof.Machine.execStartUpBegin crd bootMode s
  | .headerReadDone hdr => Sys2Proof.Machine.execHeaderReadDone hdr s
  | .coreInitDone stackFailed => Sys2Proof.Machine.execCoreInitDone stackFailed s
  | .imageStreamDone image => Sys2Proof.Machine.execImageStreamDone image s
  | .signatureVerifyDone => Sys2Proof.Machine.execSignatureVerifyDone s
  | .contentVerifyDone => Sys2Proof.Machine.execContentVerifyDone s
  | .layoutDone => Sys2Proof.Machine.execLayoutDone s
  | .programFetch p bytes => Sys2Proof.Machine.execProgramFetch p bytes s
  | .scrubSectorRead r progOf => Sys2Proof.Machine.execScrubSectorRead r progOf s
  | .hbmTempRead k temp => Sys2Proof.Machine.execHbmTempRead k temp s
  | .hbmStackErrorLimit k => Sys2Proof.Machine.execHbmStackErrorLimit k s
  | .hbmReadTimeout k => Sys2Proof.Machine.execHbmReadTimeout k s
  | .hbmTrainingLoss k => Sys2Proof.Machine.execHbmTrainingLoss k s
  | .dieSensorRead temps => Sys2Proof.Machine.execDieSensorRead temps s
  | .mirrorAudit late => Sys2Proof.Machine.execMirrorAudit late s
  | .pageOut p errs => Sys2Proof.Machine.execPageOut p errs s
  | .pageOutReadback p hdr errs => Sys2Proof.Machine.execPageOutReadback p hdr errs s
  | .pageInComplete p rec errs => Sys2Proof.Machine.execPageInComplete p rec errs s
  | .tapReset => Sys2Proof.Machine.execTapReset s
  | .extest => Sys2Proof.Machine.execExtest s
  | .samplePreload pins shift => Sys2Proof.Machine.execSamplePreload pins shift s
  | .clamp => Sys2Proof.Machine.execClamp s
  | .highz => Sys2Proof.Machine.execHighz s
  | .bypass => Sys2Proof.Machine.execBypass s
  | .pcieLinkUp h width speed flit => Sys2Proof.Machine.execPcieLinkUp h width speed flit s

end Sys2Proof.Machine
end

