-- ==== Sys2Proof/Machine/Step.lean ====
section
/-! DEFINITION. One step: the command at the front of the queue, or one KT of idling on an empty queue. -/

namespace Sys2Proof.Machine
open Sys2Proof

/-- The state with its queue replaced. -/
def State.withPending (s : State) (q : List Instr) : State := { s with pending := q }

/-- One KT passes with no command (R381, R382): DESIGN CHOICE (log entry 2). -/
def State.idle (s : State) : State := s.clock

/-- The command at the front runs on the state with the queue's rest; on an empty queue one KT passes. -/
def step (s : State) : Host.Outcome State Fault Refusal :=
  match s.pending with
  | [] => .next s.idle
  | c :: rest => exec c (s.withPending rest)

/-- The command that a word spells, put at the front of the queue; the state itself where the word spells none. -/
def State.withFetchWord (s : State) (nbits w : Nat) : State :=
  match decodeTableWord nbits w with
  | some c => s.withPending (c :: s.pending)
  | none => s

end Sys2Proof.Machine
end

