-- ==== Sys2Proof/Safety.lean ====
section
/-! DEFINITION. What counts as a safe run of the block, and the words in which the statements speak of its states. -/

namespace Sys2Proof
open Sys2Proof.Machine

/-- The step answers a next state. -/
def Completes (s : State) : Prop := ∃ t, step s = .next t

/-- The first `k` steps all answer a next state. -/
def SafeFor : Nat → State → Prop
  | 0, _ => True
  | k + 1, s => ∃ t, step s = .next t ∧ SafeFor k t

/-- The comb and the predicate of a Brew instruction that uses its predicate (R269, R270): all but FENCE and LOOP. -/
def Instr.predicated : Instr → Option (CombId × Pr)
  | .nop c p | .br c p _ | .lset c p _ _ | .wake c p _ | .tld c p _ _ | .tldx c p _ _ | .tview c p _ _ _ | .tinfo c p _ _ _
  | .tcopy c p _ _ _ _ | .steep c p _ _ _ | .xchg c p _ _ _ | .xstat c p _ _ _ _ | .score c p _ _ _ | .bsel c p _ _ _
  | .cbq c p _ _ _ _ | .mma c p _ _ _ _ _ _ _ | .mmag c p _ _ _ _ _ _ _ | .orth c p _ _ _ _ | .sli c p _ _ | .slih c p _ _
  | .smov c p _ _ | .sadd c p _ _ _ | .ssub c p _ _ _ | .smul c p _ _ _ | .sdiv c p _ _ _ | .sand c p _ _ _ | .sor c p _ _ _
  | .sxor c p _ _ _ | .sshl c p _ _ _ | .sshr c p _ _ _ | .ssra c p _ _ _ | .fadd c p _ _ _ | .fsub c p _ _ _
  | .fmul c p _ _ _ | .fdiv c p _ _ _ | .fmax c p _ _ _ | .fmin c p _ _ _ | .fsqrt c p _ _ | .fcvti c p _ _ | .icvtf c p _ _
  | .scmp c p _ _ _ _ | .plog c p _ _ _ _ | .barr c p | .sred c p _ _ _ _ | .sout c p _ _ => some (c, p)
  | _ => none

/-- The comb of a Brew instruction. -/
def Instr.brewComb (i : Instr) : Option CombId :=
  match i with
  | .fence c | .loop c _ _ => some c
  | _ => i.predicated.map Prod.fst

namespace Machine

/-- Comb `c` may issue and the predicate is capped and holds (R264, R265, R270). -/
def Block.issues (b : Block) (c : CombId) (p : Pr) : Bool := b.mayTake c p && (b.seq c).takes p

/-- `s` with comb `c`'s sequencer made `f` of it, and the KT of the issue noted in the comb; nothing else differs. -/
def State.seqAfter (s : State) (c : CombId) (f : Seqr → Seqr) : State := { s with block := s.block.modIssue c f }

/-- `s` with its block made `b` and the mirrors pushed (R376); the buffers, the fuses and the queue stay. -/
def State.onBlock (s : State) (b : Block) : State := { s with block := finish s.block b }

/-- `s` after an instruction of comb `c` that makes the block `b`: the pc moves on and the KT of the issue is noted. -/
def State.afterInstr (s : State) (c : CombId) (b : Block) : State := s.onBlock (b.modIssue c (fun q => { q with pc := q.pc + 1 }))

/-- `s` with comb `c`'s buffer made `m`. -/
def State.withBuf (s : State) (c : CombId) (m : Mem) : State := { s with bufs := s.bufs.set c m }

/-- `s` with its block made `n`, once the issued operations of the comb that runs partition `p`'s step have gone on as far as they can. -/
def State.wentOn (s : State) (p : PartId) (n : Block) : State :=
  match n.run? p with
  | none => s.onBlock n
  | some r =>
    let w := Block.runOps r.comb (n.comb r.comb).ops.length (n, s.bufs[r.comb])
    (s.onBlock w.1).withBuf r.comb w.2

/-- The management port is on its balls and its session is open and has not run out (R370, R371, R456). -/
def Block.managed (b : Block) : Bool := !b.mspOff && b.msp.session && decide (b.now < b.msp.lastUse + 250000000)

/-- The non-Kettle domains run: no reset holds them (R375, R394). -/
def Block.awake (b : Block) : Bool := b.managed && !b.inReset

/-- `s` after a write through the management port that meets no fault and makes the block `b`. -/
def State.afterWrite (s : State) (b : Block) : State := s.onBlock (b.mspEnd 0 [])

/-- Context `c`, numbered `id`, can take a descriptor, and what it reads is the well-formed descriptor `d` of type `ty` that it expects (R308 to
R311). -/
def Block.reads (b : Block) (id ty : Nat) (c : Ctx) (d : List Byte) : Prop :=
  b.ctx? id = some c ∧ b.canTake c = true ∧ d.length = 64 ∧ dType d = ty ∧ dReq d = c.expReq ∧ dUnusedZero d = true

/-- The descriptor `d` of context `id` has ended with `status`, the block being `b` but for its record (R310, R315). -/
def Block.ended (b : Block) (id : Nat) (d : List Byte) (status slot : Nat) : Block := (b.consume id true).complete id d status slot

/-- A fuse bank under burn is one that is not yet set (R372). -/
def Fuses.sound (f : Fuses) : Prop :=
  match f.busy with
  | none => True
  | some (code, _) => (code = 0x0000A5D1#32 ∧ f.pwdSet = false) ∨ (code = 0x0000A5D2#32 ∧ f.anchorSet = false)

end Machine
end Sys2Proof
end

