-- ==== Sys2Proof/Certificates/Slice0/Obligations.lean ====
section
/-! DEFINITION. The statements about the FT642 block. A statement gives the next state as the state before with the fields that change written
out, or by the operation of the model that the rule names; `State.onBlock` and `State.seqAfter` say that nothing else differs. -/

open Sys2Proof Sys2Proof.Machine

/-! ### The queue and the whole machine -/

/-- The command at the front runs on the state with the queue's rest. -/
def Obligations.StepRunsFrontCommand : Prop :=
  ∀ (s : State) (c : Instr) (rest : List Instr), s.pending = c :: rest → step s = exec c (s.withPending rest)

/-- MODEL'S CHOICE (log entry 2): with no command waiting one KT passes, and within it the straps are sampled (R353); where nothing is due at
that KT, nothing else changes; else what is due happens in the order of `State.dues`, each thing if it is still due in its turn, and the
mirrors follow. A timer is due in the first KT in which its time has passed (R382), a register request at the KT after its write (R419). -/
def Obligations.IdleStepPassesOneKt : Prop :=
  (∀ s : State, s.pending = [] →
    let t : State := { s with block := { s.block with
      kettle := { s.block.kettle with kt := s.block.kettle.kt + 1 }
      base := s.block.counters
      boot := { s.block.boot with phase := if s.block.boot.phase = .straps then .header else s.block.boot.phase } } }
    ((∀ d ∈ t.dues, t.isDue d = false) → step s = .next t) ∧
    (let n := t.dues.foldl (fun (x : State) d => if x.isDue d = true then x.fire d else x) t
     step s = .next { n with block := finish s.block n.block } ∧ n.pending = [])) ∧
  (∀ (t : State),
    (∀ c : CombId, t.isDue (.combCtrl c) = (t.block.comb c).ctrl.pend ∧ (Due.combCtrl c ∈ t.dues)) ∧
    (∀ l : LinkId, t.isDue (.linkCtrl l) = (t.block.link l).ctrl.pend ∧ (Due.linkCtrl l ∈ t.dues)) ∧
    (t.isDue .session = (t.block.msp.session && decide (t.block.msp.lastUse + 250000000 ≤ t.block.now)) ∧ Due.session ∈ t.dues ∧
      (t.fire .session).block = { t.block with msp := { t.block.msp with session := false } }) ∧
    (t.isDue .burn = (t.fuses.busy.isSome && decide (t.fuses.burnAt + 250000 ≤ t.block.now)) ∧ Due.burn ∈ t.dues ∧
      t.fire .burn = { t with fuses := t.fuses.burnt }) ∧
    (t.isDue .audit = decide (t.block.kettle.auditAt + 25000 ≤ t.block.now) ∧ Due.audit ∈ t.dues ∧
      t.fire .audit = { t with block := t.block.audit [] }))

/-- Every command answers a next state, and none touches the queue. -/
def Obligations.EveryCommandAnswersAndKeepsTheQueue : Prop :=
  ∀ (c : Instr) (s : State), ∃ t, exec c s = .next t ∧ t.pending = s.pending

/-- Every comb buffer keeps its canonical form over every step. -/
def Obligations.CombBuffersStayCanonical : Prop :=
  ∀ s t : State, (∀ c : CombId, Memory.wf (some 0) s.bufs[c] = true) → step s = .next t →
    ∀ c : CombId, Memory.wf (some 0) t.bufs[c] = true

/-- A fuse bank that is set keeps its bits and its flag over every step, whatever is commanded (R371, R372, R395). -/
def Obligations.SetFusesNeverChange : Prop :=
  ∀ s t : State, s.fuses.sound → step s = .next t →
    t.fuses.sound ∧
    (s.fuses.pwdSet = true → t.fuses.pwdSet = true ∧ t.fuses.pwd = s.fuses.pwd) ∧
    (s.fuses.anchorSet = true → t.fuses.anchorSet = true ∧ t.fuses.anchor = s.fuses.anchor)

/-- What reset leaves (R254, R353, R415 to R435); blank fuses and the queue are the model's (log entry 5). -/
def Obligations.ResetState : Prop :=
  State.reset.pending = [] ∧ State.reset.fuses.sound ∧ (∀ c : CombId, State.reset.bufs[c] = []) ∧
  (∀ c : CombId, Memory.wf (some 0) State.reset.bufs[c] = true) ∧
  State.reset.block.kettle.kt = 0 ∧ State.reset.block.boot.phase = .none ∧ State.reset.block.kettle.resetCause = 1 ∧
  (∀ c : CombId, (State.reset.block.mirrors.comb[c]).read = 0x0000000E) ∧
  (∀ l : LinkId, (State.reset.block.mirrors.link[l]).read = 0x00000018) ∧
  (∀ d : DimId, (State.reset.block.mirrors.plink[d]).read = 0x0000FFFF) ∧
  (∀ l : LinkId, (State.reset.block.link l).st = .cold) ∧ (∀ c : CombId, ((State.reset.block.comb c).seq).pred 0 = true)

/-- The mirrors (R376): every command leaves them as `finish` says; there, one whose unit shows another value takes it and its mseq rises
by one, modulo 256, and the others stay, as does one that holds its value against a push that came late (log entry 66); the state registers of combs, links, partitions, stacks and of the PWR block read a mirror, mseq
in bits [31:24]. -/
def Obligations.MirrorsFollowTheDataPath : Prop :=
  (∀ (c : Instr) (s : State), ∃ n t, exec c s = .next t ∧ t.block = finish s.block n) ∧
  (∀ (b : Block) (f : Fuses),
    (∀ c : CombId, b.readReg f (0x100000 + 0x40000 * c.val) = some (b.mirrors.comb[c]).read) ∧
    (∀ l : LinkId, b.readReg f (0x300000 + 0x1000 * l.val) = some (b.mirrors.link[l]).read) ∧
    (∀ p : PartId, (b.part p).img.isSome = true → b.readReg f (0x400000 + 0x400 * p.val) = some (b.mirrors.part[p]).read) ∧
    (∀ k : StackId, b.readReg f (0x600000 + 4 * k.val) = some (b.mirrors.stack[k]).read) ∧
    (∀ c : CombId, b.readReg f (0x80001C + 16 * c.val) = some (b.mirrors.pcomb[c]).read) ∧
    (∀ d : DimId, b.readReg f (0x80008C + 16 * d.val) = some (b.mirrors.plink[d]).read)) ∧
  (∀ m : Mirror, BitVec.ofNat 32 m.read = m.mseq ++ m.val) ∧
  ∀ o n : Block, n.resets = o.resets →
    (∃ m, finish o n = { n with mirrors := m }) ∧
    (∀ c : CombId, (finish o n).mirrors.comb[c] = if combView (n.comb c) = combView (o.comb c) ∨ (n.mirrors.comb[c]).held = true then n.mirrors.comb[c]
      else { n.mirrors.comb[c] with val := combView (n.comb c), mseq := (n.mirrors.comb[c]).mseq + 1 }) ∧
    (∀ l : LinkId, (finish o n).mirrors.link[l] = if linkView (n.link l) = linkView (o.link l) ∨ (n.mirrors.link[l]).held = true then n.mirrors.link[l]
      else { n.mirrors.link[l] with val := linkView (n.link l), mseq := (n.mirrors.link[l]).mseq + 1 }) ∧
    (∀ p : PartId, (finish o n).mirrors.part[p] = if n.partView p = o.partView p ∨ (n.mirrors.part[p]).held = true then n.mirrors.part[p]
      else { n.mirrors.part[p] with val := n.partView p, mseq := (n.mirrors.part[p]).mseq + 1 }) ∧
    (∀ k : StackId, (finish o n).mirrors.stack[k] = if stackView n.hbm.stackOf[k] = stackView o.hbm.stackOf[k] ∨ (n.mirrors.stack[k]).held = true then n.mirrors.stack[k]
      else { n.mirrors.stack[k] with val := stackView n.hbm.stackOf[k], mseq := (n.mirrors.stack[k]).mseq + 1 }) ∧
    (∀ c : CombId, (finish o n).mirrors.pcomb[c] = if pcombView (n.comb c) = pcombView (o.comb c) ∨ (n.mirrors.pcomb[c]).held = true then n.mirrors.pcomb[c]
      else { n.mirrors.pcomb[c] with val := pcombView (n.comb c), mseq := (n.mirrors.pcomb[c]).mseq + 1 }) ∧
    (∀ d : DimId, (finish o n).mirrors.plink[d] = if n.plinkView d = o.plinkView d ∨ (n.mirrors.plink[d]).held = true then n.mirrors.plink[d]
      else { n.mirrors.plink[d] with val := n.plinkView d, mseq := (n.mirrors.plink[d]).mseq + 1 })

/-! ### Brew: issue -/

/-- The predicate (R264, R270): an instruction executes when Q[pq] xor pneg is 1; any other but FENCE and LOOP, which have none, moves the pc
and nothing else; an instruction whose predicate is uncapped waits. -/
def Obligations.FailedPredicateOnlyMovesThePc : Prop :=
  (∀ (i : Instr) (c : CombId) (p : Pr) (s : State), i.predicated = some (c, p) → s.block.mayIssue c = true →
    (s.block.seq c).sure p.q = true → (((s.block.seq c).pred p.q) ^^ p.neg) = false →
    exec i s = .next (s.seqAfter c (fun q => { q with pc := q.pc + 1 }))) ∧
  (∀ (i : Instr) (c : CombId) (p : Pr) (s : State), i.predicated = some (c, p) → (s.block.seq c).sure p.q = false → exec i s = .next s) ∧
  (∀ (c : CombId) (p : Pr) (s : State), s.block.issues c p =
    (s.block.mayIssue c && (s.block.seq c).sure p.q && (((s.block.seq c).pred p.q) ^^ p.neg))) ∧
  (∀ q : Seqr, q.takes ⟨false, 0⟩ = true ∧ q.sure 0 = true ∧ ∀ r : QReg, r ≠ 0 → q.sure r = (q.qx[r]).isNone) ∧
  (∀ (c : CombId) (k : LReg) (t : BitVec 15), (Instr.fence c).predicated = none ∧ (Instr.loop c k t).predicated = none)

/-- Once a common abort has been met, the sequencer issues nothing more of the step (R265). -/
def Obligations.AbortedStepIssuesNothing : Prop :=
  ∀ (i : Instr) (c : CombId) (p : PartId) (r : StepRun) (s : State), i.brewComb = some c → s.block.stepOf c = some (p, r) →
    r.abort.isSome = true → exec i s = .next s

/-! ### Brew: scalars, predicates, control -/

/-- The ten integer operations and SMOV, SLI and SLIH (R290): the result register, uncapped while an operand is (R49, R264), and nothing else but
the pc. -/
def Obligations.IntegerScalarResults : Prop :=
  (∀ (q : Seqr) (r : SReg) (v : BitVec 32), q.srcInt (.reg r) = q.s[r] ∧ q.srcInt (.imm v) = ⟨v.signExtend 64, false, none⟩) ∧
  (∀ (f : SFn) (a b : Scal), (Scal.exWith f a b = none ↔ a.ex = none ∧ b.ex = none)) ∧
  (∀ e ∈ ([(Instr.sadd, SFn.add, fun a b => a + b), (Instr.ssub, SFn.sub, fun a b => a - b), (Instr.smul, SFn.mul, fun a b => a * b),
      (Instr.sdiv, SFn.div, fun a b => if b = 0 then 0 else a / b), (Instr.sand, SFn.and, fun a b => a &&& b),
      (Instr.sor, SFn.or, fun a b => a ||| b), (Instr.sxor, SFn.xor, fun a b => a ^^^ b), (Instr.sshl, SFn.shl, fun a b => a <<< (b.toNat % 64)),
      (Instr.sshr, SFn.shr, fun a b => a >>> (b.toNat % 64)), (Instr.ssra, SFn.sra, fun a b => a.sshiftRight (b.toNat % 64))] :
      List ((CombId → Pr → SReg → SReg → SrcB → Instr) × SFn × (DWord → DWord → DWord))),
    ∀ (c : CombId) (p : Pr) (sd sa : SReg) (x : SrcB) (s : State), s.block.issues c p = true →
      (s.block.seq c).pend sa = false → (s.block.seq c).srcPend x = false → (s.block.seq c).pend sd = false →
      exec (e.1 c p sd sa x) s = .next (s.seqAfter c (fun q => { q with
        s := q.s.set sd ⟨e.2.2 (q.s[sa]).v (q.srcInt x).v, false, Scal.exWith e.2.1 q.s[sa] (q.srcInt x)⟩, pc := q.pc + 1 }))) ∧
  (∀ (c : CombId) (p : Pr) (sd sa : SReg) (s : State), s.block.issues c p = true → (s.block.seq c).pend sa = false →
    (s.block.seq c).pend sd = false →
    exec (.smov c p sd sa) s = .next (s.seqAfter c (fun q => { q with
      s := q.s.set sd ⟨(q.s[sa]).v, false, Scal.exWith .mov q.s[sa] ⟨0, false, none⟩⟩, pc := q.pc + 1 }))) ∧
  (∀ (c : CombId) (p : Pr) (sd : SReg) (imm : BitVec 32) (s : State), s.block.issues c p = true → (s.block.seq c).pend sd = false →
    exec (.sli c p sd imm) s = .next (s.seqAfter c (fun q => { q with s := q.s.set sd ⟨imm.signExtend 64, false, none⟩, pc := q.pc + 1 })) ∧
    exec (.slih c p sd imm) s = .next (s.seqAfter c (fun q => { q with
      s := q.s.set sd ⟨imm ++ BitVec.setWidth 32 (q.s[sd]).v, false, Scal.exWith (.high imm) q.s[sd] ⟨0, false, none⟩⟩, pc := q.pc + 1 })))

/-- The float operations and the two conversions (R290): bits [31:0] of the result, bits [63:32] at 0 where it is F32; uncapped while an operand
is (R264). -/
def Obligations.FloatScalarResults : Prop :=
  (∀ (q : Seqr) (r : SReg) (v : BitVec 32), q.srcF32 (.reg r) = q.s[r] ∧ q.srcF32 (.imm v) = ⟨0#32 ++ v, false, none⟩) ∧
  (∀ e ∈ ([(Instr.fadd, SFn.fadd, f32Add), (Instr.fsub, SFn.fsub, f32Sub), (Instr.fmul, SFn.fmul, f32Mul), (Instr.fdiv, SFn.fdiv, f32Div),
      (Instr.fmax, SFn.fmax, f32Max), (Instr.fmin, SFn.fmin, f32Min)] :
      List ((CombId → Pr → SReg → SReg → SrcB → Instr) × SFn × (Word → Word → Word))),
    ∀ (c : CombId) (p : Pr) (sd sa : SReg) (x : SrcB) (s : State), s.block.issues c p = true →
      (s.block.seq c).pend sa = false → (s.block.seq c).srcPend x = false → (s.block.seq c).pend sd = false →
      exec (e.1 c p sd sa x) s = .next (s.seqAfter c (fun q => { q with
        s := q.s.set sd ⟨0#32 ++ e.2.2 (BitVec.setWidth 32 (q.s[sa]).v) (BitVec.setWidth 32 (q.srcF32 x).v), false,
          Scal.exWith e.2.1 q.s[sa] (q.srcF32 x)⟩, pc := q.pc + 1 }))) ∧
  (∀ (c : CombId) (p : Pr) (sd sa : SReg) (s : State), s.block.issues c p = true → (s.block.seq c).pend sa = false →
    (s.block.seq c).pend sd = false →
    exec (.fsqrt c p sd sa) s = .next (s.seqAfter c (fun q => { q with
      s := q.s.set sd ⟨0#32 ++ f32Sqrt (BitVec.setWidth 32 (q.s[sa]).v), false, Scal.exWith .fsqrt q.s[sa] ⟨0, false, none⟩⟩, pc := q.pc + 1 })) ∧
    exec (.icvtf c p sd sa) s = .next (s.seqAfter c (fun q => { q with
      s := q.s.set sd ⟨0#32 ++ f32OfScaled (q.s[sa]).v.toInt 0, false, Scal.exWith .icvtf q.s[sa] ⟨0, false, none⟩⟩, pc := q.pc + 1 })) ∧
    exec (.fcvti c p sd sa) s = .next (s.seqAfter c (fun q => { q with
      s := q.s.set sd ⟨BitVec.ofInt 64 (match f32Val (BitVec.setWidth 32 (q.s[sa]).v) with
        | .nan => 0
        | .inf n => if n then -(2 ^ 63 - 1) else 2 ^ 63 - 1
        | .fin n m => if n then -(Nat.min (rne m (2 ^ 149)) (2 ^ 63 - 1)) else Nat.min (rne m (2 ^ 149)) (2 ^ 63 - 1)), false,
          Scal.exWith .fcvti q.s[sa] ⟨0, false, none⟩⟩
      pc := q.pc + 1 })))

/-- SCMP and PLOG (R291): the eight conditions, and the predicate named, but for Q0, which stays 1 (R269); uncapped while an operand is (R264). -/
def Obligations.PredicateResults : Prop :=
  (∀ a b : DWord, condHolds .eq a b = decide (a = b) ∧ condHolds .ne a b = decide (a ≠ b) ∧ condHolds .lt a b = BitVec.slt a b ∧
    condHolds .le a b = BitVec.sle a b ∧ condHolds .ltu a b = BitVec.ult a b ∧ condHolds .leu a b = BitVec.ule a b ∧
    condHolds .flt a b = ((f32Val (BitVec.setWidth 32 a)).ltB (f32Val (BitVec.setWidth 32 b))) ∧
    condHolds .fle a b = (match f32Val (BitVec.setWidth 32 a), f32Val (BitVec.setWidth 32 b) with
      | .nan, _ | _, .nan => false
      | x, y => !(y.ltB x))) ∧
  (∀ (c : CombId) (p : Pr) (qd : QReg) (s : State), s.block.issues c p = true →
    (∀ (sa sb : SReg) (k : Cond), (s.block.seq c).pend sa = false → (s.block.seq c).pend sb = false →
      exec (.scmp c p qd sa sb k) s = .next (s.seqAfter c (fun q => { q with
        q := if qd = 0 then q.q else q.q.set qd (condHolds k (q.s[sa]).v (q.s[sb]).v)
        qx := if qd = 0 then q.qx else q.qx.set qd (Scal.exWith (.cmp k) q.s[sa] q.s[sb]), pc := q.pc + 1 }))) ∧
    (∀ (qa qb : QReg) (table : BitVec 4),
      exec (.plog c p qd qa qb table) s = .next (s.seqAfter c (fun q => { q with
        q := if qd = 0 then q.q else q.q.set qd (table.getLsbD (2 * (q.pred qa).toNat + (q.pred qb).toNat))
        qx := if qd = 0 then q.qx else q.qx.set qd (Scal.exWith (.log table) (q.predS qa) (q.predS qb)), pc := q.pc + 1 })))) ∧
  (∀ (q : Seqr) (r : QReg), (q.predS r).ex = none ↔ q.sure r = true)

/-- NOP, BR, LOOP and LSET (R275), the last on a capped register (R264); and the commands of the four words that the worked example and the branch
after it spell out (R269 to R272). -/
def Obligations.ControlFlow : Prop :=
  (∀ (c : CombId) (x : Supply),
    brewCommand c 0x1200410100000080 x = some (.tview c ⟨false, 0⟩ 1 1 (.rowlen 128)) ∧
    brewCommand c 0x2100000000000000 x = some (.xchg c ⟨false, 0⟩ 0 x.g x.errs) ∧
    brewCommand c 0x3100C204A4000000 x = some (.mmag c ⟨false, 0⟩ 3 2 1 .b16 ⟨some 9, none, .none, .none⟩ x.mma x.errs) ∧
    brewCommand c 0x02A0000000000040 x = some (.br c ⟨true, 2⟩ 0x40)) ∧
  ∀ (c : CombId) (s : State),
    (∀ p : Pr, s.block.issues c p = true →
      exec (.nop c p) s = .next (s.seqAfter c (fun q => { q with pc := q.pc + 1 })) ∧
      (∀ t : BitVec 15, exec (.br c p t) s = .next (s.seqAfter c (fun q => { q with pc := t }))) ∧
      (∀ (k : LReg) (v : BitVec 32), exec (.lset c p k (.imm v)) s = .next (s.seqAfter c (fun q => { q with l := q.l.set k v, pc := q.pc + 1 }))) ∧
      (∀ (k : LReg) (r : SReg), ((s.block.seq c).s[r]).pend = false → ((s.block.seq c).s[r]).ex = none →
        exec (.lset c p k (.reg r)) s = .next (s.seqAfter c (fun q => { q with l := q.l.set k (BitVec.setWidth 32 (q.s[r]).v), pc := q.pc + 1 })))) ∧
    (∀ (k : LReg) (t : BitVec 15), s.block.mayIssue c = true →
      (1 < ((s.block.seq c).l[k]).toNat →
        exec (.loop c k t) s = .next (s.seqAfter c (fun q => { q with l := q.l.set k (q.l[k] - 1), pc := t }))) ∧
      (((s.block.seq c).l[k]).toNat ≤ 1 →
        exec (.loop c k t) s = .next (s.seqAfter c (fun q => { q with l := q.l.set k 0, pc := q.pc + 1 }))))

/-- TLD, TLDX, TVIEW and TINFO (R277): the descriptor or the value loaded, and nothing else but the pc. -/
def Obligations.DescriptorInstructions : Prop :=
  (∀ (c : CombId) (p : Pr) (s : State), s.block.issues c p = true →
    (∀ (td : TdReg) (idx : BitVec 16), exec (.tld c p td idx) s = .next (s.seqAfter c (fun q => { q with
      td := q.td.set td ((s.block.imageOf c).tdOf idx.toNat), pc := q.pc + 1 }))) ∧
    (∀ (td : TdReg) (sb : SReg), (s.block.seq c).isOpen sb = false →
      exec (.tldx c p td sb) s = .next (s.seqAfter c (fun q => { q with
        td := q.td.set td ((s.block.imageOf c).tdOf (q.s[sb]).v.toNat), pc := q.pc + 1 }))) ∧
    (∀ (td src : TdReg) (m : TviewMode), (∀ r n, m = .range r n → (s.block.seq c).isOpen r = false) →
      exec (.tview c p td src m) s = .next (s.seqAfter c (fun q => { q with
        td := q.td.set td ((s.block.imageOf c).tview q (q.td[src]) m), pc := q.pc + 1 }))) ∧
    (∀ (sd : SReg) (td : TdReg) (sel : Fin 8), (s.block.seq c).pend sd = false →
      exec (.tinfo c p sd td sel) s = .next (s.seqAfter c (fun q => { q with
        s := q.s.set sd ⟨BitVec.ofNat 64 ((s.block.imageOf c).tinfo (q.td[td]) sel), false, none⟩, pc := q.pc + 1 })))) ∧
  (∀ (q : Seqr) (r : SReg), q.isOpen r = ((q.s[r]).pend || (q.s[r]).ex.isSome)) ∧
  (∀ (i : PartImage) (t : Nat), i.tdOf t = if t < i.tensors.length then
    { rowlen := if (i.entry t).method = .lowrank then (i.entry t).b else 0, region := 0, view := false, method := (i.entry t).method.code
      rfmt := (i.entry t).rfmt.code, xfmt := (i.entry t).xfmt.code, tensor := t, base := 0, n := (i.entry t).n } else Td.null) ∧
  (∀ (i : PartImage) (q : Seqr) (d : Td),
    (d.region = 15 → ∀ m, i.tview q d m = Td.null) ∧
    (d.region ≠ 15 → ∀ v, i.tview q d (.rowlen v) = { d with rowlen := v.toNat }) ∧
    (d.region ≠ 15 → ∀ g x, (i.entry d.tensor).extentOf g.toNat = some x →
      i.tview q d (.region g) = { d with region := g.toNat, base := 0, n := x, view := false }) ∧
    (d.region ≠ 15 → ∀ g, (i.entry d.tensor).extentOf g.toNat = none → i.tview q d (.region g) = Td.null) ∧
    (d.region ≠ 15 → ∀ r n x, (i.entry d.tensor).extentOf d.region = some x →
      i.tview q d (.range r n) = if (q.s[r]).v.toNat % 2 ^ 32 % 256 = 0 ∧ (q.s[r]).v.toNat % 2 ^ 32 < x ∧ n ≠ 0 then
        { d with base := (q.s[r]).v.toNat % 2 ^ 32, n := Nat.min n.toNat (x - (q.s[r]).v.toNat % 2 ^ 32), view := true } else Td.null)) ∧
  (∀ (i : PartImage) (d : Td), d.region ≠ 15 → i.tinfo d 0 = d.n ∧ i.tinfo d 1 = d.base ∧ i.tinfo d 2 = d.rowlen ∧ i.tinfo d 3 = d.tensor ∧
    i.tinfo d 4 = blocksOf (i.entry d.tensor).n ∧ i.tinfo d 6 = d.method ∧ i.tinfo d 7 = d.region) ∧
  (∀ (i : PartImage) (d : Td) (sel : Fin 8), d.region = 15 → i.tinfo d sel = if sel = 7 then 0xF else 0)


/-! ### Brew: the comb buffer, copies, products, statistics -/

/-- Elements stored in a comb buffer (R276): they read back, and every byte outside them is as before. -/
def Obligations.CombBufferElementStores : Prop :=
  ∀ (m : Mem) (i : Nat) (ws : List Word), Memory.wf (some 0) m = true →
    (∀ (k : Nat) (h : k < ws.length), (m.setWords i ws).word (i + k) = ws[k]) ∧
    (∀ a : Nat, a < 4 * i ∨ 4 * (i + ws.length) ≤ a → Mem.read (some 0) (m.setWords i ws) a = Mem.read (some 0) m a)

/-- What a destination view receives (R276, R283, R289): elements of a comb-buffer view from base on, packed bytes of a result slot whose
role is enabled, nothing of one whose role is not; the saturations are counted. -/
def Obligations.DestinationViewWrites : Prop :=
  ∀ (b : Block) (m : Mem) (c : CombId) (p : PartId) (d : Td) (o : Nat) (cs : List Conv),
    let n := b.modComb c (fun x => { x with cnt := { x.cnt with qntSat := x.cnt.qntSat + BitVec.ofNat 32 (cs.filter Conv.sat).length } })
    (d.region = 4 → b.putConvs m c p d o cs = (n, m.setWords (d.base + o) (cs.map (fun x => BitVec.ofNat 32 x.code)))) ∧
    (d.region = 1 → ((b.image p).entry d.tensor).rRole = true →
      b.putConvs m c p d o cs =
        (n.resultWrite p d.tensor (d.base + o) (packCodes ((b.image p).entry d.tensor).rfmt.width (cs.map Conv.code)), m)) ∧
    (d.region = 1 → ((b.image p).entry d.tensor).rRole = false → b.putConvs m c p d o cs = (n, m))

/-- TCOPY and ORTH (R288, R289): they retire, or the destination view receives the copy or the orthonormal columns; what a failed read does stands
where it does not. A read that meets no error goes on (R276). -/
def Obligations.CopyAndOrthonormalise : Prop :=
  (∀ (c : CombId) (p : Pr) (dst src : TdReg) (rd : HostRead) (errs : List MemErr) (s : State) (pt : PartId) (r : StepRun) (b1 : Block),
    let b := s.block
    let D := (b.seq c).td[dst]
    let S := (b.seq c).td[src]
    b.issues c p = true → b.stepOf c = some (pt, r) → (b.comb c).prods = [] → (b.comb c).ops = [] → b.viewWaits pt r S = false →
    b.dstWaits pt r D = false →
    (S.region = 15 ∨ (D.region ≠ 1 ∧ D.region ≠ 4) ∨ (b.viewFmt pt S = .s8 ∧ b.viewFmt pt D ≠ .s8) →
      exec (.tcopy c p dst src rd errs) s = .next (s.seqAfter c (fun q => { q with pc := q.pc + 1 }))) ∧
    (S.region = 15 ∨ (D.region ≠ 1 ∧ D.region ≠ 4) ∨ S.rowlen = 0 ∨ 64 < S.rowlen →
      exec (.orth c p dst src rd errs) s = .next (s.seqAfter c (fun q => { q with pc := q.pc + 1 }))) ∧
    (S.region = 4 → D.region = 4 → b.viewFmt pt S ≠ .s8 → b.readAll pt r [(S, rd)] errs = (b1, true) →
      exec (.tcopy c p dst src rd errs) s = .next ((s.afterInstr c b1).withBuf c
        (copyAscending s.bufs[c] S.base D.base (Nat.min S.n D.n) 0))) ∧
    (S.region ≠ 15 → D.region = 1 ∨ D.region = 4 → ¬(b.viewFmt pt S = .s8 ∧ b.viewFmt pt D ≠ .s8) → ¬(S.region = 4 ∧ D.region = 4) →
      b.readAll pt r [(S, rd)] errs = (b1, true) →
      let w := b1.putConvs s.bufs[c] c pt D 0 (((b1.viewVals s.bufs[c] pt r S rd).take (Nat.min S.n D.n)).map (fun x =>
        if b.viewFmt pt S = .s8 then ⟨(toIntCode 9 0 (f32Val x)).code % 256, false⟩ else toResult (b.viewFmt pt D) (f32Val x)))
      exec (.tcopy c p dst src rd errs) s = .next ((s.afterInstr c w.1).withBuf c w.2)) ∧
    (S.region ≠ 15 → D.region = 1 ∨ D.region = 4 → 1 ≤ S.rowlen → S.rowlen ≤ 64 → b.readAll pt r [(S, rd)] errs = (b1, true) →
      let rows := S.n / S.rowlen
      let w := b1.putConvs s.bufs[c] c pt D 0
        (((orthogonalise rows S.rowlen ((b1.viewVals s.bufs[c] pt r S rd).take (rows * S.rowlen))).take D.n).map
          (fun x => toResult (b1.viewFmt pt D) (f32Val x)))
      exec (.orth c p dst src rd errs) s = .next ((s.afterInstr c w.1).withBuf c w.2)) ∧
    (S.region ≠ 15 → D.region = 1 ∨ D.region = 4 → b.readAll pt r [(S, rd)] errs = (b1, false) →
      (¬(b.viewFmt pt S = .s8 ∧ b.viewFmt pt D ≠ .s8) → exec (.tcopy c p dst src rd errs) s = .next (s.afterInstr c b1)) ∧
      (1 ≤ S.rowlen → S.rowlen ≤ 64 → exec (.orth c p dst src rd errs) s = .next (s.afterInstr c b1)))) ∧
  (∀ (b : Block) (pt : PartId) (r : StepRun) (ops : List (Td × HostRead)),
    (∀ o ∈ ops, (b.image pt).readsHost o.1 = true → o.2 ≠ .failed) →
    (∀ o ∈ ops, o.1.region = 3 → (b.tmem pt o.1.tensor).opBad = false) →
    (∀ o ∈ ops, o.1.region = 5 → (b.tmem pt o.1.tensor).qBad = false) →
    b.readAll pt r ops [] = (b.modRun pt (fun r => { r with wants := [], seen := [] }), true))

/-- MMA, and MMAG, on a stream whose rows need not be gathered (R282 to R286): each completes in the state written out here, once it may issue
and has nothing to wait for; the rows of the product go through the output stages into the destination view. Either retires without effect on a
null descriptor or a destination it may not write; after a failed read only what the failure does stands. -/
def Obligations.MatrixProducts : Prop :=
  (∀ (c : CombId) (p : Pr) (dst stream weights : TdReg) (cvt : Cvt) (o : OutCfg) (rd : MmaReads) (errs : List MemErr) (s : State) (pt : PartId)
    (r : StepRun) (b1 : Block) (late : Bool) (i : Instr),
    let b := s.block
    let q := b.seq c
    let D := q.td[dst]
    let S := q.td[stream]
    let X := q.td[weights]
    i = (if late then .mmag c p dst stream weights cvt o rd errs else .mma c p dst stream weights cvt o rd errs) →
    b.issues c p = true → b.stepOf c = some (pt, r) → (b.comb c).ops = [] → cfgPend o q = false →
    b.opWaits c pt r (.mma D S X (cvtFmt cvt) (outSet o q) rd errs late) = false →
    (b.mmaRetires pt D S X (outSet o q) = true → exec i s = .next (s.seqAfter c (fun q => { q with pc := q.pc + 1 }))) ∧
    (b.mmaRetires pt D S X (outSet o q) = false → b.gathers pt r S = false →
      b.readAll pt r (mmaOperands (outSet o q) S X rd false) errs = (b1, true) →
      let g := b1.product s.bufs[c] pt r D S X (cvtFmt cvt) (outSet o q) rd
      let b2 := b1.satIn c g.2
      let v := enterVals (b2.viewFmt pt S) (cvtFmt cvt) ((b2.viewVals s.bufs[c] pt r S rd.stream).take (g.1.rows * g.1.inner))
      let w := (List.range g.1.rows).foldl (fun st k => st.1.putRow st.2 c pt g.1 k (matRow g.1.inner v.1 k)) (b2.satIn c v.2, s.bufs[c])
      exec i s = .next ((s.afterInstr c w.1).withBuf c w.2)) ∧
    (b.mmaRetires pt D S X (outSet o q) = false → b.gathers pt r S = false →
      b.readAll pt r (mmaOperands (outSet o q) S X rd false) errs = (b1, false) → exec i s = .next (s.afterInstr c b1))) ∧
  (∀ (b : Block) (m : Mem) (pt : PartId) (r : StepRun) (D S X : Td) (k : Fmt) (o : OutSet) (rd : MmaReads),
    let g := (b.product m pt r D S X k o rd).1
    let wv := enterVals (b.viewFmt pt X) k ((b.viewVals m pt r X rd.weights).take (g.inner * g.cols))
    g.dst = D ∧ g.stream = S ∧ g.cvt = k ∧ g.inner = (if S.rowlen = 0 then S.n else S.rowlen) ∧
    g.cols = (if X.rowlen = 0 then X.n else X.rowlen) ∧ g.rows = S.n / g.inner ∧ g.weights = wv.1 ∧ (b.product m pt r D S X k o rd).2 = wv.2 ∧
    g.scale = o.scale.map (fun x => low32 x.v) ∧ g.ew = o.ew ∧ g.act = o.act ∧ g.lo = low32 o.lo.v ∧ g.hi = low32 o.hi.v ∧
    g.bias = (match o.bias with | some t => padWords g.cols (b.viewVals m pt r t rd.bias) | none => []) ∧
    g.z = (match o.z with | some t => b.viewVals m pt r t rd.z | none => []) ∧ g.taken = [] ∧ g.early = []) ∧
  (∀ (o : OutCfg) (q : Seqr),
    (outSet o q).scale = o.scale.map (fun x => q.s[x]) ∧ (outSet o q).bias = o.bias.map (fun x => q.td[x]) ∧
    (outSet o q).ew = (match o.ew with | .none => 0 | .add _ => 1 | .mul _ => 2) ∧
    (outSet o q).z = (match o.ew with | .none => none | .add x => some q.td[x] | .mul x => some q.td[x]) ∧
    (outSet o q).act = (match o.act with | .none => 0 | .clamp _ => 1 | .sign => 2 | .abs => 3))

/-- Products on the decoded sum of an exchange under way (R132 to R134, R284, R285). MMAG joins the products that take rows as they are gathered,
MMA takes its rows once all are available; GATHERED_ROW_TAKE answers a next state whatever stands there: the first product takes an available row
and writes its outputs, and ends once every row is taken and capped; a row of uncapped data writes the comb buffer only, and its counts and its
result bytes are held with it; then the operations issued behind it go on. -/
def Obligations.GatheredProducts : Prop :=
  (∀ (c : CombId) (p : Pr) (dst stream weights : TdReg) (cvt : Cvt) (o : OutCfg) (rd : MmaReads) (errs : List MemErr) (s : State) (pt : PartId)
    (r : StepRun) (b1 : Block),
    let b := s.block
    let q := b.seq c
    let D := q.td[dst]
    let S := q.td[stream]
    let X := q.td[weights]
    let g := b1.product s.bufs[c] pt r D S X (cvtFmt cvt) (outSet o q) rd
    let b2 := if g.1.rows = 0 then b1.satIn c g.2 else (b1.satIn c g.2).modComb c (fun x => { x with prods := x.prods ++ [g.1] })
    b.issues c p = true → b.stepOf c = some (pt, r) → (b.comb c).ops = [] → cfgPend o q = false →
    b.mmaRetires pt D S X (outSet o q) = false → b.gathers pt r S = true →
    b.readAll pt r (mmaOperands (outSet o q) S X rd true) errs = (b1, true) →
    (b.opWaits c pt r (.mma D S X (cvtFmt cvt) (outSet o q) rd errs true) = false →
      exec (.mmag c p dst stream weights cvt o rd errs) s = .next (s.afterInstr c b2)) ∧
    (b.opWaits c pt r (.mma D S X (cvtFmt cvt) (outSet o q) rd errs false) = false →
      let w := (List.range g.1.rows).foldl (fun st k => st.1.rowTake st.2 c pt r k) (b2, s.bufs[c])
      exec (.mma c p dst stream weights cvt o rd errs) s = .next ((s.afterInstr c w.1).withBuf c w.2))) ∧
  (∀ (c : CombId) (row : Nat) (s : State),
    (s.block.stepOf c = none → exec (.gatheredRowTake c row) s = .next s) ∧
    (∀ (pt : PartId) (r : StepRun), s.block.stepOf c = some (pt, r) →
      let w := Block.runOps c (s.block.comb c).ops.length (s.block.rowTake s.bufs[c] c pt r row)
      exec (.gatheredRowTake c row) s = .next ((s.onBlock w.1).withBuf c w.2))) ∧
  (∀ (b : Block) (m : Mem) (c : CombId) (row : Nat) (pt : PartId) (r : StepRun) (g : GProd) (gs : List GProd) (l : List Word) (uses : List Nat),
    ((b.comb c).prods = [] → b.rowTake m c pt r row = (b, m)) ∧
    ((b.comb c).prods = g :: gs → r.abort.isSome = true ∨ g.rows ≤ row ∨ g.taken.contains row = true ∨ b.gatheredRow pt r g row = none →
      b.rowTake m c pt r row = (b, m)) ∧
    ((b.comb c).prods = g :: gs → r.abort = none → row < g.rows → g.taken.contains row = false → b.gatheredRow pt r g row = some (l, uses) →
      let v := enterVals .f32 g.cvt l
      let o := g.row (b.viewFmt pt g.dst) row v.1
      (uses = [] →
        let w := (b.satIn c v.2).putRow m c pt g row v.1
        b.rowTake m c pt r row = (w.1.modComb c (fun x => { x with
          prods := (if g.taken.length + 1 = g.rows ∧ g.early = [] then [] else [{ g with taken := row :: g.taken }]) ++ liveProds gs }), w.2)) ∧
      (uses ≠ [] → ∃ e : EarlyRow, e.row = row ∧ e.uses = uses ∧ e.sat = v.2 + (o.1.filter Conv.sat).length ∧ e.ovf = o.2 ∧
        b.rowTake m c pt r row = (b.modComb c (fun x => { x with prods := { g with taken := row :: g.taken, early := e :: g.early } :: gs }),
          if g.dst.region = 4 then m.setWords (g.dst.base + row * g.cols) (o.1.map (fun x => BitVec.ofNat 32 x.code)) else m)))) ∧
  (∀ (c : CombId) (n : Nat) (b : Block) (m : Mem), (b.comb c).ops = [] → Block.runOps c n (b, m) = (b, m))

/-- XSTAT, SCORE, BSEL and CBQ (R279 to R281): what they read back of an exchange, and what they give where it is not there. -/
def Obligations.ReadbackInstructions : Prop :=
  ∀ (c : CombId) (p : Pr) (s : State) (pt : PartId) (r : StepRun), s.block.issues c p = true → s.block.stepOf c = some (pt, r) →
    let b := s.block
    let q := b.seq c
    (∀ (dst src : TdReg) (mode : Fin 4) (errs : List MemErr), (b.comb c).ops = [] → (b.comb c).prods = [] → b.ctlFull c = false →
      b.xstatRuns pt r q.td[dst] q.td[src] = false →
      exec (.xstat c p dst src mode errs) s = .next (s.seqAfter c (fun q => { q with pc := q.pc + 1 }))) ∧
    (∀ (dst src : TdReg) (mode : Fin 4), b.xstatRuns pt r q.td[dst] q.td[src] = true → (b.comb c).prods = [] →
      (b.comb c).ops = [] → b.ctlFull c = false → (r.unitRun (b.image pt) q.td[src].tensor).decoded.isSome = true → b.dstWaits pt r q.td[dst] = false →
      ∃ vs : List Word, vs = (let i := b.image pt
          let h := i.head q.td[src].tensor
          let off := match (i.offsets h).find? (fun x => x.1 == q.td[src].tensor) with | some x => x.2 | none => 0
          if mode.val < 2 then
            (List.range (Nat.min q.td[src].n q.td[dst].n)).map (fun j => b.elemStat pt r h (mode.val == 1) (off + q.td[src].base + j))
          else (List.range (Nat.min (ceilDiv (i.kindUnits h (i.entry h).statsKind) 16) q.td[dst].n)).map (fun u => b.tileStat pt r h (mode.val == 3) u)) ∧
        let off := match ((b.image pt).offsets ((b.image pt).head q.td[src].tensor)).find? (fun x => x.1 == q.td[src].tensor) with
          | some x => x.2 | none => 0
        let w := ({ b with free := b.free + off + q.td[src].base + q.td[src].n } : Block).putConvs s.bufs[c] c pt q.td[dst] 0
          (vs.map (fun x => toResult (b.viewFmt pt q.td[dst]) (f32Val x)))
        exec (.xstat c p dst src mode []) s = .next ((s.afterInstr c w.1).withBuf c w.2)) ∧
    (∀ (sd : SReg) (td : TdReg) (sb : SReg), q.isOpen sb = false → q.pend sd = false → q.td[td].region ≠ 15 →
      b.waggleWaits c q.td[td] (q.s[sb]).v.toNat = false →
      exec (.score c p sd td sb) s = .next (s.seqAfter c (fun q => { q with
        s := q.s.set sd ⟨if b.waggleHas pt r q.td[td] (q.s[sb]).v.toNat then
          BitVec.ofNat 64 ((r.unitRun (b.image pt) q.td[td].tensor).group.getD (q.s[sb]).v.toNat 0) else 0, false, none⟩, pc := q.pc + 1 }))) ∧
    (∀ (qd : QReg) (td : TdReg) (sb : SReg), q.isOpen sb = false → q.td[td].region ≠ 15 →
      b.waggleWaits c q.td[td] (q.s[sb]).v.toNat = false →
      exec (.bsel c p qd td sb) s = .next (s.seqAfter c (fun q => { q with
        q := if qd = 0 then q.q else q.q.set qd (b.waggleHas pt r q.td[td] (q.s[sb]).v.toNat &&
          ((r.unitRun (b.image pt) q.td[td].tensor).conf.getD []).contains (q.s[sb]).v.toNat)
        qx := if qd = 0 then q.qx else q.qx.set qd none, pc := q.pc + 1 }))) ∧
    (∀ (sd : SReg) (td : TdReg) (sb : SReg) (errs : List MemErr), b.cbqWaits c q sd sb q.td[td] = false →
      (q.td[td].region = 15 → exec (.cbq c p sd td sb errs) s = .next (s.seqAfter c (fun q => { q with pc := q.pc + 1 })))) ∧
    (∀ (sd : SReg) (td : TdReg) (sb : SReg) (errs : List MemErr), b.cbqWaits c q sd sb q.td[td] = false → q.td[td].region ≠ 15 →
      (b.cbqRuns pt r q.td[td] (q.s[sb]).v.toNat = false →
        exec (.cbq c p sd td sb errs) s = .next (s.seqAfter c (fun q => { q with
          s := q.s.set sd ⟨0xFFFFFFFFFFFFFFFF, false, none⟩, pc := q.pc + 1 }))) ∧
      (b.cbqRuns pt r q.td[td] (q.s[sb]).v.toNat = true →
        let i := b.image pt
        let h := i.head q.td[td].tensor
        let a := b.cbSearch pt errs (i.entry h).beam (i.entry h).iters
          [patternOf (((i.below h (r.trun h).w).drop (128 * (q.s[sb]).v.toNat)).take 128)]
        let f := a.2.headD (0, [])
        exec (.cbq c p sd td sb errs) s = .next (s.afterInstr c
          (((a.1.count c (fun x => { x with excluded := x.excluded + BitVec.ofNat 32 f.2.length })).modRun pt
            (fun r => { r with count := { r.count with searches := r.count.searches + 1 } })).modSeq c
            (fun q => { q with s := q.s.set sd ⟨BitVec.ofNat 64 f.1, false, none⟩ }))) ∧
        (∀ qs, b.cbSearch pt [] (i.entry h).beam (i.entry h).iters qs =
          (b, qs.map (foragerSearch ((b.part pt).cbView i.cbE) (i.entry h).beam (i.entry h).iters)))))

/-! ### Brew: launches, results, the fence -/

/-- STEEP and XCHG (R260, R278): each acts on the whole unit that the descriptor's tensor belongs to; a null descriptor, a tensor that is not
idle for STEEP, an exchanged one for XCHG retire with no effect. A failed gradient read originates 0x040D (R319). -/
def Obligations.SteepAndExchange : Prop :=
  ∀ (c : CombId) (p : Pr) (td : TdReg) (g : List HostRead) (errs : List MemErr) (s : State) (pt : PartId) (r : StepRun),
    let b := s.block
    let D := (b.seq c).td[td]
    let h := (b.image pt).head D.tensor
    let b1 := ((((b.modT pt h (fun t => { t with st := .steeped, grads := ((b.image pt).gradients h g).getD [], left := some 0 })).modTMem pt h
      (fun m => { m with opBad := false })).askPages pt
        (((b.modT pt h (fun t => { t with st := .steeped, grads := ((b.image pt).gradients h g).getD [], left := some 0 })).modTMem pt h
          (fun m => { m with opBad := false })).currentPages pt h)).steepErrors pt h errs).steepGo pt h
    b.issues c p = true → b.stepOf c = some (pt, r) → b.ctlWaits c D = false →
    (D.region = 15 ∨ (r.trun h).st ≠ .idle → exec (.steep c p td g errs) s = .next (s.seqAfter c (fun q => { q with pc := q.pc + 1 }))) ∧
    (D.region = 15 ∨ (r.trun h).st = .exchanged → exec (.xchg c p td g errs) s = .next (s.seqAfter c (fun q => { q with pc := q.pc + 1 }))) ∧
    (D.region ≠ 15 → (r.trun h).st = .idle → ((b.image pt).gradients h g).isSome = true →
      exec (.steep c p td g errs) s = .next (s.afterInstr c (b1.modT pt h (fun t => { t with bySteep := true })))) ∧
    (D.region ≠ 15 → (r.trun h).st = .idle → ((b.image pt).gradients h g).isSome = true → errs = [] →
      ∀ r1, b1.run? pt = some r1 → r1.abort = none →
      exec (.xchg c p td g []) s = .next (s.afterInstr c ((b1.modRun pt (fun r => { r.modT h (fun t => { t with st := .exchanged, xissued := true }) with
        launches := r.launches ++ [.tensor h] })).drive pt))) ∧
    (D.region ≠ 15 → (r.trun h).st = .idle → (b.image pt).gradients h g = none →
      exec (.steep c p td g errs) s = .next (s.afterInstr c
        (((b.log 0x040D (.port (b.gradPort pt h)) (some pt) []).originate pt 0x040D r.next).modT pt h (fun t => { t with bySteep := true })))) ∧
    (D.region ≠ 15 → (r.trun h).st = .steeped →
      exec (.xchg c p td g []) s = .next (s.afterInstr c
        ((b.modRun pt (fun r => { r.modT h (fun t => { t with st := .exchanged, xissued := true }) with
          launches := r.launches ++ [.tensor h] })).drive pt)))

/-- BARR, SRED, SOUT and WAKE (R259, R266, R292 to R294): the launch in program order, the scalar result kept for the step's record, the hint. -/
def Obligations.LaunchesAndResults : Prop :=
  ∀ (c : CombId) (p : Pr) (s : State) (pt : PartId) (r : StepRun), s.block.issues c p = true → s.block.stepOf c = some (pt, r) →
    let b := s.block
    let q := b.seq c
    exec (.barr c p) s = .next (s.afterInstr c ((b.modRun pt (fun r => { r with launches := r.launches ++ [.barrier c] })).drive pt)) ∧
    (∀ (sd sa : SReg) (op : RedOp) (n : Fin 8), (sregs sa (n.val + 1) ++ sregs sd (n.val + 1)).any q.pend = false →
      exec (.sred c p sd sa op n) s = .next (s.afterInstr c
        (((b.modSeq c (fun q => q.markPend (sregs sd (n.val + 1)))).modRun pt (fun r => { r with launches := r.launches ++
          [.sred c sd (redCode op) (redWidth op) ((sregs sa (n.val + 1)).map (fun x => q.s[x]))] })).drive pt))) ∧
    (∀ (sa : SReg) (k : Fin 64), q.isOpen sa = false →
      exec (.sout c p sa k) s = .next (s.afterInstr c (b.modRun pt (fun r => { r with scalars := (k.val, (q.s[sa]).v) :: r.scalars })))) ∧
    (∀ mask : BitVec 6, exec (.wake c p mask) s = .next (s.afterInstr c
      ((List.finRange 6).foldl (fun b (d : DimId) => if mask.getLsbD d.val = true ∧ Config.wakeActs s.block.free d.val = true then b.hintGroup d else b)
        { b with free := b.free + 1 })))

/-- FENCE (R261, R275, R45): it waits; it waits too while a page that holds non-finite elements of a steeped tensor has still to be brought in and
cleaned (R99, R340); a ledger that fails halts the chip; else every steeped or exchanged tensor's copies turn, the step's counts and
requests take effect, and the step ends with status 0. -/
def Obligations.StepFence : Prop :=
  ∀ (c : CombId) (s : State) (pt : PartId) (r : StepRun), s.block.mayIssue c = true → s.block.stepOf c = some (pt, r) →
    (s.block.fenceReady r = false → exec (.fence c) s = .next s) ∧
    (∀ b : Block, s.block.fenceReady r = true → s.block.cleanSteeped pt r = (b, false) → exec (.fence c) s = .next (s.onBlock b)) ∧
    (∀ b : Block, s.block.fenceReady r = true → s.block.cleanSteeped pt r = (b, true) → ∀ x xs, b.ledgerFaults = x :: xs →
      exec (.fence c) s = .next (s.onBlock (b.halt x.1 (x :: xs)))) ∧
    (∀ b : Block, s.block.fenceReady r = true → s.block.cleanSteeped pt r = (b, true) → b.ledgerFaults = [] →
      let b1 := (List.range r.runs.length).foldl (fun x h => match (r.trun h).st with
        | .idle => x
        | st => ((b.image pt).unit h).foldl (fun x t => x.fenceTensor pt t (st == .exchanged)) x) b
      let b2 := b1.modComb r.comb (fun x => { x with cnt := { x.cnt with
        selBlocks := x.cnt.selBlocks + BitVec.ofNat 32 r.count.selBlocks, searches := x.cnt.searches + BitVec.ofNat 32 r.count.searches } })
      let b3 := b2.modPart pt (fun x => { x with
        joining := false, lastGroup := r.groupMap
        timeout := { x.timeout with eff := x.timeout.shown, pend := false }, weight := { x.weight with eff := x.weight.shown, pend := false } })
      exec (.fence c) s = .next (s.onBlock ((b3.endStep pt r 0 r.scalarBytes).honourLinks (some pt)))) ∧
    ((∀ t ∈ r.runs, t.dirty = []) → s.block.cleanSteeped pt r = (s.block, true))


/-! ### The management port -/

/-- STATUS, LOGOUT and an invalid opcode (R363 to R366, R371): the status byte with ready 1 and MSP_TS, of which `sent` bytes leave before select
rises; evt clears once the status byte has gone; the time of the session starts afresh. A session ends by LOGOUT or after 250,000,000 KT
without a transaction; a lockout ends at its time. The command byte names the command in bits [7:4], the lanes of the address phase in bits
[3:2] and those of the data phase in bits [1:0]. -/
def Obligations.MspStatusAndSessionEnds : Prop :=
  (∀ (lanes : BitVec 4) (sent : Fin 6) (cmd : Byte) (s : State),
    (s.block.mspOff = false →
      let b := s.block.mspBegin
      exec (.mspStatus lanes sent) s = .next (s.onBlock { b with msp := { b.msp with
        evt := b.msp.evt && sent == 0, lastErr := if sent = 1 ∨ sent = 5 then 0 else 6, lastUse := b.now
        out := (byteOf (b.status true) :: leBytes 4 b.now).take sent.val } }) ∧
      (mspOpOf cmd = none →
        exec (.mspInvalidOpcode cmd) s = .next (s.onBlock { b with msp := { b.msp with lastErr := 6, lastUse := b.now, out := [] } })) ∧
      exec (.mspLogout lanes) s = .next (s.onBlock { b with msp := { b.msp with session := false, lastErr := 0, lastUse := b.now, out := [] } }) ∧
      b.status true / 128 = 1 ∧ b.status true / 64 % 2 = b.msp.session.toNat ∧ b.status true / 16 % 2 = b.msp.evt.toNat ∧
      b.status true / 32 % 2 = (decide (b.now < b.msp.lockUntil)).toNat ∧ b.status true / 8 % 2 = (b.boot.phase == .ready).toNat) ∧
    (s.block.msp.session = true →
      exec .mspSessionIdleExpiry s = .next (s.onBlock { s.block.advanceTo (s.block.msp.lastUse + 250000000) with
        msp := { s.block.msp with session := false } })) ∧
    exec .mspLoginLockoutExpiry s = .next (s.onBlock (s.block.advanceTo s.block.msp.lockUntil)) ∧
    s.block.mspBegin = (if s.block.msp.session = true ∧ s.block.msp.lastUse + 250000000 ≤ s.block.now then
      { s.block with msp := { s.block.msp with session := false } } else s.block)) ∧
  (∀ (b : Block) (t : Nat), b.advanceTo t = { b with
    kettle := { b.kettle with kt := Nat.max b.kettle.kt t }, base := if b.kettle.kt < t then b.counters else b.base }) ∧
  (∀ a d : BitVec 2,
    mspOpOf (0#4 ++ a ++ d) = some .status ∧ mspOpOf (1#4 ++ a ++ d) = some .read ∧ mspOpOf (2#4 ++ a ++ d) = some .write ∧
    mspOpOf (3#4 ++ a ++ d) = some .login ∧ mspOpOf (4#4 ++ a ++ d) = some .logout ∧ (∀ o : BitVec 4, 4 < o.toNat → mspOpOf (o ++ a ++ d) = none) ∧
    ∀ o : BitVec 4, mspLanes (o ++ a ++ d) = (2 ^ a.toNat, 2 ^ d.toNat))

/-- LOGIN (R371): a lockout refuses it uncompared; a match or blank fuses open the session; a mismatch closes it, counts, logs and locks. -/
def Obligations.MspLogin : Prop :=
  ∀ (lanes : BitVec 4) (data : List Byte) (s : State), s.block.mspOff = false →
    let b := s.block.mspBegin
    (b.now < b.msp.lockUntil →
      exec (.mspLogin lanes data) s = .next (s.onBlock { b with msp := { b.msp with lastErr := 5, lastUse := b.now, out := [] } })) ∧
    (b.msp.lockUntil ≤ b.now → data.length ≠ 32 →
      exec (.mspLogin lanes data) s = .next (s.onBlock { b with msp := { b.msp with lastErr := 6, lastUse := b.now, out := [] } })) ∧
    (b.msp.lockUntil ≤ b.now → data.length = 32 → (allZero s.fuses.pwd = true ∨ sha256 data = s.fuses.pwd) →
      exec (.mspLogin lanes data) s = .next (s.onBlock { b with msp := { b.msp with session := true, lastErr := 0, lastUse := b.now, out := [] } })) ∧
    (b.msp.lockUntil ≤ b.now → data.length = 32 → allZero s.fuses.pwd = false → sha256 data ≠ s.fuses.pwd →
      exec (.mspLogin lanes data) s = .next (s.onBlock (let n := b.log 0x0420 .kettle none []
        { n with msp := { n.msp with
          session := false, loginFail := satAdd b.msp.loginFail 1, lockUntil := b.now + 25000, lastErr := 4, lastUse := b.now, out := [] } })))

/-- READ of one register, `pace` KT after the address (R367, R370, R374): its value, or 0 with the fault that Table: Transaction faults gives. Select
that rises in the command or address phase is fault 6, with nothing driven (R366). -/
def Obligations.MspReadOneRegister : Prop :=
  ∀ (lanes : BitVec 4) (addr : BitVec 32) (wait pace : Nat) (s : State), s.block.mspOff = false →
    let b0 := s.block.mspBegin
    let b := b0.advanceTo (b0.now + pace)
    let pre := List.replicate wait (byteOf (b0.status false)) ++ [byteOf (b0.status true)]
    let done (b : Block) (err : BitVec 4) (v : Nat) := Host.Outcome.next (s.onBlock { b with msp := { b.msp with
      lastErr := err, lastUse := b.now, out := pre ++ leBytes 4 v } })
    (∀ n ps, exec (.mspRead lanes addr n wait ps .early) s = .next (s.onBlock { b0 with msp := { b0.msp with
      lastErr := 6, lastUse := b0.now, out := [] } })) ∧
    (addr.toNat % 4 ≠ 0 → exec (.mspRead lanes addr 1 wait [pace] .none) s = done b0 2 0) ∧
    (addr ≠ 0x700020 →
      (addr.toNat % 4 = 0 → b.readReg s.fuses addr.toNat = none → exec (.mspRead lanes addr 1 wait [pace] .none) s = done b 3 0) ∧
      (∀ v, addr.toNat % 4 = 0 → b.readReg s.fuses addr.toNat = some v → b.msp.session = false → openRead addr.toNat = false →
        exec (.mspRead lanes addr 1 wait [pace] .none) s = done b 1 0) ∧
      (∀ v, addr.toNat % 4 = 0 → b.readReg s.fuses addr.toNat = some v → b.msp.session = true ∨ openRead addr.toNat = true →
        exec (.mspRead lanes addr 1 wait [pace] .none) s = done b 0 v))

/-- WRITE of one register and REGISTER_WRITE (R366 to R368, R370): refused without a session, an address fault, or the register's own effect;
select that rises in the command or address phase is fault 6 and writes nothing. -/
def Obligations.RegisterWriteGate : Prop :=
  ∀ (lanes : BitVec 4) (addr v : BitVec 32) (s : State), s.block.mspOff = false →
    let b := s.block.mspBegin
    let fault (err : BitVec 4) := Host.Outcome.next (s.onBlock { b with msp := { b.msp with lastErr := err, lastUse := b.now, out := [] } })
    exec (.mspWrite lanes addr (leBytes 4 v.toNat) false) s = exec (.registerWrite addr v) s ∧
    (∀ bs, exec (.mspWrite lanes addr bs true) s = fault 6) ∧
    (addr.toNat % 4 ≠ 0 → exec (.registerWrite addr v) s = fault 2) ∧
    (addr.toNat % 4 = 0 → b.readReg s.fuses addr.toNat = none → exec (.registerWrite addr v) s = fault 3) ∧
    (∀ x, addr.toNat % 4 = 0 → b.readReg s.fuses addr.toNat = some x → b.msp.session = false → exec (.registerWrite addr v) s = fault 1) ∧
    (∀ x, addr.toNat % 4 = 0 → b.readReg s.fuses addr.toNat = some x → b.msp.session = true →
      let r := b.writeReg s.fuses addr.toNat v.toNat
      exec (.registerWrite addr v) s =
        .next { s with block := finish s.block (r.1.mspEnd r.2.2 []), fuses := r.2.1 })

/-- A fuse burn (R372): it starts with the staged words, is refused where the bank is set or a burn runs, and its end sets the bank's flag. -/
def Obligations.FuseBurns : Prop :=
  ∀ s : State, s.block.managed = true →
    let b := s.block
    let f := s.fuses
    (f.pwdSet = false → f.busy = none →
      exec .fuseBurnPassword s = .next { s.afterWrite b with fuses := { f with busy := some (0x0000A5D1, f.staged 8), burnAt := b.now } }) ∧
    (f.pwdSet = true ∨ f.busy.isSome = true → exec .fuseBurnPassword s = .next (s.onBlock (b.mspEnd 7 []))) ∧
    (f.anchorSet = false → f.busy = none →
      exec .fuseBurnAnchor s = .next { s.afterWrite b with fuses := { f with busy := some (0x0000A5D2, f.staged 12), burnAt := b.now } }) ∧
    (f.anchorSet = true ∨ f.busy.isSome = true → exec .fuseBurnAnchor s = .next (s.onBlock (b.mspEnd 7 []))) ∧
    (∀ bs, f.busy = some (0x0000A5D1, bs) → exec .fuseBurnComplete s = .next { s with fuses := { f with
      busy := none, data := Vector.replicate 12 0, pwd := burnOver f.pwd bs, pwdSet := true } }) ∧
    (∀ bs, f.busy = some (0x0000A5D2, bs) → exec .fuseBurnComplete s = .next { s with fuses := { f with
      busy := none, data := Vector.replicate 12 0, anchor := burnOver f.anchor bs, anchorSet := true } })

/-- The three remap records through the port (R190, R373): without a session refused; with one, a record that is next in turn is applied and
flooded, one already applied is dropped, one that breaks its checks raises 0x0134. -/
def Obligations.RemapRecords : Prop :=
  ∀ (kind : Nat) (bs : List Byte) (s : State), s.block.mspOff = false → bs.length = 16 → field bs 4 1 = kind → kind ∈ [1, 2, 3] →
    let i := if kind = 1 then Instr.remapAssume (.msp bs) else if kind = 2 then Instr.remapRelease (.msp bs) else Instr.remapExclude (.msp bs)
    let b := s.block.mspBegin
    (b.msp.session = false → exec i s = .next (s.onBlock (b.mspEnd 1 []))) ∧
    (b.msp.session = true → b.boot.phase ≠ .ready → exec i s = .next (s.onBlock (b.mspEnd 0 []))) ∧
    (b.msp.session = true → b.boot.phase = .ready → RemapRec.parse bs = none →
      exec i s = .next (s.onBlock ((b.log 0x0134 .kettle none []).mspEnd 0 []))) ∧
    (∀ r, b.msp.session = true → b.boot.phase = .ready → RemapRec.parse bs = some r → r.gen ≤ b.remap.gen →
      exec i s = .next (s.onBlock (b.mspEnd 0 []))) ∧
    (∀ r t, b.msp.session = true → b.boot.phase = .ready → RemapRec.parse bs = some r → r.gen = b.remap.gen + 1 →
      b.remap.applied b.boot.machine r = some t →
      ((b.remapped t r).floodRecord r).remap.held = [] →
      exec i s = .next (s.onBlock ((((((b.remapped t r).floodRecord r).judgeGen).releaseHeld.raiseRequests).scanReady).mspEnd 0 []))) ∧
    (∀ r, b.msp.session = true → b.boot.phase = .ready → RemapRec.parse bs = some r → r.gen = b.remap.gen + 1 →
      b.remap.applied b.boot.machine r = none →
      exec i s = .next (s.onBlock (((((b.log 0x0134 .kettle none []).judgeGen).releaseHeld.raiseRequests).scanReady).mspEnd 0 []))) ∧
    (∀ r, b.msp.session = true → b.boot.phase = .ready → RemapRec.parse bs = some r → b.remap.gen + 1 < r.gen →
      (∀ q ∈ b.remap.held, q.gen ≠ r.gen) → b.remap.held.length < 16 →
      exec i s = .next (s.onBlock (({ b with remap := { b.remap with held := b.remap.held ++ [r] } }).mspEnd 0 [])))

/-- CMB_RELEASE_REQUEST, CMB_RETURN_REQUEST and the withdrawal (R331, R334, R377, R419): the request is recorded, and honoured at the next KT, a
release of a running comb at the end of its step; a comb that is where the request puts it does not change. -/
def Obligations.CombServiceRequests : Prop :=
  (∀ (c : CombId) (s : State), s.block.awake = true →
    let b := s.block
    let x := b.comb c
    exec (.cmbReleaseRequest c) s = .next (s.afterWrite (b.setComb c { x with ctrl := { x.ctrl with shown := 1, pend := true } })) ∧
    exec (.cmbReturnRequest c) s = .next (s.afterWrite (b.setComb c { x with ctrl := { x.ctrl with shown := 2, pend := true } })) ∧
    exec (.ctrlRequestWithdraw (.comb c)) s = .next (s.afterWrite (b.setComb c { x with ctrl := { x.ctrl with shown := 0, pend := false } }))) ∧
  (∀ (c : CombId) (b : Block),
    let x := b.comb c
    let n := b.setComb c { x with ctrl := { x.ctrl with eff := x.ctrl.shown, pend := false } }
    (x.ctrl.pend = false → b.honourComb c = b) ∧
    (x.ctrl.pend = true → x.ctrl.shown = 1 → x.svc = .running → b.honourComb c = b) ∧
    (x.ctrl.pend = true → x.ctrl.shown = 1 → x.svc = .idle → b.honourComb c = (n.releaseIdle c).scanReady) ∧
    (x.ctrl.pend = true → x.ctrl.shown = 1 → x.svc = .released ∨ x.svc = .failed → b.honourComb c = n) ∧
    (x.ctrl.pend = true → x.ctrl.shown = 2 → x.svc = .released ∨ x.svc = .failed → x.waking = false → b.serving = true →
      b.honourComb c = b.setComb c { x with
        ctrl := { x.ctrl with eff := x.ctrl.shown, pend := false }, waking := true, due := b.now + 10000 }) ∧
    (x.ctrl.pend = true → x.ctrl.shown = 2 → ¬((x.svc = .released ∨ x.svc = .failed) ∧ x.waking = false ∧ b.serving = true) →
      b.honourComb c = n)) ∧
  (∀ (c : CombId) (t : State), (t.fire (.combCtrl c)).block = t.block.honourComb c)

/-- LNK_TAKE_OUT_REQUEST, LNK_BRING_BACK_REQUEST and the withdrawal (R377, R429): recorded with the active partitions whose fences they wait for;
honoured at a KT or a fence once each of those has had its fence, or no step of such a partition is in progress. -/
def Obligations.LinkServiceRequests : Prop :=
  (∀ (l : LinkId) (s : State), s.block.awake = true →
    let b := s.block
    let x := b.link l
    let asked (k : Nat) := b.setLink l { x with ctrl := { x.ctrl with shown := k, pend := true }, tr := { x.tr with ctrlWait := b.linkParts l } }
    exec (.lnkTakeOutRequest l) s = .next (s.afterWrite (asked 1)) ∧
    exec (.lnkBringBackRequest l) s = .next (s.afterWrite (asked 2)) ∧
    exec (.ctrlRequestWithdraw (.link l)) s = .next (s.afterWrite
      (b.setLink l { x with ctrl := { x.ctrl with shown := 0, pend := false }, tr := { x.tr with ctrlWait := [] } })) ∧
    (∀ p : PartId, p.val ∈ b.linkParts l ↔ b.active p = true ∧ 1 < extent (b.part p).vset (linkDim l))) ∧
  (∀ (l : LinkId) (fenced : Option PartId) (b : Block),
    let x := b.link l
    let wait := match fenced with | some p => x.tr.ctrlWait.filter (· != p.val) | none => x.tr.ctrlWait
    let n := b.setLink l { x with ctrl := { x.ctrl with pend := false, eff := x.ctrl.shown }, tr := { x.tr with ctrlWait := [] } }
    (x.ctrl.pend = false → Block.honourLink fenced b l = b) ∧
    (x.ctrl.pend = true → wait ≠ [] → b.linkSteps l ≠ [] →
      Block.honourLink fenced b l = b.setLink l { x with tr := { x.tr with ctrlWait := wait } }) ∧
    (x.ctrl.pend = true → wait = [] ∨ b.linkSteps l = [] →
      (x.ctrl.shown = 1 → Block.honourLink fenced b l = n.takeOut l) ∧
      (x.ctrl.shown = 2 → Block.honourLink fenced b l = n.bringBack l))) ∧
  (∀ (l : LinkId) (t : State), (t.fire (.linkCtrl l)).block = Block.honourLink none t.block l)

/-- Registers that hold a value (R247, R341, R345, R405, R410, R411, R428, R430): the value in range takes effect, or waits for the fence; one out
of range is ignored. HBM_SCRUB_HOURS and NVM_CTRL take effect in the KT after the write (R424, R432), and a pass of the scrubber that is then older than the
new pass time ends at once (R405). -/
def Obligations.ValueRegisterWrites : Prop :=
  ∀ (v : BitVec 32) (s : State),
    let b := s.block
    (b.awake = true →
      (∀ p : PartId, b.defined p = true → v.toNat % 256 ≠ 0 →
        exec (.prtLinkWeightWrite p v) s = .next (s.afterWrite (b.modPart p (fun x => { x with
          weight := { x.weight with shown := v.toNat % 256, pend := true } })))) ∧
      (∀ p : PartId, b.defined p = false ∨ v.toNat % 256 = 0 → exec (.prtLinkWeightWrite p v) s = .next (s.afterWrite b)) ∧
      (∀ p : PartId, b.defined p = true → 1250 ≤ v.toNat % 2 ^ 28 → v.toNat % 2 ^ 28 ≤ 250000000 →
        exec (.prtCollTimeoutWrite p v) s = .next (s.afterWrite (b.modPart p (fun x => { x with
          timeout := { x.timeout with shown := v.toNat % 2 ^ 28, pend := true } })))) ∧
      (∀ p : PartId, b.defined p = false ∨ v.toNat % 2 ^ 28 < 1250 ∨ 250000000 < v.toNat % 2 ^ 28 →
        exec (.prtCollTimeoutWrite p v) s = .next (s.afterWrite b)) ∧
      (∀ l : LinkId, exec (.lnkRelayWeightWrite l v) s = .next (s.afterWrite
        (if v.toNat % 256 = 0 then b else b.modLink l (fun x => { x with relayWeight := v.toNat % 256 })))) ∧
      (v.toNat % 256 < 4 ∨ 168 < v.toNat % 256 → exec (.hbmScrubHoursWrite v) s = .next (s.afterWrite b)) ∧
      (4 ≤ v.toNat % 256 → v.toNat % 256 ≤ 168 → exec (.hbmScrubHoursWrite v) s = .next (s.afterWrite { b with hbm := { b.hbm with
        scrubHours := v.toNat % 256, scrubNew := true } }))) ∧
    (let old := b.hbm.scrubOn = true ∧ b.hbm.passStart + b.hbm.scrubHours * 90000000000 ≤ b.now
     (s.isDue .scrub = b.hbm.scrubNew ∧ Due.scrub ∈ s.dues) ∧
     (¬old → (s.fire .scrub).block = { b with hbm := { b.hbm with scrubNew := false } }) ∧
     (old → (s.fire .scrub).block = { b with hbm := { b.hbm with
        scrubNew := false, next := 0, passes := b.hbm.passes + 1, passStart := b.now } })) ∧
    (b.managed = true →
      exec (.evlAckWrite v) s = .next (s.afterWrite { b with evl := { b.evl with ack := v } }) ∧
      exec (.evlSelWrite v) s = .next (s.afterWrite { b with evl := { b.evl with sel := v, miss := false, copy := none } }) ∧
      exec (.nvmCtrlWrite v) s = .next (s.afterWrite { b with nvm := { b.nvm with
        refetchEn := v.getLsbD 0, refetchWas := if b.nvm.refetchAt = b.now then b.nvm.refetchWas else b.nvm.refetchEn, refetchAt := b.now } }) ∧
      (∀ kt : Nat, (kt ≤ b.nvm.refetchAt → b.nvm.mayFetch kt = b.nvm.refetchWas) ∧ (b.nvm.refetchAt < kt → b.nvm.mayFetch kt = b.nvm.refetchEn)))

/-- PWR_COMB_CFG, PWR_LNK_CFG and PWR_RST_REQ writes (R394, R419, R436): a request is recorded and takes effect at the next KT; a floor of 0 is
ignored; a floor above the state of an idle unit wakes it to the floor; 0x5EED resets the non-Kettle domains with cause 4, unless a
reset source has acted in the same KT. -/
def Obligations.PowerRegisterWrites : Prop :=
  (∀ (v : BitVec 32) (s : State), s.block.awake = true →
    let b := s.block
    (∀ (c : CombId) (f : PwrField), exec (.pwrCombCfgWrite c f v) s = .next (s.afterWrite
      { b with pwr := { b.pwr with combCfg := b.pwr.combCfg.set c ((b.pwr.combCfg[c]).write f v.toNat) } })) ∧
    (∀ (d : DimId) (f : PwrField), exec (.pwrLnkCfgWrite d f v) s = .next (s.afterWrite
      { b with pwr := { b.pwr with lnkCfg := b.pwr.lnkCfg.set d ((b.pwr.lnkCfg[d]).write f v.toNat) } })) ∧
    (∀ k : PwrCfg,
      k.write .floor v.toNat = (if v.toNat % 4 = 0 then k else { k with floor := { k.floor with shown := v.toNat % 4, pend := true } }) ∧
      k.write .warm v.toNat = { k with warm := { k.warm with shown := v.toNat % 2 ^ 31, pend := true } } ∧
      k.write .cold v.toNat = { k with cold := { k.cold with shown := v.toNat % 2 ^ 31, pend := true } }) ∧
    (v ≠ 0x5EED → exec (.pwrRstReq v) s = .next (s.afterWrite b)) ∧
    (v = 0x5EED → (∀ t k, b.kettle.rstAt = some (t, k) → t = b.now → 4 < k) →
      exec (.pwrRstReq v) s = .next (s.afterWrite (b.nonKettleReset 4 4))) ∧
    (∀ k, v = 0x5EED → b.kettle.rstAt = some (b.now, k) → k ≤ 4 → exec (.pwrRstReq v) s = .next (s.afterWrite b))) ∧
  (∀ u : PwrCfg, u.honoured = ⟨{ u.floor with eff := u.floor.shown, pend := false }, { u.warm with eff := u.warm.shown, pend := false },
    { u.cold with eff := u.cold.shown, pend := false }⟩) ∧
  (∀ (b : Block) (c : CombId),
    let k := (b.pwr.combCfg[c]).honoured
    b.honourPwrComb c = ({ b with pwr := { b.pwr with combCfg := b.pwr.combCfg.set c k } }).modComb c (fun x =>
      if x.svc = Svc.idle ∧ k.floor.eff < x.pwr.code then { x with pwr := Pwr.ofCode k.floor.eff } else x)) ∧
  (∀ (b : Block) (d : DimId),
    let k := (b.pwr.lnkCfg[d]).honoured
    let n : Block := { b with pwr := { b.pwr with lnkCfg := b.pwr.lnkCfg.set d k } }
    b.honourPwrLnk d = if b.serving = true then
        (groupLinks d).foldl (fun n l => n.modLink l (fun y =>
          if y.parked = true ∧ (Pwr.ofCode k.floor.eff).code < y.pwr.code then { y with pwr := Pwr.ofCode k.floor.eff } else y))
          (n.raiseGroup d (Pwr.ofCode k.floor.eff))
      else n) ∧
  (∀ (t : State) (c : CombId) (d : DimId), (t.fire (.combCfg c)).block = t.block.honourPwrComb c ∧
    (t.fire (.linkCfg d)).block = t.block.honourPwrLnk d)

/-- The event log (R407, R409 to R411, R434): an entry takes its place among those of its KT by the order of R410, and sets evt; a READ of EVL_DATA0
takes a copy of the selected entry, or sets miss where it is not present; a correctable error of the entry's word is logged. -/
def Obligations.EventLog : Prop :=
  (∀ (b : Block) (code : Nat) (u : EvUnit) (p : Option PartId) (ds : List Nat),
    (b.log code u p ds).evl.head = b.evl.head + 1 ∧ (b.log code u p ds).msp.evt = true ∧
    (b.log code u p ds).evl.entries.length ≤ 2048 ∧
    (b.log code u p ds).evl.entries = insertEvent ⟨b.now, BitVec.ofNat 16 code, byteOf u.code, byteOf u.index, partField p, detailWords ds, false⟩
      (b.evl.entries.take 2047) ∧
    (b.evl.entries.length < 2048 → (b.log code u p ds).evl.lost = b.evl.lost)) ∧
  (∀ (x y : Event) (ys : List Event),
    (insertEvent x ys).Perm (x :: ys) ∧
    insertEvent x (y :: ys) =
      (if y.kt = x.kt ∧ 256 * x.unit.toNat + x.index.toNat < 256 * y.unit.toNat + y.index.toNat then y :: insertEvent x ys else x :: y :: ys)) ∧
  (∀ (err : Option Bool) (s : State), s.block.managed = true →
    let b := s.block
    let pre := byteOf (b.status true)
    (∀ bs, b.evl.entry b.evl.sel = some bs →
      let n : Block := { b with evl := { b.evl with copy := some bs } }
      exec (.evlDataRead none) s = .next (s.onBlock (n.mspEnd 0 (pre :: leBytes 4 (field bs 0 4)))) ∧
      exec (.evlDataRead (some false)) s = .next (s.onBlock ((n.log 0x0331 .kettle none []).mspEnd 0 (pre :: leBytes 4 (field bs 0 4))))) ∧
    (b.evl.entry b.evl.sel = none →
      exec (.evlDataRead err) s = .next (s.onBlock (({ b with evl := { b.evl with copy := some (zeros 32), miss := true } }).mspEnd 0
        (pre :: leBytes 4 0)))))

/-! ### Host ports -/

/-- HELLO (R298, R302, R303, R306, R357): VF BAR0 and PF BAR0 show the partition, whether it is defined, the chip and the port; the CHALLENGE written to the reply buffer carries the first status that applies; with status 0 the lowest free
context holds the pending handshake. -/
def Obligations.HelloAnswersWithChallenge : Prop :=
  ∀ (h : PortId) (vf : VfId) (m : List Byte) (s : State),
    let b := s.block
    let n := b.draw
    let ns := (List.range 16).map (Config.nonceByte n.1)
    let answer (st id : Nat) := n.2.hostWrite h vf (field m 0x18 8) (challenge st (slice m 8 16) ns id) false
    let refused (st : Nat) := exec (.hello h vf m) s = .next (s.onBlock (answer st 0xFFFF))
    (b.vfBar0 vf 0x43000 = vf.val + 256 * (b.boot.phase == .ready && (b.part vf).img.isSome).toNat ∧
      b.pfBar0 s.fuses h 0x3000 = 0x0642B001 ∧ b.readReg s.fuses (0x500000 + 4 * h.val) = some (b.pfBar0 s.fuses h 0x3004) ∧
      ∀ o, o < 0x40000 → b.vfBar0 vf o = 0) ∧
    (b.vfLive h vf = false ∨ m.length ≠ 64 ∨ field m 5 1 ≠ 1 → exec (.hello h vf m) s = .next (s.onBlock b)) ∧
    (b.vfLive h vf = true → m.length = 64 → field m 5 1 = 1 →
      ((b.port h).locked vf b.now = true → refused 0x0406) ∧
      ((b.port h).locked vf b.now = false → b.boot.phase ≠ .ready → refused 0x0402) ∧
      ((b.port h).locked vf b.now = false → b.boot.phase = .ready → helloOk m = false → refused 0x0401) ∧
      ((b.port h).locked vf b.now = false → b.boot.phase = .ready → helloOk m = true → b.defined vf = false → refused 0x0402) ∧
      ((b.port h).locked vf b.now = false → b.boot.phase = .ready → helloOk m = true → b.defined vf = true → b.host.sessFree = 0 →
        refused 0x0403) ∧
      ((b.port h).locked vf b.now = false → b.boot.phase = .ready → helloOk m = true → b.defined vf = true → b.host.sessFree ≠ 0 →
        let id := lowestFree (b.host.ctxs.map Ctx.id) 4096 0
        exec (.hello h vf m) s = .next (s.onBlock ((answer 0 id).modHost (fun x => { x with
          ctxs := x.ctxs ++ [Ctx.ofHello id h vf m ns b.now], sessFree := x.sessFree - 1 })))))

/-- PROVE (R301, R304 to R306): the right mac opens the session and is answered with its token; a wrong one is answered with 0x0404, frees the context
and locks the VF out for 25,000 KT; a message that names no handshake pending for less than 10 ms, or breaks its own fields, is counted. A handshake's time and a lockout
end; an ignored open-doorbell write is counted. -/
def Obligations.ProveOpensOrLocksOut : Prop :=
  ∀ (h : PortId) (vf : VfId) (m : List Byte) (s : State),
    let b := s.block
    let key := (b.image vf).key
    (b.vfLive h vf = false ∨ m.length ≠ 64 ∨ field m 5 1 ≠ 3 → exec (.prove h vf m) s = .next (s.onBlock b)) ∧
    (b.vfLive h vf = true → m.length = 64 → field m 5 1 = 3 →
      (b.host.ctxs.find? (fun c => proveFits c h vf m b.now) = none → exec (.prove h vf m) s = .next (s.onBlock b.badHs)) ∧
      (∀ c, b.host.ctxs.find? (fun c => proveFits c h vf m b.now) = some c →
        (field m 0 4 ≠ 0x564F5250 ∨ field m 4 1 ≠ 1 ∨ allZero (slice m 0x38 8) = false →
          exec (.prove h vf m) s = .next (s.onBlock b.badHs)) ∧
        (field m 0 4 = 0x564F5250 → field m 4 1 = 1 → allZero (slice m 0x38 8) = true → slice m 0x18 32 = c.mac key →
          exec (.prove h vf m) s = .next (s.onBlock ((b.hostWrite h vf (c.reply + 0x40) (c.accept key true) false).modCtx c.id
            (fun x => { x with isOpen := true, token := BitVec.ofNat 32 (c.newToken key) })))) ∧
        (field m 0 4 = 0x564F5250 → field m 4 1 = 1 → allZero (slice m 0x38 8) = true → slice m 0x18 32 ≠ c.mac key →
          exec (.prove h vf m) s = .next (s.onBlock (((b.hostWrite h vf (c.reply + 0x40) (c.accept key false) false).freeCtx c.id).modPort h
            (fun x => { x with lockouts := (vf, b.now + 25000) :: x.lockouts.filter (fun q => q.1 != vf) })))))) ∧
    (b.vfLive h vf = true →
      exec (.openDoorbellIgnored h vf .width) s = .next (s.onBlock b.badHs) ∧
      exec (.openDoorbellIgnored h vf .msgByte) s = .next (s.onBlock b.badHs) ∧
      exec (.openDoorbellIgnored h vf .readFailed) s = .next (s.onBlock (b.badHs.log 0x040D (.port h) none []))) ∧
    (∀ c : Ctx, proveFits c h vf m b.now = true → b.now < c.since + 250000) ∧
    (∀ c : Ctx, b.ctx? c.id = some c → c.isOpen = false →
      exec (.handshakeExpiry c.id) s = .next (s.onBlock ((b.advanceTo (c.since + 250000)).freeCtx c.id))) ∧
    (∀ u, (b.port h).lockouts.find? (fun q => q.1 == vf) = some (vf, u) →
      exec (.openLockoutExpiry h vf) s = .next (s.onBlock ((b.advanceTo u).modPort h
        (fun x => { x with lockouts := x.lockouts.filter (fun y => y.1 != vf) }))))

/-- A doorbell (R309): within a live VF, it sets both indices of its context, unless the width, the context, the token or an index is wrong; it is
then counted and changes nothing else. -/
def Obligations.DoorbellMovesTheIndices : Prop :=
  ∀ (h : PortId) (vf : VfId) (id width : Nat) (tok : BitVec 32) (cq sq : BitVec 16) (s : State), s.block.vfLive h vf = true →
    let b := s.block
    let v := tok ++ cq ++ sq
    let ahead (x y : Nat) := (x + 65536 - y) % 65536
    let bad := exec (.doorbell h vf id width v) s = .next (s.onBlock (b.modHost (fun x => { x with dbBad := wrapAdd x.dbBad 1 })))
    (b.ctx? id = none → bad) ∧
    (∀ c, b.ctx? id = some c →
      let wrong := width ≠ 8 ∨ c.isOpen = false ∨ c.port ≠ h ∨ c.vf ≠ vf ∨ c.token ≠ tok ∨ 2 ^ c.sqLog < ahead sq.toNat c.sqHead ∨
        ahead sq.toNat c.sqHead < ahead c.sqTail c.sqHead ∨ ahead c.cqTail c.cqHead < ahead cq.toNat c.cqHead
      (wrong → bad) ∧
      (¬wrong → exec (.doorbell h vf id width v) s =
        .next (s.onBlock (b.modCtx id (fun c => { c with cqHead := cq.toNat, sqTail := sq.toNat })).scanReady)))

/-- Reading a descriptor (R308 to R311, R319), whichever the command: a failed read, a req out of turn and a descriptor that breaks R308 each end
with their record; the last two take the ring entry too. -/
def Obligations.DescriptorReading : Prop :=
  ∀ (id ty : Nat) (i : DescRead → Instr) (s : State),
    ((ty, i) ∈ [(1, Instr.claim id), (2, .release id), (3, .post id), (6, .spillAdd id)] ∨ (ty = 4 ∧ ∃ f, i = fun d => .parcel id d f) ∨
      (ty = 5 ∧ ∃ f, i = fun d => .cbload id d f) ∨ (ty = 7 ∧ ∃ f e, i = fun d => .spillRemove id d f e)) →
    let b := s.block
    ∀ c, b.ctx? id = some c →
      (b.canTake c = false → ∀ d, exec (i d) s = .next (s.onBlock b)) ∧
      (b.canTake c = true →
        exec (i .failed) s = .next (s.onBlock (((b.consume id false).postRec id (Rec.desc 0x040D 0 false)).tryClose id).scanReady) ∧
        (∀ d, d.length = 64 → (dType d = ty ∨ dType d = 0 ∨ 8 < dType d) → dReq d ≠ c.expReq →
          exec (i (.ok d)) s = .next (s.onBlock (((b.consume id false).postRec id (Rec.desc 0x040A (dReq d) (dIrq d))).tryClose id).scanReady)) ∧
        (∀ d, d.length = 64 → dReq d = c.expReq → (dType d = 0 ∨ 8 < dType d ∨ (dType d = ty ∧ dUnusedZero d = false)) →
          exec (i (.ok d)) s = .next (s.onBlock (b.ended id d 0x0409 0xFFFFFFFF))))

/-- CLAIM, RELEASE, POST and CLOSE (R312 to R314, R317): their checks in order, and what each does to the slots and the session. -/
def Obligations.SlotDescriptors : Prop :=
  ∀ (id : Nat) (c : Ctx) (d : List Byte) (s : State),
    let b := s.block
    let p : PartId := c.vf
    let err (code : Nat) := Host.Outcome.next (s.onBlock (b.ended id d code 0xFFFFFFFF))
    let ok (b : Block) := Host.Outcome.next (s.onBlock (b.ended id d 0 0xFFFFFFFF))
    (b.reads id 1 c d →
      let e := (b.image p).entry (dTensor d)
      ((b.image p).tensors.length ≤ dTensor d ∨ e.hasRole (dRole d) = false → exec (.claim id (.ok d)) s = err 0x0409) ∧
      (dTensor d < (b.image p).tensors.length → e.hasRole (dRole d) = true →
        (dRole d < 2 → (b.part p).run.isSome = true → exec (.claim id (.ok d)) s = .next (s.onBlock b)) ∧
        ((2 ≤ dRole d ∨ (b.part p).run = none) →
          ((b.slotOf p (dTensor d) (dRole d)).isSome = true → exec (.claim id (.ok d)) s = err 0x0406) ∧
          (b.slotOf p (dTensor d) (dRole d) = none → e.spanOk (dRole d) (dAddr d) (dLen d) = false → exec (.claim id (.ok d)) s = err 0x0409) ∧
          (b.slotOf p (dTensor d) (dRole d) = none → e.spanOk (dRole d) (dAddr d) (dLen d) = true → b.host.slotsFree = 0 →
            exec (.claim id (.ok d)) s = err 0x0408) ∧
          (b.slotOf p (dTensor d) (dRole d) = none → e.spanOk (dRole d) (dAddr d) (dLen d) = true → b.host.slotsFree ≠ 0 →
            let n := lowestFree (b.host.slots.map SlotRec.id) 65536 0
            exec (.claim id (.ok d)) s = .next (s.onBlock ((b.modHost (fun x => { x with
              slots := x.slots ++ [{ id := n, ctx := c.id, part := p, tensor := dTensor d, role := dRole d, addr := dAddr d, len := dLen d,
                                     cur := dAddr d, armed := none, inUse := none }],
              slotsFree := x.slotsFree - 1 })).raiseRequests.ended id d 0 n)))))) ∧
    (b.reads id 2 c d →
      (b.ownSlot c d = none → exec (.release id (.ok d)) s = err 0x0407) ∧
      (∀ x, b.ownSlot c d = some x →
        (x.inUse.isSome = true → exec (.release id (.ok d)) s = .next (s.onBlock b)) ∧
        (x.inUse = none → exec (.release id (.ok d)) s = ok (b.modHost (fun y => { y with
          slots := y.slots.filter (fun z => z.id != x.id), slotsFree := y.slotsFree + 1 }))))) ∧
    (b.reads id 3 c d →
      (b.ownSlot c d = none → exec (.post id (.ok d)) s = err 0x0407) ∧
      (∀ x, b.ownSlot c d = some x →
        let addr := if dAddr d = 0 then x.addr else dAddr d
        let len := if dAddr d = 0 then x.len else dLen d
        let armed (f : SlotRec → SlotRec) := ok (b.modSlot x.id f)
        let fits := dAddr d = 0 ∨ ((b.image p).entry x.tensor).spanOk x.role (dAddr d) (dLen d) = true
        (¬fits → exec (.post id (.ok d)) s = err 0x0409) ∧
        (fits → x.role = 0 → x.armed.isSome = true → exec (.post id (.ok d)) s = err 0x040C) ∧
        (fits → x.role = 0 → x.armed = none → exec (.post id (.ok d)) s = armed (fun y => { y with armed := some addr })) ∧
        (fits → x.role = 1 → x.inUse.isSome = true → exec (.post id (.ok d)) s = .next (s.onBlock b)) ∧
        (fits → x.role = 1 → x.inUse = none → exec (.post id (.ok d)) s = armed (fun y => { y with armed := some addr })) ∧
        (fits → 1 < x.role → exec (.post id (.ok d)) s = armed (fun y => { y with armed := some addr, cur := len })))) ∧
    (b.reads id 8 c d →
      exec (.close id (.ok d)) s = .next (s.onBlock (((b.modCtx c.id (fun c => { c with closing := some (0, some d) })).consume id true).tryClose id)))

/-- CBLOAD and the end of hashing, SPILL_ADD and SPILL_REMOVE (R139 to R141, R321, R322, R324). When the share cannot hold
the records is the model's choice of log entry 28; that an entry which the hash cannot read matches no digest that of log entry 78. -/
def Obligations.LoadAndSpillDescriptors : Prop :=
  ∀ (id : Nat) (c : Ctx) (d : List Byte) (bs : List Byte) (recs : List HostRead) (errs : List MemErr) (q : PartId) (s : State),
    let b := s.block
    let p : PartId := c.vf
    let cb := (b.part p).cb
    let err (code : Nat) := Host.Outcome.next (s.onBlock (b.ended id d code 0xFFFFFFFF))
    let ok (b : Block) := Host.Outcome.next (s.onBlock (b.ended id d 0 0xFFFFFFFF))
    (b.reads id 5 c d →
      let fits := dLen d % 16 = 0 ∧ dArg0 d % 16 = 0 ∧ dArg0 d + dLen d ≤ 80 * (b.image p).cbE ∧ (b.image p).cbE ≠ 0 ∧ dArg1 d < 4
      let mine := ¬(cb.busy = true ∧ cb.owner ≠ some c.id)
      let inTurn := dArg1 d % 2 = 1 ∨ (cb.st = .loading ∧ cb.owner = some c.id)
      let x := if dArg1 d % 2 = 1 then Codebook.begin c.id else cb
      let y := { x with twice := x.twice || x.overlaps (dArg0 d) (dLen d), written := x.written + dLen d
                        mem := Mem.store none x.mem (dArg0 d) (padTo (dLen d) bs) }
      (¬fits → exec (.cbload id (.ok d) (.ok bs)) s = err 0x0409) ∧
      (fits → (b.part p).run.isSome = true → exec (.cbload id (.ok d) (.ok bs)) s = .next (s.onBlock b)) ∧
      (fits → (b.part p).run = none → ¬mine → exec (.cbload id (.ok d) (.ok bs)) s = err 0x040E) ∧
      (fits → (b.part p).run = none → mine → ¬inTurn → exec (.cbload id (.ok d) (.ok bs)) s = err 0x0409) ∧
      (fits → (b.part p).run = none → mine → inTurn → exec (.cbload id (.ok d) .failed) s = err 0x040D) ∧
      (fits → (b.part p).run = none → mine → inTurn → dArg1 d / 2 = 0 →
        exec (.cbload id (.ok d) (.ok bs)) s = ok (b.modPart p (fun z => { z with cb := y }))) ∧
      (fits → (b.part p).run = none → mine → inTurn → dArg1 d / 2 = 1 →
        exec (.cbload id (.ok d) (.ok bs)) s = .next (s.onBlock (((b.modPart p (fun z => { z with
          cb := { y with st := .hashing, last := some (c.id, d) } })).modCtx c.id (fun c => { c with reserved := c.reserved + 1 })).consume id true)))) ∧
    ((b.part q).cb.st = .hashing →
      let k := (b.part q).cb
      let n := 80 * (b.image q).cbE
      let e := b.demand errs (fun x => match x.1 with | .cbk p' => p' == q | _ => false)
      let ends (st : Nat) : Block := e.1.modPart q (fun y => { y with
        cb := { k with st := if st = 0 then .accepted else .rejected, owner := none, last := none } })
      let told (b : Block) (st : Nat) : Block := match k.last with
        | some (id, d) => (b.modCtx id (fun c => { c with reserved := c.reserved - 1 })).complete id d st 0xFFFFFFFF
        | none => b.scanReady
      (k.written ≠ n ∨ k.twice = true →
        exec (.codebookHashComplete q errs) s = .next (s.onBlock (told ((ends 0x0581).logPart 0x0581 q []) 0x0581))) ∧
      (k.written = n → k.twice = false → e.2 ≠ [] ∨ sha384 (Mem.bytes none k.mem 0 n) ≠ (b.image q).cbDigest →
        exec (.codebookHashComplete q errs) s = .next (s.onBlock (told ((ends 0x0580).logPart 0x0580 q []) 0x0580))) ∧
      (k.written = n → k.twice = false → e.2 = [] → sha384 (Mem.bytes none k.mem 0 n) = (b.image q).cbDigest →
        exec (.codebookHashComplete q errs) s = .next (s.onBlock (told (ends 0) 0)))) ∧
    (b.reads id 6 c d →
      let fits := dAddr d % 64 = 0 ∧ dLen d ≠ 0 ∧ dLen d % 16448 = 0
      (¬fits → exec (.spillAdd id (.ok d)) s = err 0x0409) ∧
      (fits → (b.part p).spill.isSome = true → exec (.spillAdd id (.ok d)) s = err 0x040E) ∧
      (fits → (b.part p).spill = none →
        let y : Spill := { addr := dAddr d, recs := dLen d / 16448, port := c.port, vf := c.vf, broken := false, kept := [], writing := none }
        exec (.spillAdd id (.ok d)) s = ok (b.modPart p (fun x => { x with spill := some y })))) ∧
    (b.reads id 7 c d →
      ((b.part p).spill = none → exec (.spillRemove id (.ok d) recs errs) s = ok b) ∧
      (∀ y, (b.part p).spill = some y →
        ((b.part p).run.isSome = true ∨ y.writing.isSome = true → exec (.spillRemove id (.ok d) recs errs) s = .next (s.onBlock b)) ∧
        ((b.part p).run = none → y.writing = none → (b.image p).share < (b.image p).demand →
          exec (.spillRemove id (.ok d) recs errs) s = err 0x040F) ∧
        ((b.part p).run = none → y.writing = none → (b.image p).demand ≤ (b.image p).share →
          exec (.spillRemove id (.ok d) recs errs) s =
            ok ((Block.pageAllIn p errs recs (b.part p).pages.length b).modPart p (fun x => { x with spill := none })))))

/-- Parcels (R187, R210, R320): PARCEL at its source, a piece at its destination or on its way, and the end of a move without a route. -/
def Obligations.Parcels : Prop :=
  ∀ (s : State),
    let b := s.block
    (∀ (id : Nat) (c : Ctx) (d bs : List Byte), b.reads id 4 c d →
      let p : PartId := c.vf
      let u : EvUnit := .comb (b.part p).lastComb
      let err (b : Block) (code : Nat) := Host.Outcome.next (s.onBlock (b.ended id d code 0xFFFFFFFF))
      let dst := coordOf (dArg0 d % 2 ^ 18)
      (b.ownSlot c d = none → exec (.parcel id (.ok d) (.ok bs)) s = err b 0x0407) ∧
      (∀ x, b.ownSlot c d = some x →
        let bad := checkFrame bs ((b.image p).parcelExp p x.tensor x.len bs)
        (x.role ≠ 2 → exec (.parcel id (.ok d) (.ok bs)) s = err b 0x0409) ∧
        (x.role = 2 →
          exec (.parcel id (.ok d) .failed) s = err b 0x040D ∧
          (∀ code, bad = some code → exec (.parcel id (.ok d) (.ok bs)) s = err (b.logFrame code u p bs) code) ∧
          (bad = none → inGroup (b.part p).vset dst = false → exec (.parcel id (.ok d) (.ok bs)) s = err b 0x0413) ∧
          (bad = none → inGroup (b.part p).vset dst = true → dst = b.logCoord →
            exec (.parcel id (.ok d) (.ok bs)) s = err (b.landParcel p u dst bs) 0) ∧
          (bad = none → inGroup (b.part p).vset dst = true → dst ≠ b.logCoord →
            let m : ParcelMove := { id := b.host.nextXfer.toNat, ctx := c.id, desc := d, src := b.logCoord, dst := dst, part := p,
                                    total := field bs 0x30 4, bytes := [(0, bs.take (field bs 0x30 4))], since := b.now }
            exec (.parcel id (.ok d) (.ok bs)) s = .next (s.onBlock (((((b.modHost (fun x => { x with
              parcelsOut := x.parcelsOut ++ [m], nextXfer := x.nextXfer + 1 })).modCtx c.id
              (fun c => { c with reserved := c.reserved + 1 })).sendParcel m)).consume id true)))))) ∧
    (∀ (l : LinkId) (rx : RxMsg), b.inReset = false →
      let a := b.arriveSeq l 3 rx
      (a.2 = [] → exec (.parcelReceive l rx) s = .next (s.onBlock a.1)) ∧
      (∀ hd body, a.2 = [(hd, body)] →
        let n := a.1.giveBack l 3 body
        (n.kettle.stopped = true → exec (.parcelReceive l rx) s = .next (s.onBlock n)) ∧
        (n.kettle.stopped = false → hdDst hd ≠ n.boot.physCoord →
          exec (.parcelReceive l rx) s = .next (s.onBlock (n.relayMsg (hdPart hd).val hd body))) ∧
        (n.kettle.stopped = false → hdDst hd = n.boot.physCoord →
          exec (.parcelReceive l rx) s = .next (s.onBlock (n.parcelPiece l hd body))))) ∧
    (∀ (id : Nat) (m : ParcelMove),
      b.host.parcelsOut.find? (fun m => m.ctx == id && b.heldFlits.any (fun h => b.ownParcel m.id h.2.1)) = some m →
      exec (.parcelNoRouteTimeout id) s = .next (s.onBlock (((((b.advanceTo (m.since + (b.part m.part).timeout.eff)).dropParcel m.id).modHost
        (fun x => { x with parcelsOut := x.parcelsOut.filter (fun y => y.id != m.id) })).modCtx id
        (fun c => { c with reserved := c.reserved - 1 })).complete id m.desc 0x0220 0xFFFFFFFF)))

/-- Resets and the link of a host port (R296, R317, R394, R397, R431): each reset is logged with its kind and resets the functions it reaches; only
the one of a VF leaves the port's own state; none has an effect in a KT in which a source of a lower number has reset the chip. -/
def Obligations.PortResetsAndLink : Prop :=
  ∀ (h : PortId) (vf : VfId) (s : State),
    let b := s.block
    let free : Prop := ∀ k, b.kettle.rstAt = some (b.now, k) → 5 < k
    let whole (kind : Nat) : Block := ((b.log 0x0551 (.port h) none [kind, 0]).resetFunctions (fun p _ => p == h)).modPort h
      (fun x => { x with vfEnable := false, numVfs := 0 })
    let down (b : Block) : Block := b.modPort h (fun x => { x with
      linkDown := true, downAt := some b.now, linkUp := false, width := 0, speed := 0, flit := false })
    (free →
      exec (.functionLevelResetVf h vf) s = .next (s.onBlock ((b.log 0x0551 (.port h) none [4, vf.val + 1]).resetFunctions
        (fun p v => p == h && v == vf))) ∧
      exec (.functionLevelResetPf h) s = .next (s.onBlock (whole 3)) ∧
      exec (.hotReset h) s = .next (s.onBlock (down (whole 2))) ∧
      exec (.fundamentalReset h) s = .next (s.onBlock (down (whole 1)))) ∧
    (¬free → ∀ i ∈ [Instr.functionLevelResetVf h vf, .functionLevelResetPf h, .hotReset h, .fundamentalReset h], exec i s = .next s) ∧
    ((b.port h).linkUp = true →
      exec (.pcieLinkDown h) s = .next (s.onBlock (down b)) ∧
      exec (.pcieRefclkLoss h) s = .next (s.onBlock (((down (b.advanceTo (b.now + 25))).closeFunctions (fun p _ => p == h)).scanReady)) ∧
      (∀ (en : Bool) (n : BitVec 16), n.toNat ≤ 128 →
        exec (.vfEnable h en n) s = .next (s.onBlock ((b.modPort h (fun x => { x with vfEnable := en, numVfs := n.toNat })).resetFunctions
          (fun p v => p == h && decide ((if en then n.toNat else 0) ≤ v.val)))))) ∧
    ((b.port h).linkUp = false → b.inReset = false → b.boot.phase ≠ .none → b.boot.phase ≠ .straps →
      ∀ (width speed : Nat) (flit : Bool), width ∈ [1, 2, 4, 8, 16] → 1 ≤ speed → speed ≤ 6 →
        exec (.pcieLinkUp h width speed flit) s = .next (s.onBlock (b.modPort h (fun x => { x with
          linkUp := true, width := width, speed := speed, flit := flit }))))

/-! ### Steps -/

/-- STEP_START (R256, R276, R314, R329, R195): the partition at the head of the ready queue starts on the free comb chosen by R329, its registers as
R256 sets them; a comb below Boil is woken first; on a chip that left the group the step completes with 0x0131. -/
def Obligations.StepStart : Prop :=
  ∀ (p : PartId) (errs : List MemErr) (s : State),
    let b := s.block.scanReady
    let d := b.demandOf (some p) errs (fun q => q.1 == .sys)
    let left := b.leftGroup p = true ∧ b.startConds p = true ∧ b.hasSlots p = true
    (left → exec (.stepStart p errs) s = .next (s.onBlock (b.excludedStep p))) ∧
    (¬left → b.ready.head? ≠ some p ∨ b.freeComb p = none → exec (.stepStart p errs) s = .next (s.onBlock b)) ∧
    (∀ c, ¬left → b.ready.head? = some p → b.freeComb p = some c →
      ((b.comb c).pwr ≠ .boil ∨ (b.comb c).entering ≠ none ∨ (b.comb c).waking = true →
        exec (.stepStart p errs) s = .next (s.onBlock (b.modComb c (fun x => x.wake b.now)))) ∧
      ((b.comb c).pwr = .boil → (b.comb c).entering = none → (b.comb c).waking = false →
        exec (.stepStart p errs) s = .next ((s.onBlock (d.1.beginStep p c (!d.2.isEmpty))).withBuf c []))) ∧
    (let q := b.seqStart p
     q.pc = 0 ∧ (∀ k : TdReg, q.td[k] = ⟨0, 0xF, false, 0, 0, 0, 0, 0, 0⟩) ∧ (∀ k : QReg, q.q[k] = decide (k = 0)) ∧ (∀ k : LReg, q.l[k] = 0) ∧
     (∀ k : SReg, 4 ≤ k.val → q.s[k] = ⟨0, false, none⟩) ∧ (∀ k : QReg, q.qx[k] = none) ∧
     ((b.part p).joining = false → q.s[0].v = (b.part p).stepCnt.setWidth 64) ∧ q.s[1].v.toNat = groupSize (b.part p).vset % 2 ^ 64 ∧
     q.s[2].v = b.logCoord.setWidth 64 ∧ q.s[3].v.toNat = p.val)

/-- The agreements of a step (R142, R193 to R195): what the capped maxima of the membership and of the digest agreement decide, and the retry. -/
def Obligations.Agreements : Prop :=
  ∀ (p : PartId) (r : StepRun) (errs : List MemErr) (s : State), s.block.run? p = some r → r.abort = none →
    let b := s.block
    (∀ o x₀ x₁ y₀ y₁ cnt : Nat, ∀ m : BuzzOp, x₀ < 2 ^ 32 → y₀ < 2 ^ 32 → o = x₀ + 2 ^ 32 * x₁ →
      r.buzz.find? (fun o => o.why == .membership) = some m → r.agreed = false → r.retryAt = none → m.capped = true →
      m.cur = [o, y₀ + 2 ^ 32 * y₁, cnt] →
      (x₁ + y₁ ≠ 2 ^ 32 - 1 → exec (.membershipAgreementComplete p) s = .next (s.onBlock (b.originate p 0x0132 0))) ∧
      (x₁ + y₁ = 2 ^ 32 - 1 → x₀ + y₀ ≠ 2 ^ 32 - 1 →
        exec (.membershipAgreementComplete p) s = .next (s.onBlock (b.modRun p (fun r => { r with
          genBad := true, retryAt := some (b.now + 25) })))) ∧
      (x₁ + y₁ = 2 ^ 32 - 1 → x₀ + y₀ = 2 ^ 32 - 1 →
        exec (.membershipAgreementComplete p) s = .next (s.onBlock (b.agreed p r cnt)))) ∧
    (∀ cnt, (b.part p).joining = false → (b.part p).lastGroup = [] ∨ (b.part p).lastGroup = r.groupMap → r.progBad = false →
      (b.part p).progSt = .available → b.steepEnough p = true →
      b.agreed p r cnt = (((b.modRun p (fun q => { q with agreed := true, stepNo := r.stepNo })).modPart p (fun x => { x with
        stepCnt := r.stepNo, reformed := false })).retakeHeld p).drive p) ∧
    (∀ t, r.retryAt = some t →
      let n := b.advanceTo t
      (n.active p = false → exec (.membershipAgreementRetry p) s = .next (s.onBlock (n.endStep p r 0x0131 []))) ∧
      (n.active p = true → exec (.membershipAgreementRetry p) s = .next (s.onBlock (((n.modRun p (fun r => { r with
        retryAt := none, group := (n.part p).vset, me := n.logCoord, table := n.remap.assumes
        buzz := r.buzz.map (fun o => if o.why = .membership then
          { o with redo := (o.redo + 1) % 256, own := n.agreementOperands p, cur := n.agreementOperands p
                   dims := exchanges (n.part p).vset 1, got := [], sent := 0, capped := false } else o) })).retakeHeld p).drive p)))) ∧
    (∀ (h : Nat) (o : BuzzOp), r.launches.head? = some (.tensor h) → r.agreed = true → ((b.image p).entry h).method = .codebook →
      (r.trun h).stage = 1 → r.buzz.find? (fun o => match o.why with | .digest t => t == h | _ => false) = some o → o.capped = true →
      (o.cur.getD 2 0 ≠ 0 → exec (.digestAgreementComplete p errs) s = .next (s.onBlock (b.originate p 0x0583 o.opidx))) ∧
      (o.cur.getD 2 0 = 0 → o.cur.getD 0 0 + o.cur.getD 1 0 ≠ 2 ^ 64 - 1 →
        exec (.digestAgreementComplete p errs) s = .next (s.onBlock (b.originate p 0x0582 o.opidx))) ∧
      (o.cur.getD 2 0 = 0 → o.cur.getD 0 0 + o.cur.getD 1 0 = 2 ^ 64 - 1 →
        let i := b.image p
        let e := i.entry h
        let xs := i.below h (r.trun h).w
        let f := b.cbSearch p errs e.beam e.iters (tilePatterns xs)
        let found := f.2
        let cbi := found.map Prod.fst
        let n := f.1.count r.comb (fun c => { c with excluded := wrapAdd c.excluded ((found.map (fun q => q.2.length)).foldl (· + ·) 0) })
        let n := n.modRun p (fun r => { r with count := { r.count with searches := r.count.searches + cbi.length } })
        let n := n.modT p h (fun t => { t with stage := 2, cbi := cbi, mags := magnitudes xs })
        exec (.digestAgreementComplete p errs) s = .next (s.onBlock ((n.launchRounds p h .gather
          (numbered 0 (i.cut r.group h .gather 0 (i.kindUnits h .gather))) (fun p0 u o => { o with
            own := (cbi.drop p0).take u
            scales := (((magnitudes xs).drop (p0 / 32)).take (ceilDiv u 32)).flatMap (fun m => leBytes 4 m.toNat) })).drive p))))

/-- The confirmed set (R104): the K blocks that come first by group score, highest first, and by block number, lowest first, among equal scores;
in ascending block number. -/
def Obligations.ConfirmedSetIsTheTopBlocks : Prop :=
  ∀ (scores : List Nat) (k : Nat), k ≤ scores.length →
    let c := confirmedSet scores k
    c.length = k ∧ c.Pairwise (· < ·) ∧ (∀ x ∈ c, x < scores.length) ∧
    (∀ x ∈ c, ∀ y, y < scores.length → y ∉ c → scores.getD y 0 < scores.getD x 0 ∨ (scores.getD y 0 = scores.getD x 0 ∧ x < y))

/-- Stages before a tensor's exchange (R71, R104, R128, R129): the confirmed set is taken from the group scores; packing quantises under the agreed
exponents and launches the rounds; LOWRANK orthogonalises the sum of P and forms this chip's own Q. -/
def Obligations.StagesBeforeTheExchange : Prop :=
  ∀ (p : PartId) (t : BitVec 16) (r : StepRun) (errs : List MemErr) (s : State), s.block.run? p = some r →
    let b := s.block
    let i := b.image p
    let h := i.head t.toNat
    let e := i.entry h
    let x := r.trun h
    r.atHead h = true →
    (∀ scores, e.method = .waggle → x.stage = 4 → r.scoresDone i h = some scores →
      let k := kOf (blocksOf e.n) e.select
      let conf := confirmedSet scores k
      let n := b.modTMem p h (fun m => m.setIdxAlt conf)
      let n := n.modT p h (fun t => { t with conf := some conf, group := scores, stage := 5 })
      let n := n.modRun p (fun r => { r with count := { r.count with selBlocks := r.count.selBlocks + k } })
      exec (.selectBlocks p t) s =
        .next (s.onBlock (((n.confirmRows p r h conf).launchScale p h .main ({ x with conf := some conf }.kindExps e .main k)).drive p))) ∧
    (∀ k next te runs, packKind e.method x.stage = some (k, next) → r.scaleDone h k = some te → r.packRuns h k (i.kindUnits h k) = some runs →
      x.left = none →
      let d := b.demand errs (fun q => match q.1 with | .scratch p' t' => p' = p && (i.unit h).contains t' | _ => false)
      (d.2 ≠ [] → exec (.quantisePack p t errs) s = .next (s.onBlock (d.1.originate p 0x0312 r.next))) ∧
      (d.2 = [] →
        let f := e.kindFmt k
        let convs := if (k == .predicted && x.predBad) = true then [] else quantiseUnits e f te (x.kindVals k)
        let codes := convs.map Conv.code
        let n := d.1.modT p h (fun t => { t with
          stage := next, te := (k, te) :: t.te, codes := (k, codes) :: t.codes
          qdec := if k = .factorQ then decodeOwnUnits e f te codes else t.qdec
          sigma := if e.method = .sign then meanAbs (i.below h t.w) else t.sigma })
        let n := n.launchRounds p h k (numbered 0 (runs.flatMap (fun q => i.cut r.group h k q.1 q.2))) (fun p0 u o =>
          let own := (codes.drop (256 * p0)).take (256 * u)
          { o with scales := scaleSection f te p0 u, blocks := ((x.kindBlocks k).drop p0).take u, own := own
                   ownSq := if e.kindStats k = true then
                       ((chunks 256 own).zipIdx).flatMap (fun q => q.1.map (enterSq f (teAt f te (p0 + q.2)).1)) else []
                   sat := (((convs.drop (256 * p0)).take (256 * u)).filter Conv.sat).length })
        let n := if e.method = .sign then
          n.launchBuzz p 4 (.sigma h) [(meanAbs (i.below h x.w)).toNat] (effSplit r.group e.split) else n
        exec (.quantisePack p t errs) s = .next (s.onBlock (n.drive p)))) ∧
    (e.method = .lowrank → x.stage = 2 → (r.kindRounds h .factorP).all (fun o => o.st == .capped || o.st == .drained) = false →
      exec (.lowrankOrthogonalise p t errs none) s = .next (s.onBlock
        (((r.kindRounds h .factorP).filter (fun o => o.st == .capped)).foldl (fun b o => b.drainRound p r o) b))) ∧
    (e.method = .lowrank → x.stage = 2 → (r.kindRounds h .factorP).all (fun o => o.st == .capped || o.st == .drained) = true →
      let d := b.demand errs (fun q => match q.1 with | .opcopy p' t' => p' = p && t' = h | _ => false)
      (d.2 ≠ [] ∨ (b.tmem p h).opBad = true → exec (.lowrankOrthogonalise p t errs none) s = .next (s.onBlock (d.1.originate p 0x0312 r.next))) ∧
      (d.2 = [] → (b.tmem p h).opBad = false → ∀ r' : StepRun,
        let n := ((r.kindRounds h .factorP).filter (fun o => o.st == .capped)).foldl (fun b o => b.drainRound p r o) d.1
        n.run? p = some r' →
        let x := r'.trun h
        let ps := (decodeUnits e e.xfmt (lookupKind x.te .factorP []) (x.drained .factorP false)).take (e.a * e.rank)
        let ph := orthogonalise e.a e.rank ps
        let q := lowrankQ e.opfmt e.a e.b e.rank (n.tmem p h).opcopy ph
        let x' := { x with phat := ph, qown := q.map Inf.code, stage := 4 }
        let n := (n.modT p h (fun _ => x')).count r'.comb (fun c => { c with
          infOvf := wrapAdd c.infOvf (q.filter Inf.ovf).length, qntSat := wrapAdd c.qntSat (factorSat e.opfmt ph) })
        exec (.lowrankOrthogonalise p t errs none) s =
          .next (s.onBlock ((n.launchScale p h .factorQ (x'.kindExps e .factorQ (i.kindUnits h .factorQ))).drive p))))

/-- Stages after a tensor's exchange (R32, R72, R89, R98, R99, R121, R128, R153, R154, R263, R407): an error in a Honeycomb word that a stage reads;
capped rounds are drained and the group sum is formed when every round is, the residual is written page by page, and the result goes to the slot. -/
def Obligations.StagesAfterTheExchange : Prop :=
  ∀ (p : PartId) (t : BitVec 16) (r : StepRun) (errs : List MemErr) (s : State), s.block.run? p = some r → r.abort = none →
    let b := s.block
    let i := b.image p
    let h := i.head t.toNat
    let e := i.entry h
    let x := r.trun h
    let go (n : Block) := Host.Outcome.next (s.wentOn p n)
    let last := !r.launches.any (fun l => match l with | .tensor t => t == h | _ => false)
    let k : RKind := if e.method = .lowrank then .factorQ else .main
    let full (l : List Word) : List Word := (l ++ List.replicate (256 * i.unitBlocks h - l.length) f32Zero).take (256 * i.unitBlocks h)
    (∀ ue : Bool,
      (r.rounds.find? (fun o => o.tensor == h && decide (0 < o.cells)) = none →
        exec (.unpackDequantise p t (some ue)) s = exec (.unpackDequantise p t none) s ∧
        exec (.lowrankOrthogonalise p t errs (some ue)) s = exec (.lowrankOrthogonalise p t errs none) s ∧
        exec (.codebookDecode p t errs (some ue)) s = exec (.codebookDecode p t errs none) s) ∧
      (∀ o, r.rounds.find? (fun o => o.tensor == h && decide (0 < o.cells)) = some o →
        let n := if ue then (b.log 0x0330 (.honeycomb 0) (some p) []).originate p 0x0330 o.opidx
          else ({ b with hcbSramCorr := satAdd b.hcbSramCorr 1 }).log 0x0331 (.honeycomb 0) (some p) []
        exec (.unpackDequantise p t (some ue)) s = go (n.unpack p h) ∧
        exec (.lowrankOrthogonalise p t errs (some ue)) s = .next (s.onBlock (n.orthonormal p h errs)) ∧
        exec (.codebookDecode p t errs (some ue)) s = go (n.cbDecode p h errs))) ∧
    (e.method ≠ .codebook → x.decoded = none → x.xissued = true → x.pred = none ∨ x.conf.isSome = true →
      let n := (r.rounds.filter (fun o => o.tensor == h && o.st == .capped && (o.kind == k || o.kind == .predicted))).foldl
        (fun b o => b.drainRound p r o) b
      ∀ r', n.run? p = some r' →
        let y := r'.trun h
        let acc := y.drained k false
        let te := lookupKind y.te k []
        let fin (n : Block) (l : List Word) : Block := (n.modT p h (fun t => { t with decoded := some (full l), sums := [] })).modTMem p h
          (fun m => { m with stats := if e.stats then acc.zip (y.drained k true) else [] })
        (last = false ∨ r'.payloadDrained h k = false → exec (.unpackDequantise p t none) s = go n) ∧
        (last = true → r'.payloadDrained h k = true →
          (e.method = .dense → exec (.unpackDequantise p t none) s = go (fin n (decodeUnits e e.xfmt te acc))) ∧
          (e.method = .waggle → exec (.unpackDequantise p t none) s =
            go (fin n (scatterBlocks (blocksOf e.n) (y.conf.getD []) (decodeUnits e e.xfmt te acc)))) ∧
          (e.method = .sign → r'.sigmaDone h = none → exec (.unpackDequantise p t none) s = go n) ∧
          (∀ z, e.method = .sign → r'.sigmaDone h = some z → exec (.unpackDequantise p t none) s =
            go (fin (n.modT p h (fun t => { t with sigmaSum := some z })) (signDecode r'.members z acc))) ∧
          (e.method = .lowrank →
            let qs := (decodeUnits e e.xfmt te acc).take (e.b * e.rank)
            let out := lowrankOut e.opfmt e.a e.b e.rank y.phat qs
            exec (.unpackDequantise p t none) s = go (fin (((n.count r'.comb (fun c => { c with
              infOvf := wrapAdd c.infOvf (out.filter Inf.ovf).length
              qntSat := wrapAdd c.qntSat (factorSat e.opfmt y.phat + factorSat e.opfmt qs) })).modT p h (fun t => { t with qsum := qs })).modTMem p h
              (fun m => m.setQAlt qs)) (out.map Inf.code))))) ∧
    (let rs := (r.kindRounds h .gather).filter (fun o => o.st == .capped)
     e.method = .codebook → x.decoded = none → rs ≠ [] →
      let words := rs.flatMap (fun o => o.gathered.flatMap (fun g => (cbiFrame o.u g.2).1))
      let d := b.cbErrors p errs
      let n := (d.2.filter words.contains).foldl (fun b k => b.poisonEntry p k) d.1
      let cb := (n.part p).cbView i.cbE
      let wide := rs.findSome? (fun o => (o.gathered.find? (fun g => (cbiFrame o.u g.2).1.any (fun w => decide (i.cbE ≤ w)))).map (fun g => (o, g.1)))
      let hit := rs.find? (fun o => o.gathered.any (fun g => (cbiFrame o.u g.2).1.any cb.bad))
      (∀ o src, wide = some (o, src) → exec (.codebookDecode p t errs none) s =
        go ((n.log 0x060A (.comb r.comb) (some p) [h, o.rnd, src.toNat]).originate p 0x060A o.opidx)) ∧
      (∀ o, wide = none → hit = some o → exec (.codebookDecode p t errs none) s =
        go ((n.originate p 0x0310 o.opidx).modPart p (fun x => { x with cb := { x.cb with st := .rejected } }))) ∧
      (wide = none → hit = none → exec (.codebookDecode p t errs none) s =
        go ((rs.foldl (fun n o => n.keepSums p o [⟨.gather, o.p0, (cbiDecode cb o.u o.gathered).map BitVec.toNat, []⟩]) n).cbFinish p h))) ∧
    (let rest := (r.kindRounds h .gather).all (fun o => o.st == .drained)
     (last = false ∨ rest = false → b.cbFinish p h = b) ∧
     (last = true → rest = true → b.cbFinish p h = b.modT p h (fun t => { t with
       sums := [], decoded := some (let l := ((x.drained .gather false).map (BitVec.ofNat 32)).take (i.total h)
         l ++ List.replicate (256 * i.unitBlocks h - l.length) f32Zero) }))) ∧
    (∀ l, x.decoded = some l → x.residDone = false →
      (e.ef = false → exec (.writeResidual p t errs) s = go (b.modT p h (fun t => { t with residDone := true }))) ∧
      (e.ef = true →
        let d := b.demand errs (fun q => match q.1 with
          | .steep p' => p' = p && (match (b.part p).blockAt q.2 with
              | some (t, copy1, k) => copy1 != (b.tmem p t).cur1 && (i.residPages x h).contains (t, k / 16)
              | none => false)
          | _ => false)
        let bad := d.2.filterMap (fun q => (b.part p).blockAt q.2)
        let own := b.ownContribution p r h
        let n := if x.resid = none then d.1.count r.comb (fun c => { c with
            infOvf := wrapAdd c.infOvf own.2
            qntSat := wrapAdd c.qntSat (if e.method = .lowrank then factorSat e.opfmt (x.qdec.take (e.b * e.rank)) else 0) })
          else d.1
        exec (.writeResidual p t errs) s = go (Block.residLoop p h own.1
          (fun t k => bad.any (fun x => x.1 == t && x.2.2 == k)) ((i.residPages x h).length + 1)
          (n.modT p h (fun t => { t with resid := some (t.resid.getD 0) }))))) ∧
    (∀ l, x.decoded = some l → x.delivered = false →
      (b.comb r.comb).prods.any (fun g => g.dst.region == 1 && (i.unit h).contains g.dst.tensor) = false →
      exec (.deliverResult p t) s = go (((i.offsets h).foldl (fun n q =>
        let e := i.entry q.1
        let cs := ((l.drop q.2).take e.n).map (stage11 e.rfmt r.members)
        let n := n.count r.comb (fun c => { c with qntSat := wrapAdd c.qntSat (cs.filter Conv.sat).length })
        if e.rRole then n.resultWrite p q.1 0 (packCodes e.rfmt.width (cs.map Conv.code)) else n) b).modT p h
        (fun t => { t with delivered := true })))

/-- How collectives and steps go on and end (R49, R56, R242, R244, R246, R247, R250, R264, R293): cells and token, the cap report, the timeout's abort,
the end of the settle period, and the results of a sum before and after it is capped. -/
def Obligations.CollectiveProgress : Prop :=
  (∀ (p : PartId) (o : BuzzOp) (c : CombId) (sd : SReg) (w : Nat) (b : Block), o.why = .sred c sd w →
    (o.shown = false → b.showSum p o =
      (b.modSeq c (fun q => q.writeSum o.op o.opidx sd o.cur)).modBuzz p o.opidx (fun o => { o with shown := true })) ∧
    (o.shown = true → b.showSum p o = b.mapScal p c (Scal.refresh o.opidx (fun k => sredValue o.op (o.cur.getD k 0)))) ∧
    (o.isSum = true → o.op ≠ 4 → b.buzzEffect p o = (b.showSum p o).mapScal p c (Scal.settle o.opidx)) ∧
    (o.isSum = false → o.op ≠ 4 → b.buzzEffect p o = b.modSeq c (fun q => q.writeSred o.op sd o.cur))) ∧
  (∀ (n : Nat) (f : Nat → DWord) (x : Scal) (k : Nat) (v u : DWord) (g : SFn) (a c : SExpr),
    (x.ex = none → x.refresh n f = x ∧ x.settle n = x) ∧
    (x.ex = some (.sum n k v) → x.refresh n f = { x with v := f k, ex := some (.sum n k (f k)) } ∧ x.settle n = { x with ex := none }) ∧
    (x.ex = some (.app g a c) → (x.refresh n f).v = g.eval (a.refresh n f).eval (c.refresh n f).eval ∧ (x.settle n).v = x.v) ∧
    (x.ex = some (.app g (.sum n k v) (.cap u)) → (x.settle n).ex = none)) ∧
  ∀ (p : PartId) (k : BitVec 16) (r : StepRun) (s : State), s.block.run? p = some r →
    let b := s.block
    let i := b.image p
    let op := k.toNat
    (r.abort = none →
      (∀ o, r.firstWaiting = some o → o.opidx = op →
        let need := i.cellsFor r.group o.tensor o.kind o.u
        let mine := (b.part p).credit o
        let spend (n : Block) : Block := n.modPart p (fun x => { x with
          nextCells := x.nextCells.filter (fun q => !(q.1 == o.tensor && q.2.1 == o.rnd)) })
        let tok := (b.comb r.comb).tokFree
        (o.kind = .predicted → tok < 32 ∨ (r.trun o.tensor).predBad = true →
          exec (.roundAllocate p k) s = .next (s.onBlock ((((spend (b.freeCells mine)).modRound p o.opidx
            (fun o => { o with st := .dropped })).retakeBulk p).drive p))) ∧
        (¬(o.kind = .predicted ∧ (tok < 32 ∨ (r.trun o.tensor).predBad = true)) →
          (tok = 0 ∨ i.quota < (b.part p).cells - mine + need ∨ b.hcbFree + mine < need →
            exec (.roundAllocate p k) s = .next (s.onBlock (b.drive p))) ∧
          (tok ≠ 0 → (b.part p).cells - mine + need ≤ i.quota → need ≤ b.hcbFree + mine →
            let n := (spend ((b.freeCells mine).takeCells need)).takeToken r.comb
            let g := n.roundStart p r { o with cells := need, token := true }
            exec (.roundAllocate p k) s = .next (s.onBlock
              ((((g.1.modRound p o.opidx (fun _ => g.2)).retakeBulk p).runRound p o.opidx).drive p))))) ∧
      (∀ o, r.rounds.any (fun o => o.opidx == op) = false →
        r.buzz.find? (fun o => o.opidx == op && o.isSum && !o.token && !o.capped) = some o → (b.comb r.comb).tokFree ≠ 0 →
        exec (.roundAllocate p k) s = .next (s.onBlock (((b.takeToken r.comb).modBuzz p op (fun o => { o with token := true })).drive p))) ∧
      (∀ o, r.rounds.find? (fun o => o.opidx == op) = some o →
        r.buzz.any (fun x => x.isReport && x.opidx == op && x.redo == o.redo) = false →
        (o.st = .dropped → (r.trun o.tensor).conf.isSome = true →
          exec (.capReportSend p k) s = .next (s.onBlock (b.sendReport p op o.redo 3))) ∧
        (o.st = .done → o.linkFail = true ∨ r.positive op o.redo = true ∨ b.unacked (b.ownBulk p r o) = false →
          exec (.capReportSend p k) s = .next (s.onBlock (b.sendReport p op o.redo (if o.resFail then 2 else if o.linkFail then 1 else 0)))) ∧
        (o.st = .running → o.linkFail = true ∨ r.positive op o.redo = true →
          exec (.capReportSend p k) s = .next (s.onBlock (b.sendReport p op o.redo (if o.resFail then 2 else if o.linkFail then 1 else 0))))) ∧
      (∀ o, r.rounds.find? (fun o => o.opidx == op) = none → r.buzz.find? (fun o => o.opidx == op && !o.isReport) = some o → o.isSum = true →
        o.capped = false → r.buzz.any (fun x => x.isReport && x.opidx == op && x.redo == o.redo) = false →
        o.failed = true ∨ r.positive op o.redo = true ∨ (o.complete = true ∧ b.unacked (b.ownBuzz p r o) = false) →
        exec (.capReportSend p k) s = .next (s.onBlock (b.sendReport p op o.redo (if o.resFail then 2 else o.failed.toNat)))) ∧
      (let limit := (b.part p).timeout.eff
       (∀ o, r.buzz.find? (fun o => o.opidx == op && !o.isReport) = some o →
        (o.why = .membership → r.agreed = false → exec (.collectiveTimeout p k) s =
          .next (s.onBlock ((b.advanceTo (o.since + limit)).originate p (if r.genBad then 0x0130 else 0x0101) op))) ∧
        (o.why ≠ .membership → o.capped = false → exec (.collectiveTimeout p k) s =
          .next (s.onBlock ((b.advanceTo (o.since + limit)).originate p 0x0101 op)))) ∧
       (∀ o, r.buzz.find? (fun o => o.opidx == op && !o.isReport) = none → r.rounds.find? (fun o => o.opidx == op) = some o →
        o.st ≠ .capped → o.st ≠ .drained → exec (.collectiveTimeout p k) s =
          .next (s.onBlock ((b.advanceTo (o.since + limit)).originate p 0x0101 op))))) ∧
    (∀ code, r.abort = some code →
      let n := b.advanceTo (r.abortAt + 250)
      exec (.settlePeriodEnd p) s = .next (s.onBlock ((((List.range i.tensors.length).foldl (fun n t =>
        let m := n.tmem p t
        let n := if (i.entry t).ef then n.modPart p (fun x => x.setLive t (!m.cur1) false) else n
        n.modTMem p t (fun m => { (if r.reseed then m.reseed (i.entry t) else m) with stats := [] })) n).endStep p r code []).honourLinks none)))

/-! ### Fabric messages -/

/-- A buzz message of each operation (R55, R205, R210, R211, R221): discarded, taking its link out of service, relayed, or delivered; delivery takes
the current epoch's message at once, holds the next epoch's and logs a stale one. -/
def Obligations.BuzzMessages : Prop :=
  (∀ (op : Nat) (i : LinkId → BuzzRx → Instr) (l : LinkId) (m : BuzzRx) (s : State),
    (op, i) ∈ [(1, Instr.buzzBarrier), (2, .buzzSumW32), (3, .buzzSumW64), (4, .buzzSumF32), (5, .buzzMax8), (6, .buzzMax16), (7, .buzzMax32),
      (8, .buzzMax64), (0x10, .buzzCapReport), (0x11, .buzzAbort)] →
    s.block.inReset = false → (headOk 1 m.head = true → (hdBuzz m.head).op = op) →
    let b := s.block
    let z := (b.simmerExit l).busyGroup l
    let a := (z.link l).arriveBuzz m
    let n := z.setLink l a.1
    let t := n.modLink l (fun x => x.giveBack 1 2)
    let body := m.body.take (hdLen m.head)
    (a.2.1 = .discard → exec (i l m) s = .next (s.onBlock n)) ∧
    (∀ code, a.2.1 = .leave code → exec (i l m) s = .next (s.onBlock (n.leaveService l code false))) ∧
    (a.2.1 = .accept → t.kettle.stopped = true → exec (i l m) s = .next (s.onBlock t)) ∧
    (a.2.1 = .accept → t.kettle.stopped = false → hdDst m.head ≠ t.boot.physCoord →
      exec (i l m) s = .next (s.onBlock (t.relayMsg 128 m.head body))) ∧
    (a.2.1 = .accept → t.kettle.stopped = false → hdDst m.head = t.boot.physCoord → exec (i l m) s = .next (s.onBlock (t.deliverBuzz l
      ⟨true, m.head, body, l, if a.2.2 then none else some (BitVec.ofNat 12 (field m.head 0x38 2)),
        match m.strike with | some f => .adder f | none => .none⟩)))) ∧
  (∀ (x : Link) (m : BuzzRx), x.st = .inService →
    let y := x.fec m.fec
    let s := BitVec.ofNat 12 (field m.head 0x38 2)
    let d := (s - x.rx.bexp).toNat
    (m.raw = false → m.ok = false → x.arriveBuzz m = (y.bnak, .discard, false)) ∧
    (m.raw = true ∨ m.ok = true →
      (d = 0 → headOk 1 m.head = false → x.arriveBuzz m = (y, .leave 0x0209, false)) ∧
      (d = 0 → headOk 1 m.head = true → grants.buzz < x.rx.held.buzz + 2 → x.arriveBuzz m = (y, .leave 0x0206, false)) ∧
      (d = 0 → headOk 1 m.head = true → x.rx.held.buzz + 2 ≤ grants.buzz →
        (x.arriveBuzz m).2 = (.accept, !m.raw) ∧ (x.arriveBuzz m).1.rx.bexp = x.rx.bexp + 1 ∧
        (x.arriveBuzz m).1.rx.unconf = (if m.raw then x.rx.unconf ++ [⟨s, m.head, m.body⟩] else x.rx.unconf)) ∧
      (1 ≤ d → d ≤ 63 → x.arriveBuzz m = (y.bnak, .discard, false)) ∧
      (64 ≤ d → d < 4032 → x.arriveBuzz m = (y, .leave 0x0207, false)) ∧
      (4032 ≤ d → x.arriveBuzz m = ({ y with cnt := { y.cnt with dup := wrapAdd y.cnt.dup 1 } }, .discard, false)))) ∧
  (∀ (b : Block) (l : LinkId) (m : HeldMsg), b.kettle.stopped = false →
    let p := hdPart m.head
    let keep := b.modPart p (fun x => { x with heldNext := x.heldNext ++ [m] })
    let d := b.epochDiff p (hdEpoch m.head)
    ((b.part p).img = none → b.deliverBuzz l m = b.log 0x0105 (.link l) (some p) []) ∧
    ((b.part p).img.isSome = true → b.agreeExempt p m.head = true →
      (b.run? p = none → b.deliverBuzz l m = keep) ∧
      (∀ r, b.run? p = some r → r.agreed = true → b.deliverBuzz l m = keep) ∧
      (∀ r, b.run? p = some r → r.agreed = false → b.deliverBuzz l m = (b.takeBuzz p r m).drive p)) ∧
    ((b.part p).img.isSome = true → b.agreeExempt p m.head = false → b.epochOpen p = true → b.deliverBuzz l m = keep) ∧
    ((b.part p).img.isSome = true → b.agreeExempt p m.head = false → b.epochOpen p = false →
      (∀ r, b.run? p = some r → d = 0 → b.deliverBuzz l m = (b.takeBuzz p r m).drive p) ∧
      (d = 1 → b.deliverBuzz l m = keep) ∧ (b.run? p = none → d = 0 → b.deliverBuzz l m = keep) ∧
      (1 < d → b.deliverBuzz l m = b.log 0x0105 (.link l) (some p) [])))

/-- BUZZ_CONFIRM, BULK_MESSAGE and INGRESS_WAIT_END (R204, R205, R210, R215, R234, R236, R238): what a confirmation frees or takes out of service, how
the flits of a message join, and how bulk messages pass the ingress in order. -/
def Obligations.ConfirmAndBulk : Prop :=
  (∀ (l : LinkId) (m : BuzzMsg) (rest : List BuzzMsg) (f : Fec) (s : State), (s.block.link l).rx.unconf = m :: rest →
    let b := s.block
    let n := b.modLink l (fun x => x.fec f)
    (f.corr ≠ 0 ∨ f.uncorr ≠ 0 → exec (.buzzConfirm l m.seq f) s = .next (s.onBlock (n.leaveService l 0x0204 false))) ∧
    (f.corr = 0 → f.uncorr = 0 →
      let n := n.modLink l (fun x => ({ x with rx := { x.rx with unconf := rest, back := m.seq } }).lcDue)
      let n : Block := { n with parts := n.parts.map (fun x => Part.confirm x l m.seq) }
      exec (.buzzConfirm l m.seq f) s = .next (s.onBlock ((n.retakeHeld (hdPart m.head)).drive (hdPart m.head)))) ∧
    (∀ q, q ≠ m.seq → exec (.buzzConfirm l q f) s = .next (s.onBlock b))) ∧
  (∀ (r : LinkRx) (cls : Nat) (bytes : List Byte),
    (r.partOf cls = none → r.join cls true bytes = if headOk cls bytes then .more ⟨cls, bytes, []⟩ else .bad) ∧
    (r.partOf cls = none → r.join cls false bytes = .bad) ∧
    (∀ p, r.partOf cls = some p → r.join cls true bytes = .bad) ∧
    (∀ p, r.partOf cls = some p → let body := p.body ++ padTo 64 bytes
      r.join cls false bytes =
        if body.length = 64 * hdNbody p.head then .whole p.head (body.take (hdLen p.head)) else .more { p with body := body })) ∧
  (∀ (x : Link) (cls : Nat) (n : BitVec 12) (first : Bool) (bytes : List Byte) (ws : List (List Byte × List Byte)), x.st = .inService →
    let a : Arrival := ⟨x, ws, none⟩
    let d := (n - x.rx.exp).toNat
    let gone (code : Nat) : Arrival := ⟨x, ws, some code⟩
    (a.flit cls n first false bytes = ⟨x.nak, ws, none⟩) ∧
    (1 ≤ d → d ≤ 1023 → a.flit cls n first true bytes = ⟨x.nak, ws, none⟩) ∧
    (3072 ≤ d → a.flit cls n first true bytes = ⟨{ x with cnt := { x.cnt with dup := wrapAdd x.cnt.dup 1 } }, ws, none⟩) ∧
    (1024 ≤ d → d < 3072 → a.flit cls n first true bytes = gone 0x0207) ∧
    (d = 0 → grants.get cls < x.rx.held.get cls + 1 → a.flit cls n first true bytes = gone 0x0206) ∧
    (d = 0 → x.rx.held.get cls + 1 ≤ grants.get cls →
      (x.rx.join cls first bytes = .bad → a.flit cls n first true bytes = gone 0x0209) ∧
      (x.rx.join cls first bytes ≠ .bad →
        let y := a.flit cls n first true bytes
        y.leave = none ∧ y.link.rx.exp = x.rx.exp + 1 ∧ y.link.rx.nakWait = false ∧ y.link.lc.due = true ∧
        y.link.rx.held = x.rx.held.map cls (· + 1) ∧ y.link.cnt.rxBytes = wrapAdd x.cnt.rxBytes 64 ∧
        y.whole = ws ++ (match x.rx.join cls first bytes with | .whole h b => [(h, b)] | _ => []) ∧
        y.link.rx.part = (match x.rx.join cls first bytes with | .more p => [p] | _ => []) ++ x.rx.part.filter (fun p => p.cls != cls)))) ∧
  (∀ (l : LinkId) (rx : RxMsg) (fault : AddFault) (s : State), s.block.inReset = false →
    let a := s.block.arriveSeq l 2 rx
    let wait (n : Block) (q : List Byte × List Byte) : Block := n.modLink l (fun x => { x with rx := { x.rx with
      waiting := x.rx.waiting ++ [(x.st == .inService, q.1, q.2, fault)] } })
    (a.2 = [] → exec (.bulkMessage l rx fault) s = .next (s.onBlock a.1)) ∧
    (∀ q, a.2 = [q] →
      let t := a.1.ingress l q.1 q.2 fault
      ((a.1.link l).rx.waiting ≠ [] → exec (.bulkMessage l rx fault) s = .next (s.onBlock (wait a.1 q))) ∧
      ((a.1.link l).rx.waiting = [] → t.2 = true → exec (.bulkMessage l rx fault) s = .next (s.onBlock (t.1.giveBack l 2 q.2))) ∧
      ((a.1.link l).rx.waiting = [] → t.2 = false → exec (.bulkMessage l rx fault) s = .next (s.onBlock (wait t.1 q)))) ∧
    (∃ n, exec (.bulkMessage l rx fault) s = .next n)) ∧
  (∀ (l : LinkId) (s : State), exec (.ingressWaitEnd l) s = .next (s.onBlock (Block.ingressGo l (s.block.link l).rx.waiting.length s.block))) ∧
  (∀ (l : LinkId) (n : Nat) (b : Block) (m : Bool × List Byte × List Byte × AddFault) (rest : List (Bool × List Byte × List Byte × AddFault)),
    (b.link l).rx.waiting = m :: rest →
    let t := b.ingress l m.2.1 m.2.2.1 m.2.2.2
    (t.2 = false → Block.ingressGo l (n + 1) b = b) ∧
    (t.2 = true → Block.ingressGo l (n + 1) b = Block.ingressGo l n (t.1.modLink l (fun x =>
      let x := { x with rx := { x.rx with waiting := rest } }
      if m.1 then x.giveBack 2 (1 + ceilDiv m.2.2.1.length 64) else x)))) ∧
  (∀ (b : Block) (l : LinkId) (head body : List Byte) (fault : AddFault),
    (b.kettle.stopped = true → b.ingress l head body fault = (b, true)) ∧
    (b.kettle.stopped = false → hdDst head ≠ b.boot.physCoord →
      b.ingress l head body fault = (b.relayMsg (b.relayWho (hdPart head)) head body, true)) ∧
    (b.kettle.stopped = false → hdDst head = b.boot.physCoord → b.ingress l head body fault = b.takeBulk l head body fault))

/-! ### Links -/

/-- Link-control flits, the slots of a train and a link's timers (R200, R201, R207, R208, R212, R215, R217, R227): every slot by Table: Slot order. -/
def Obligations.LinkSlotsAndTimers : Prop :=
  (∀ (l : LinkId) (body : List Byte) (f : Fec) (s : State), s.block.inReset = false →
    let n := s.block.modLink l (fun x => x.fec f)
    ((s.block.link l).linked = true → field body 0 1 = 1 →
      exec (.linkControlFlit l body f) s = .next (s.onBlock ((n.simmerExit l).modLink l (fun x => x.takeControl body)).settleParcels)) ∧
    ((s.block.link l).linked = false ∨ field body 0 1 ≠ 1 → exec (.linkControlFlit l body f) s = .next (s.onBlock n))) ∧
  (∀ (x : Link) (body : List Byte),
    let y := x.takeControl body
    let back (n o : Nat) := (n + 2 ^ 16 - o) % 2 ^ 16
    y.tr.peerReady = (field body 1 1 % 2 == 1) ∧ y.rx.peerInService = (field body 1 1 / 2 % 2 == 1) ∧
    y.rx.peerPwr = Pwr.ofCode (field body 1 1 / 4 % 4) ∧
    y.tx.kept = x.tx.kept.filter (fun k => !acked (BitVec.ofNat 12 (field body 2 2)) k.seq) ∧
    y.tx.keptBuzz = x.tx.keptBuzz.filter (fun k => !acked (BitVec.ofNat 12 (field body 4 2)) k.seq) ∧
    y.tx.free = ⟨x.tx.free.buzz + back (field body 0x10 2) x.tx.retSeen.buzz, x.tx.free.bulk + back (field body 0x12 2) x.tx.retSeen.bulk,
      x.tx.free.parcel + back (field body 0x14 2) x.tx.retSeen.parcel, x.tx.free.tunnel + back (field body 0x16 2) x.tx.retSeen.tunnel⟩) ∧
  (∀ (l : LinkId) (s : State), s.block.inReset = false →
    let b := s.block
    let x := b.link l
    let rq := (b.pwr.groups[groupOf l]).request
    let r := x.trainStart.standbySlot rq
    let o := x.trainStart.orderedSlot rq (b.weightOf l)
    let n := b.setLink l (o.1.emit o.2)
    (x.st = .cold ∨ x.st = .detect ∨ x.st = .equalise → exec (.slotFill l) s = .next (s.onBlock b)) ∧
    (x.st = .lock ∨ x.st = .identify ∨ x.st = .grant → exec (.slotFill l) s = .next (s.onBlock
      (({ b with free := b.free + 3 }).setLink l (x.trainStart.emit ⟨5, false, b.trainingBody l b.free⟩)))) ∧
    (x.st = .standby → exec (.slotFill l) s = .next (s.onBlock (b.setLink l (r.1.emit r.2)))) ∧
    (x.st = .inService → x.pwr = .simmer →
      let n := if x.tx.quiet = true ∧ x.lc.due = false then b else b.simmerExit l
      exec (.slotFill l) s = .next (s.onBlock (n.modLink l (fun x => x.trainStart.emit Slot.idle)))) ∧
    (x.st = .inService → x.pwr ≠ .simmer →
      exec (.slotFill l) s = .next (s.onBlock (if 1 ≤ o.2.kind ∧ o.2.kind ≤ 4 then n.busyGroup l else n)))) ∧
  (∀ (x : Link) (rq : Pwr) (w : Nat → Nat),
    let o := x.orderedSlot rq w
    (∀ body, x.tx.buzzBody = some body → o.2 = ⟨1, false, body⟩) ∧
    (x.tx.buzzBody = none → x.lc.overdue = true → o = x.controlSlot rq) ∧
    (x.tx.buzzBody = none → x.lc.overdue = false →
      (∀ r, x.buzzSlot = some r → o = r) ∧
      (x.buzzSlot = none → x.lc.due = true → x.lc.sentInTrain = false → o = x.controlSlot rq) ∧
      (x.buzzSlot = none → x.lc.due = false ∨ x.lc.sentInTrain = true →
        (∀ r, x.resendSlot = some r → o = r) ∧
        (x.resendSlot = none →
          (∀ r, x.classSlot 2 w = some r → o = r) ∧
          (∀ r, x.classSlot 2 w = none → x.classSlot 3 w = some r → o = r) ∧
          (∀ r, x.classSlot 2 w = none → x.classSlot 3 w = none → x.classSlot 4 w = some r → o = r) ∧
          (x.classSlot 2 w = none → x.classSlot 3 w = none → x.classSlot 4 w = none → o = (x, ⟨0, false, zeros 64⟩)))))) ∧
  (∀ x : Link,
    (x.tx.slotPos ≠ 0 → x.trainStart = x) ∧
    (∀ q, x.tx.slotPos = 0 → x.tx.resendFrom = some q →
      let ks := x.tx.kept.filter (fun k => decide ((k.seq - q).toNat < 2048))
      x.trainStart.tx = { x.tx with resend := ks, resendFrom := none } ∧
      x.trainStart.slotOut = x.slotOut ++ [headerBytes (match ks with | k :: _ => k.seq | [] => x.tx.next)])) ∧
  (∀ (header : List Byte) (slots : List (List Byte)), header.length = 3 → slots.length = 48 → (∀ x ∈ slots, x.length = 67) →
    (trainBits header slots).length = 25700 ∧ (trainSymbols header slots).length = 5) ∧
  (∀ (l : LinkId) (s : State),
    let b := s.block
    let x := b.link l
    (x.linked = true → x.pwr = .boil → exec (.heartbeatDue l) s = .next (s.onBlock (b.setLink l { x with lc := { x.lc with overdue := true } }))) ∧
    (x.st = .inService →
      (x.rx.nakWait = true → exec (.nakRepeatTimeout l false) s = .next (s.onBlock (b.setLink l { x with
        rx := { x.rx with nakEv := x.rx.nakEv + 1 }, lc := { x.lc with due := true } }))) ∧
      (x.rx.bnakWait = true → exec (.nakRepeatTimeout l true) s = .next (s.onBlock (b.setLink l { x with
        rx := { x.rx with bnakEv := x.rx.bnakEv + 1 }, lc := { x.lc with due := true } }))) ∧
      (∀ k ks, x.tx.kept = k :: ks →
        (x.tx.resendFrom = none → exec (.resendTimeout l false) s = .next (s.onBlock (b.setLink l { x with
          tx := { x.tx with resendFrom := some k.seq, stuck := x.tx.stuck + 1 }, cnt := { x.cnt with retry := wrapAdd x.cnt.retry 1 } }))) ∧
        (∀ q, x.tx.resendFrom = some q → exec (.resendTimeout l false) s = .next (s.onBlock (b.setLink l { x with
          tx := { x.tx with resendFrom := some k.seq } })))) ∧
      (x.tx.keptBuzz ≠ [] → exec (.resendTimeout l true) s = .next (s.onBlock (b.setLink l { x with
        tx := { x.tx with resendBuzz := x.tx.keptBuzz, bstuck := x.tx.bstuck + 1 }, cnt := { x.cnt with retry := wrapAdd x.cnt.retry 1 } })))))

/-- Departures and generation reports (R187, R191, R225, R226): each reason takes a link that is in service out of it with its code, and a link that
trains fails its attempt; the end that is ahead sends the records that the other lacks. -/
def Obligations.LinkDeparturesAndReports : Prop :=
  (∀ (l : LinkId) (s : State),
    let b := s.block
    let x := b.link l
    let d := b.draw
    (let rq := (b.pwr.groups[groupOf l]).request
     (x.rx.peerPwr = .boil ∨ x.lc.shown = .boil ∨ rq = .boil → exec (.heartbeatLoss l) s = .next (s.onBlock (b.leaveService l 0x0203 false))) ∧
     (x.rx.peerPwr ≠ .boil → x.lc.shown ≠ .boil → rq ≠ .boil → exec (.heartbeatLoss l) s = .next (s.onBlock b))) ∧
    (16 ≤ x.tx.stuck → exec (.resendLimitExceeded l false) s = .next (s.onBlock (b.leaveService l 0x0201 false))) ∧
    (16 ≤ x.tx.bstuck → exec (.resendLimitExceeded l true) s = .next (s.onBlock (b.leaveService l 0x0201 false))) ∧
    (x.linked = true →
      (∀ f, exec (.alignmentLoss l f) s = .next (s.onBlock ((b.modLink l (fun x => x.fec f)).leaveService l 0x0202 false))) ∧
      exec (.laneLoss l) s = .next (s.onBlock (d.2.leaveService l (Config.laneLossCode d.1).toNat false))) ∧
    (x.training = true →
      (∀ f, exec (.alignmentLoss l f) s = .next (s.onBlock ((b.modLink l (fun x => x.fec f)).trainFail l 0x0205))) ∧
      exec (.laneLoss l) s = .next (s.onBlock (d.2.trainFail l 0x0205)))) ∧
  (∀ (b : Block) (l : LinkId) (code : Nat) (hold : Bool),
    ((b.link l).linked = false → b.leaveService l code hold = b) ∧
    ((b.link l).linked = true →
      let y := (b.leaveService l code hold).link l
      y.st = (if hold then LState.cold else .detect) ∧ y.lastCode = BitVec.ofNat 16 code ∧ y.partner = none ∧ y.tx.free = Four.zero ∧
      y.tx.kept = [] ∧ y.tx.keptBuzz = [] ∧ y.tx.wdrr = (b.link l).tx.wdrr ∧ y.rx.part = [] ∧ y.rx.unconf = [] ∧
      (b.leaveService l code hold).evl.head = b.evl.head + (if (b.leaveService l code hold).remap.tooFar && !b.remap.tooFar then 2 else 1))) ∧
  (∀ (o : BuzzOp) (l : LinkId) (dims : List Nat),
    let gone (c : Contrib) : Bool := match c.conf with | some q => q.1 == l | none => false
    (o.got.any gone = false → o.dropLink l dims = o) ∧
    (o.got.any gone = true → o.dropLink l dims = { o with
      got := o.got.filter (fun c => !gone c), cur := o.own, dims := dims, failed := o.failed || (decide (2 ≤ o.op) && decide (o.op ≤ 4)) })) ∧
  (∀ (l : LinkId) (rx : RxMsg) (s : State), s.block.inReset = false →
    headOk 4 (s.block.flitHead l 4 rx) = false ∨ field (s.block.flitHead l 4 rx) 0x10 1 = 2 →
    let a := s.block.arriveSeq l 4 rx
    (a.2 = [] → exec (.tunnelGenerationReport l rx) s = .next (s.onBlock a.1)) ∧
    (∃ t, exec (.tunnelGenerationReport l rx) s = .next t) ∧
    (∀ q, a.2 = [q] →
      let n := a.1.giveBack l 4 q.2
      let g := field q.2 0 4
      (hdDst q.1 ≠ n.boot.physCoord → exec (.tunnelGenerationReport l rx) s = .next (s.onBlock (n.relayMsg 128 q.1 q.2))) ∧
      (hdDst q.1 = n.boot.physCoord →
        let n := n.modLink l (fun x => { x with rx := { x.rx with peerGen := some g } })
        exec (.tunnelGenerationReport l rx) s = .next (s.onBlock
          ((n.remap.kept.filter (fun r => decide (g < r.gen))).foldl (fun n r => n.sendTunnel l 1 r.bytes) n).judgeGen.scanReady))))

/-- Training (R184, R222 to R224, R227, R228): each phase's end, the identity checks in order, the wire delay of sixteen flits, the grant, and entry
into service at a train boundary. Every training flit's tx_time is echoed in the next one sent. -/
def Obligations.LinkTraining : Prop :=
  ∀ (l : LinkId) (body : List Byte) (arrival : BitVec 32) (f : Fec) (s : State), s.block.inReset = false →
    let b := s.block
    let x := b.link l
    let heard := (x.fec f).heard body
    let n := b.setLink l heard
    let malformed := Host.Outcome.next (s.onBlock ((b.setLink l (x.fec f)).trainFail l 0x0205))
    let failed (code : Nat) := Host.Outcome.next (s.onBlock (n.trainFail l code))
    (heard.tr.echo = some (BitVec.ofNat 32 (field body 0x0C 4)) ∧ heard.st = x.st) ∧
    (x.st = .detect → x.tr.pauseUntil = 0 → exec (.trainingDetect l) s = .next (s.onBlock (b.setLink l { x with st := .equalise }))) ∧
    (x.st = .detect → x.tr.pauseUntil ≠ 0 → x.tr.pauseUntil ≤ b.now → exec (.trainingDetect l) s = .next (s.onBlock (b.setLink l { x with
      st := .equalise, tr := { x.tr with pauseUntil := 0, since := b.now } }))) ∧
    (x.st = .detect → x.tr.pauseUntil ≠ 0 → exec (.trainingRetry l) s = .next (s.onBlock (let n := b.advanceTo x.tr.pauseUntil
      n.setLink l { x with tr := { x.tr with pauseUntil := 0, since := n.now } }))) ∧
    (x.st = .equalise → exec (.trainingEqualiseDone l) s = .next (s.onBlock (b.setLink l { x with
      st := .lock, tr := { x.tr with lockRun := 0, echo := none } }))) ∧
    (x.st = .lock →
      exec (.trainingLockFlit l false body f) s = .next (s.onBlock (b.setLink l { x.fec f with tr := { x.tr with lockRun := 0 } })) ∧
      (trainingOk body = false → exec (.trainingLockFlit l true body f) s = malformed) ∧
      (trainingOk body = true →
        (x.tr.lockRun < 7 → exec (.trainingLockFlit l true body f) s = .next (s.onBlock (n.setLink l { heard with
          tr := { heard.tr with lockRun := x.tr.lockRun + 1 } }))) ∧
        (7 ≤ x.tr.lockRun → exec (.trainingLockFlit l true body f) s = .next (s.onBlock (n.setLink l { heard with
          st := .identify, tr := { heard.tr with lockRun := 8, idCount := 0, idMax := 0 } }))))) ∧
    (x.st = .identify →
      (trainingOk body = false → exec (.trainingIdentifyFlit l body arrival f) s = malformed) ∧
      (trainingOk body = true → field body 1 1 = 1 → exec (.trainingIdentifyFlit l body arrival f) s = .next (s.onBlock n)) ∧
      (trainingOk body = true → 2 ≤ field body 1 1 →
        let same := field body 3 1 = 0xB0 ∧ field body 4 4 = (partnerCoord b.boot.physCoord l).toNat ∧
          field body 2 1 = partnerLink b.boot.physCoord l
        let m := Nat.max x.tr.idMax (wireDelayOf body arrival)
        let y : Link := { heard with
          partner := some (BitVec.ofNat 6 (field body 2 1), coordOf (field body 4 4))
          tr := { heard.tr with idCount := x.tr.idCount + 1, idMax := m } }
        let z : Link := { y with wireDelay := BitVec.ofNat 16 (Nat.min m 65535) }
        (¬same → exec (.trainingIdentifyFlit l body arrival f) s = failed 0x0210) ∧
        (same → field body 8 4 ≠ b.boot.machine → exec (.trainingIdentifyFlit l body arrival f) s = failed 0x0212) ∧
        (same → field body 8 4 = b.boot.machine →
          (x.tr.idCount + 1 < 16 → exec (.trainingIdentifyFlit l body arrival f) s = .next (s.onBlock (n.setLink l y))) ∧
          (15 ≤ x.tr.idCount → 500 < m →
            exec (.trainingIdentifyFlit l body arrival f) s = .next (s.onBlock ((n.setLink l z).trainFail l 0x0211))) ∧
          (15 ≤ x.tr.idCount → m ≤ 500 → exec (.trainingIdentifyFlit l body arrival f) s = .next (s.onBlock (n.setLink l z.toGrant)))))) ∧
    (x.st = .grant →
      let g := leBytes 2 grants.buzz ++ leBytes 2 grants.bulk ++ leBytes 2 grants.parcel ++ leBytes 2 grants.tunnel
      (trainingOk body = false → exec (.trainingGrantFlit l body f) s = malformed) ∧
      (trainingOk body = true → field body 1 1 ≠ 3 → exec (.trainingGrantFlit l body f) s = .next (s.onBlock n)) ∧
      (trainingOk body = true → field body 1 1 = 3 → slice body 0x18 8 ≠ g → exec (.trainingGrantFlit l body f) s = failed 0x0205) ∧
      (trainingOk body = true → field body 1 1 = 3 → slice body 0x18 8 = g →
        exec (.trainingGrantFlit l body f) s = .next (s.onBlock (n.setLink l { heard with
          st := .standby, pwr := .boil, entering := none, tx := { x.tx.withdraw with slotPos := x.tx.slotPos, free := grants, used := Four.zero }
          tr := { heard.tr with coeffs := true, wait := b.standbyWait l, ready := x.tr.atOnce || (b.standbyWait l).isEmpty, peerReady := false } })))) ∧
    (x.training = true → exec (.trainingTimeout l) s =
      .next (s.onBlock ((b.advanceTo (x.tr.since + if x.tr.coeffs then 500 else 500000)).trainFail l 0x0205))) ∧
    (x.st = .standby → x.tr.wait = [] →
      exec (.linkReady l) s = .next (s.onBlock (b.setLink l { x with tr := { x.tr with ready := true } }))) ∧
    (x.st = .standby → x.tr.ready = true → x.tr.peerReady = true → x.tx.slotPos ≠ 0 → exec (.linkEnterService l) s = .next (s.onBlock b)) ∧
    (x.st = .standby → x.tr.ready = true → x.tr.peerReady = true → x.tx.slotPos = 0 →
      exec (.linkEnterService l) s = .next (s.onBlock (((((b.setLink l { x with
        st := .inService, pwr := .boil, rx := { x.rx with peerGen := none }
        tr := { x.tr with atOnce := false } }).sendReportGen l).releaseHeld).busyGroup l).scanReady)))

/-! ### Power -/

/-- Idle timers, entries and wakes (R385 to R387, R389, R391, R435): an idle comb or link group sinks to the next state that its floor permits when its
time comes; an entry and a wake each end at their time, and a comb that reaches or leaves Cold has lost its buffer. -/
def Obligations.IdleEntryAndWake : Prop :=
  (∀ (c : CombId) (s : State), (s.block.comb c).svc = .idle → (s.block.comb c).entering = none → (s.block.comb c).waking = false →
    let b := s.block
    let x := b.comb c
    let k := b.pwr.combCfg[c]
    let sinks (t : Pwr) (idle entry : Nat) := exec (.combIdleTimerExpiry c) s = .next (s.onBlock (let n := b.advanceTo (x.idleSince + idle)
      n.setComb c { x with entering := some t, due := n.now + entry }))
    (x.pwr = .boil → sinks .simmer 1 1) ∧
    (x.pwr = .simmer → 2 ≤ k.floor.eff → k.warm.eff ≠ 0 → k.floor.eff < 3 ∨ k.cold.eff = 0 ∨ k.warm.eff ≤ k.cold.eff →
      sinks .warm k.warm.eff 50) ∧
    (x.pwr = .simmer → 3 ≤ k.floor.eff → k.cold.eff ≠ 0 → k.warm.eff = 0 ∨ k.cold.eff < k.warm.eff → sinks .cold k.cold.eff 250) ∧
    (x.pwr = .warm → 3 ≤ k.floor.eff → k.cold.eff ≠ 0 → sinks .cold k.cold.eff 250) ∧
    (x.pwr = .cold ∨ (x.pwr = .simmer ∧ k.floor.eff < 2) ∨ (x.pwr = .warm ∧ (k.floor.eff < 3 ∨ k.cold.eff = 0)) →
      exec (.combIdleTimerExpiry c) s = .next (s.onBlock b))) ∧
  (∀ (d : DimId) (s : State),
    let b := s.block
    let g := b.pwr.groups[d]
    let k := b.pwr.lnkCfg[d]
    let cs := g.sinks (if b.mustSimmer d then 1 else k.floor.eff) k.warm.eff k.cold.eff
    g.waking = false → g.entering = none → b.serving = true → (groupLinks d).all (fun l => (b.link l).tx.quiet) = true →
    (cs = [] → exec (.linkGroupIdleTimerExpiry d) s = .next (s.onBlock b)) ∧
    (∀ c rest, cs = c :: rest →
      let n := b.advanceTo (rest.foldl (fun t q => Nat.min t q.2) c.2)
      exec (.linkGroupIdleTimerExpiry d) s = .next (s.onBlock
        (n.sinkGroup d (cs.foldl (fun t q => if q.2 ≤ n.now ∧ t.code < q.1.code then q.1 else t) g.request))))) ∧
  (∀ (g : Group) (floor warm cold at' : Nat) (t : Pwr),
    (t, at') ∈ g.sinks floor warm cold ↔ g.request.code < t.code ∧ ∃ idle, at' = Nat.max (g.idleSince + idle) (g.boilAt + 7) ∧
      ((t = .simmer ∧ idle = 7) ∨ (t = .warm ∧ 2 ≤ floor ∧ warm ≠ 0 ∧ idle = warm) ∨ (t = .cold ∧ 3 ≤ floor ∧ cold ≠ 0 ∧ idle = cold))) ∧
  (∀ (b : Block) (d : DimId) (t : Pwr),
    let n := b.sinkGroup d t
    (n.pwr.groups[d]).request = t ∧
    (∀ l ∈ groupLinks d, (b.link l).parked = false → (b.link l).st = .inService → (b.link l).pwr = .simmer → (b.link l).lc.shown ≠ t →
      (n.link l).lc.due = true) ∧
    (∀ l ∈ groupLinks d, 2 ≤ t.code → (b.link l).parked = true → (b.link l).entering = none → (b.link l).pwr.code < t.code →
      (n.link l).entering = some t ∧ b.now + entryKt t ≤ (n.pwr.groups[d]).due)) ∧
  (∀ (c : CombId) (t : Pwr) (s : State), (s.block.comb c).entering = some t →
    let b := s.block.advanceTo (s.block.comb c).due
    let x := b.comb c
    let n := b.setComb c { x with pwr := t, entering := none, store := if t = .cold then none else x.store
                                  due := if x.waking then b.now + wakeKt t else x.due }
    exec (.powerEntryComplete (.comb c)) s = .next { s.onBlock n with bufs := n.keptBufs s.bufs }) ∧
  (∀ (d : DimId) (t : Pwr) (s : State), (s.block.pwr.groups[d]).entering = some t →
    let b := s.block.advanceTo (s.block.pwr.groups[d]).due
    let n := ((groupLinks d).foldl (fun b l => b.modLink l (fun x => match x.entering with
      | some p => { x with pwr := p, entering := none } | none => x)) b).modGroup d
      (fun g => { g with entering := none, due := if g.waking then b.now + wakeKt t else g.due })
    exec (.powerEntryComplete (.group d)) s = .next { s.onBlock n with bufs := n.keptBufs s.bufs }) ∧
  (∀ (b : Block) (m : Vector Mem 4) (c : CombId), (b.keptBufs m)[c] = if (b.comb c).pwr = .cold then [] else m[c]) ∧
  (∀ (c : CombId) (s : State), (s.block.comb c).waking = true → (s.block.comb c).entering = none → (s.block.comb c).svc = .idle →
    let n := s.onBlock ((s.block.advanceTo (s.block.comb c).due).setComb c { s.block.comb c with pwr := .boil, waking := false })
    exec (.wakeComplete (.comb c)) s = .next (if (s.block.comb c).pwr = .cold then n.withBuf c [] else n)) ∧
  (∀ (d : DimId) (s : State), (s.block.pwr.groups[d]).waking = true → (s.block.pwr.groups[d]).entering = none →
    let n := (s.block.advanceTo (s.block.pwr.groups[d]).due).modGroup d (fun g => { g with waking := false })
    exec (.wakeComplete (.group d)) s = .next (s.onBlock (if (s.block.pwr.groups[d]).request = .boil then
      (groupLinks d).foldl (fun b l => b.modLink l Link.ungate) n else n))) ∧
  (wakeKt .simmer = 1 ∧ wakeKt .warm = 625 ∧ wakeKt .cold = 10000 ∧ entryKt .simmer = 1 ∧ entryKt .warm = 50 ∧ entryKt .cold = 250)

/-- Simmer, parking and waking of links, and the hold of a hint (R390 to R393): each happens when both ends have shown it and nothing waits, at a train
boundary, and not otherwise. -/
def Obligations.LinkPower : Prop :=
  (∀ (l : LinkId) (s : State),
    let b := s.block
    let x := b.link l
    let g := groupOf l
    let rq := (b.pwr.groups[g]).request
    let may := x.st = .inService ∧ x.pwr = .boil ∧ rq ≠ .boil ∧ x.lc.shown ≠ .boil ∧ x.rx.peerPwr ≠ .boil ∧ x.tx.quiet = true ∧ x.tx.slotPos = 0
    (may → exec (.linkSimmerEntry l) s = .next (s.onBlock (b.setLink l { x with pwr := .simmer }))) ∧
    (¬may → exec (.linkSimmerEntry l) s = .next (s.onBlock (b.setLink l x))) ∧
    (x.st = .inService → x.pwr = .simmer → exec (.linkSimmerExit l) s = .next (s.onBlock
      ((groupLinks g).foldl (fun b k => b.modLink k (fun y => if y.st = .inService ∧ y.pwr = .simmer then
          { y with pwr := .boil, lc := { y.lc with due := true } } else y))
        (b.modGroup g (fun g => { g with request := .boil, boilAt := b.now }))))) ∧
    (x.st ≠ .inService ∨ x.pwr ≠ .simmer → exec (.linkSimmerExit l) s = .next (s.onBlock b)) ∧
    (let may := x.st = .inService ∧ 2 ≤ rq.code ∧ 2 ≤ x.lc.shown.code ∧ 2 ≤ x.rx.peerPwr.code ∧ x.tx.quiet = true ∧ x.rx.unconf = [] ∧
       x.rx.waiting = [] ∧ x.lc.due = false ∧ x.tx.slotPos = 0
     let t := rq.deeper x.rx.peerPwr
     (may → exec (.linkPark l) s = .next (s.onBlock ((b.setLink l { x with
       st := .cold, parked := true, entering := some t, tx := x.tx.withdraw, rx := x.rx.withdraw
       lc := ⟨false, false, false, x.lc.heartbeat, .boil⟩, tr := { x.tr with ready := false, peerReady := false, wait := [] } }).modGroup g
       (fun y => { y with entering := some (match y.entering with | some o => o.deeper t | none => t), due := Nat.max y.due (b.now + entryKt t) })))) ∧
     (¬may → exec (.linkPark l) s = .next (s.onBlock b))) ∧
    (x.parked = true → x.entering = none → exec (.linkWake l) s = .next (s.onBlock (b.setLink l { x with
      st := .detect, pwr := .boil, parked := false
      tr := { x.tr with lockRun := 0, idCount := 0, atOnce := true, pauseUntil := 0, since := b.now } })))) ∧
  (∀ (d : DimId) (t : Nat) (s : State), (s.block.pwr.groups[d]).holdUntil = some t →
    exec (.wakeHintHoldExpiry d) s = .next (s.onBlock ((s.block.advanceTo t).modGroup d (fun g => { g with holdUntil := none }))))

/-- Combs that fail and return, and lost references (R331 to R334, R384, R387, R407): a failed comb's step aborts with 0x0340 and gives back its cells
and tokens, its stores and its buffer are lost, and the last one stops the chip; the watchdog runs only while the step waits on nothing outside. -/
def Obligations.CombFailuresAndClocks : Prop :=
  (∀ (c : CombId) (s : State), (s.block.comb c).svc = .idle ∨ (s.block.comb c).svc = .running →
    let b := s.block
    let p := if (b.comb c).svc = .running then (b.comb c).part else none
    let failed (b : Block) (cause : Nat) : Block :=
      let n := (match p with | some p => (b.originate p 0x0340 0).returnAll p | none => b)
      let n := n.modComb c (fun x => { x with
        svc := .failed, pwr := .cold, entering := none, waking := false, store := none, failCause := byteOf cause, failCode := 0x0340
        prods := [], ops := [] })
      let n := n.log 0x0340 (.comb c) p ([c.val, cause] ++ (match p with | some p => [p.val] | none => []))
      if allCombs.all (fun c => (n.comb c).svc == .released || (n.comb c).svc == .failed) then n.halt 0x0341 [(0x0341, .comb c, [])] else n
    let on (n : Block) := Host.Outcome.next { s.onBlock n with bufs := n.keptBufs s.bufs }
    exec (.combFailure c .sramUncorrectable) s = on (failed b 1) ∧
    exec (.combFailure c .parity) s = on (failed b 2) ∧
    exec (.combFailure c .sramCorrectable) s = on ((b.modComb c (fun x => { x with
      cnt := { x.cnt with sramCorr := satAdd x.cnt.sramCorr 1 } })).log 0x0331 (.comb c) none []) ∧
    (b.stuckInside c = true → exec (.combWatchdog c) s = on (failed (b.advanceTo ((b.comb c).lastIssue + 50000)) 3)) ∧
    (b.stuckInside c = false → exec (.combWatchdog c) s = on b)) ∧
  (∀ (b : Block) (c : CombId), b.stuckInside c = true → (b.comb c).svc = .running ∧ ∃ p r, (b.comb c).part = some p ∧ b.run? p = some r ∧
    r.agreed = true ∧ r.abort = none ∧ r.launches = [] ∧ (∀ o ∈ r.buzz, o.capped = true) ∧ (∀ o ∈ r.rounds, o.st = .drained)) ∧
  (∀ (c : CombId) (s : State), (s.block.comb c).waking = true → (s.block.comb c).svc = .released ∨ (s.block.comb c).svc = .failed →
    s.block.serving = true →
    let x := s.block.comb c
    let n := s.block.advanceTo x.due
    exec (.combReturnWakeDone c true) s = .next ((s.onBlock (n.setComb c { x with
      svc := .idle, pwr := .boil, waking := false, store := none, idleSince := n.now }).scanReady).withBuf c []) ∧
    exec (.combReturnWakeDone c false) s = .next ((s.onBlock ((n.setComb c { x with
      svc := .failed, waking := false, failCause := 4, failCode := 0x0340 }).log 0x0340 (.comb c) none [c.val, 4])).withBuf c [])) ∧
  (∀ s : State, (s.block.inReset = false →
      exec .coreRefclkLoss s = .next (s.onBlock ((s.block.advanceTo (s.block.now + 25)).halt 0x0342 [(0x0342, .kettle, [])]))) ∧
    exec .lnkRefclkLoss s = .next (s.onBlock (allLinks.foldl (fun b l => b.linkFails l 0x0202) (s.block.advanceTo (s.block.now + 25))))) ∧
  (∀ (b : Block) (code : Nat) (es : List (Nat × EvUnit × List Nat)), b.kettle.stopped = false →
    let n := b.halt code es
    n.kettle.stopped = true ∧ n.kettle.haltCode = BitVec.ofNat 16 code ∧ n.ready = [] ∧ (∀ p, (n.part p).run = none) ∧
    n.host.parcelsOut = [] ∧ n.host.parcelsIn = [] ∧
    (∀ l, (n.link l).tx.qBulk = [] ∧ (n.link l).tx.qParcel = [] ∧ (n.link l).tx.curBulk = ([], []) ∧ (n.link l).tx.curParcel = ([], [])))

/-! ### Resets, boundary scan and start-up -/

/-- The resets and the test access port (R394 to R396, R417, R448, R454 to R456): what each keeps, its cause, which source of one KT acts, and when start-up
may begin; EXTEST, CLAMP and HIGHZ reset the non-Kettle domains as CHIP_RST_N does and hold them. -/
def Obligations.ResetsAndScan : Prop :=
  ∀ (pins shift : BitVec 78) (s : State),
    let b := s.block
    let held := b.tap.ir = .extest ∨ b.tap.ir = .clamp ∨ b.tap.ir = .highz
    let ir (i : TapIr) : Block := { b with tap := { b.tap with ir := i } }
    let holds (i : TapIr) : Block := if held then ir i else if b.resetActs 3 then (ir i).nonKettleReset 3 3 else ir i
    let frees (i : TapIr) : Block := if held then { ir i with kettle := { b.kettle with startAt := Nat.max b.kettle.startAt (b.now + 1) } } else ir i
    exec .kettlePowerOn s = .next { s.onBlock (b.draw.2.kettleReset true) with fuses := s.fuses.cut b.draw.1 } ∧
    exec .kettleSelfWatchdog s = .next { s.onBlock (b.draw.2.kettleReset false) with fuses := s.fuses.cut b.draw.1 } ∧
    (b.resetNow = none → b.pinReset = (b.advanceTo (b.now + 25)).nonKettleReset 3 3) ∧
    (∀ k, b.resetNow = some k → k ≤ 3 → b.pinReset = b) ∧
    (∀ k, b.resetNow = some k → 3 < k → b.pinReset = b.resetRecorded 3 3) ∧
    (b.kettle.rstLow = false → exec (.chipRstN true) s = .next (s.onBlock (let n := b.pinReset
      { n with kettle := { n.kettle with rstLow := true } }))) ∧
    (b.kettle.rstLow = true → exec (.chipRstN false) s = .next (s.onBlock { b with
      kettle := { b.kettle with rstLow := false, startAt := Nat.max b.kettle.startAt (b.now + 1) } })) ∧
    exec .railFault s = .next (s.onBlock (let n := b.pinReset
      { n with kettle := { n.kettle with railBad := true, startAt := n.now + 25000 } })) ∧
    exec .extest s = .next (s.onBlock (holds .extest)) ∧ exec .clamp s = .next (s.onBlock (holds .clamp)) ∧
    exec .highz s = .next (s.onBlock (holds .highz)) ∧
    exec .bypass s = .next (s.onBlock (frees .bypass)) ∧ exec .tapReset s = .next (s.onBlock (frees .bypass)) ∧
    exec (.samplePreload pins shift) s = .next (s.onBlock { frees .sample with tap := ⟨.sample, pins, shift⟩ }) ∧
    (∀ cause prec, let n := b.nonKettleReset cause prec
      n.boot.phase = .none ∧ n.kettle.kt = b.kettle.kt ∧ n.kettle.startAt = b.kettle.kt + 250 ∧ n.kettle.resetCause = BitVec.ofNat 4 cause ∧
      n.kettle.rstAt = some (b.now, prec) ∧ n.kettle.haltCode = 0 ∧ n.kettle.stopped = false ∧
      n.evl.head = (if b.resetNow = none then b.evl.head + 1 else b.evl.head) ∧ n.msp.session = b.msp.session ∧
      n.nvm.fetches = b.nvm.fetches ∧ n.nvm.due = b.nvm.due ∧ (∀ kt, n.nvm.mayFetch kt = b.nvm.mayFetch kt) ∧ n.nvm.busy = false ∧
      (∀ p, n.part p = Part.reset) ∧ n.host = HostSt.reset ∧ n.hcbFree = 24576 ∧
      (∀ l, (n.link l).st = .cold ∧ (n.link l).tr.coeffs = (b.link l).tr.coeffs)) ∧
    (∀ on, let n := b.kettleReset on
      n.kettle.kt = 0 ∧ n.evl.entries = [] ∧ n.evl.head = 0 ∧ n.msp.session = false ∧ n.msp.lockUntil = 0 ∧ n.boot = Boot.reset ∧
      (∀ l, (n.link l).tr.coeffs = false)) ∧
    (s.fuses.busy = none → s.fuses.cut b.draw.1 = { s.fuses with data := Vector.replicate 12 0 })

/-- Start-up phase by phase (R342 to R344, R353 to R358, R360, R408, R421, R454): the read commands that the NVM port drives; each check's failure ends
the start with its code; the layout leaves the chip Ready; a program is fetched again when its fetch is due. -/
def Obligations.StartUp : Prop :=
  ∀ (s : State),
    let b := s.block
    let failed (b : Block) (code detail : Nat) (u : EvUnit) : Block := (let n : Block := { b with
        boot := { b.boot with phase := .failed, code := BitVec.ofNat 16 code, detail := BitVec.ofNat 32 detail, image := [] }
        nvm := { b.nvm with busy := false } }
      n.log code u none [code, detail])
    let early := b.boot.phase = .straps ∨ b.boot.phase = .header ∨ b.boot.phase = .core
    (∀ (crd : Coord) (mode : Bool), b.boot.phase = .none → b.kettle.rstLow = false → b.mspOff = false →
      let t := b.advanceTo b.kettle.startAt
      let r := if b.kettle.ending then t.releaseTrip else t
      let n : Block := { r with kettle := { r.kettle with ending := false, railBad := false } }
      (r.kettle.thermTrip = true → exec (.startUpBegin crd mode) s = .next (s.onBlock n)) ∧
      (r.kettle.thermTrip = false → exec (.startUpBegin crd mode) s = .next (s.onBlock { n with
        boot := { b.boot with phase := .straps, physCoord := crd, strapMode := mode, code := 0, detail := 0 }, nvm := { b.nvm with busy := true } }))) ∧
    (headerBursts false = [⟨[0x0C], 0, 256, 16, 8⟩] ∧ headerBursts true = [⟨[0xEE, 0x11], 0, 256, 16, 20⟩]) ∧
    (∀ mode div dummy addr len : Nat,
      ((nvmBursts mode div dummy addr len).map NvmRead.len).foldl (· + ·) 0 = len ∧
      ∀ q ∈ nvmBursts mode div dummy addr len, 1 ≤ q.len ∧ q.len ≤ 4096 ∧ addr ≤ q.addr ∧ q.addr + q.len ≤ addr + len ∧ q.div = div ∧
        q.dummy = dummy ∧ q.cmd = nvmCommand mode) ∧
    (∀ h : List Byte, early → b.boot.hdrDone = false → h.length = 256 →
      let b := b.nvmReads (headerBursts b.boot.strapMode)
      (∀ code, checkHeader h = some code → exec (.headerReadDone h) s = .next (s.onBlock (failed b code 0 .kettle))) ∧
      (checkHeader h = none → exec (.headerReadDone h) s = .next (s.onBlock { b with boot := { b.boot with
        phase := if b.boot.coreDone then .stream else .core, hdrDone := true, imageId := BitVec.ofNat 32 (field h 0x1C 4)
        nvmCfg := BitVec.ofNat 32 (field h 0x14 4), scrubHours := field h 0x18 2, partCount := field h 6 2, sigOff := field h 8 4
        imageLen := field h 0x0C 4, image := h } }))) ∧
    (∀ bad : Vector Bool 4, early → b.boot.coreDone = false →
      let n : Block := { b with hbm := { b.hbm with stackOf := Vector.ofFn (fun (i : Fin 4) =>
        { b.hbm.stackOf[i] with st := if bad[i] then 2 else 1 }) } }
      (∀ i : StackId, (List.finRange 4).find? (fun (i : StackId) => bad[i]) = some i →
        exec (.coreInitDone bad) s = .next (s.onBlock (failed n 0x0513 0 (.stack i)))) ∧
      ((∀ i : StackId, bad[i] = false) → exec (.coreInitDone bad) s = .next (s.onBlock { n with boot := { b.boot with
        coreDone := true, phase := if b.boot.hdrDone then .stream else b.boot.phase } }))) ∧
    (∀ rest : List Byte, b.boot.phase = .stream → 256 + rest.length = b.boot.imageLen →
      exec (.imageStreamDone rest) s = .next (s.onBlock { b with
        boot := { b.boot with phase := .signature, image := b.boot.image ++ rest }
        nvm := { b.nvm with busy := false, reads := b.nvm.reads ++ cfgBursts b.boot.nvmCfg.toNat 256 rest.length } })) ∧
    (b.boot.phase = .signature →
      let n : Block := { b with boot := { b.boot with anchored := !allZero s.fuses.anchor } }
      (∀ code, checkSignature s.fuses b.boot.image b.boot.sigOff = some code →
        exec .signatureVerifyDone s = .next (s.onBlock (failed n code 0 .kettle))) ∧
      (checkSignature s.fuses b.boot.image b.boot.sigOff = none →
        exec .signatureVerifyDone s = .next (s.onBlock { n with boot := { n.boot with phase := .content } }))) ∧
    (b.boot.phase = .content →
      let n : Block := { b with boot := { b.boot with machine := field b.boot.image 0x10 4 } }
      (∀ detail, checkContent b.boot.image b.boot.physCoord = some (0x0506, detail) →
        exec .contentVerifyDone s = .next (s.onBlock (failed b 0x0506 detail .kettle))) ∧
      (∀ code detail, checkContent b.boot.image b.boot.physCoord = some (code, detail) → code ≠ 0x0506 →
        exec .contentVerifyDone s = .next (s.onBlock (failed n code detail .kettle))) ∧
      (checkContent b.boot.image b.boot.physCoord = none →
        exec .contentVerifyDone s = .next (s.onBlock { n with boot := { n.boot with phase := .layout } }))) ∧
    (b.boot.phase = .layout → ∃ n : Block, exec .layoutDone s = .next (s.onBlock n) ∧ n.boot = { b.boot with phase := .ready, image := [] } ∧
      (∀ p : PartId, n.part p = match imagePart b.boot.image p with | some i => Part.laidOut i | none => Part.reset) ∧
      (∀ c, n.comb c = { b.comb c with svc := .idle, pwr := .boil, idleSince := b.now }) ∧
      (∀ l, n.link l = if (b.linkAbsent l || (b.link l).tr.takenOut) = true then b.link l
        else { b.link l with st := .detect, pwr := .boil, tr := { (b.link l).tr with since := b.now } }) ∧
      n.hbm.scrubHours = b.boot.scrubHours ∧ n.hbm.scrubOn = true ∧ n.hbm.passStart = b.now ∧ n.nvm = { b.nvm with due := [] } ∧ n.host = b.host ∧ n.remap = b.remap ∧ n.evl = b.evl) ∧
    (∀ (p : PartId) (bytes : List Byte), b.nvm.due.contains p = true → b.nvm.mayFetch (Nat.max b.now (b.part p).fetchAt) = true → b.boot.phase = .ready →
      let x := b.part p
      let t := (b.advanceTo x.fetchAt).nvmReads (cfgBursts b.boot.nvmCfg.toNat (b.image p).progOff (8 * (b.image p).prog.length))
      let n := ({ t with nvm := { t.nvm with fetches := wrapAdd t.nvm.fetches 1 } }).logFetch p
      let leave (b : Block) : Block := { b with nvm := { b.nvm with due := b.nvm.due.filter (· != p) } }
      let good := bytes.length = 8 * (n.image p).prog.length ∧ sha384 bytes = (n.image p).progDigest
      (good → exec (.programFetch p bytes) s = .next (s.onBlock ((leave n).setPart p { x with
        prog := progWords bytes, progSt := .available, fetchTries := 0, fetchAt := 0 }))) ∧
      (¬good → x.fetchTries < 2 → exec (.programFetch p bytes) s = .next (s.onBlock ((n.logFetch p).setPart p { x with
        fetchTries := x.fetchTries + 1, fetchAt := (n.logFetch p).now + 25000 }))) ∧
      (¬good → 2 ≤ x.fetchTries → exec (.programFetch p bytes) s = .next (s.onBlock ((leave (n.logFetch p)).setPart p { x with
        progSt := .unavailable, fetchTries := 3 }))))

/-! ### Memory service -/

/-- The scrubber, the sensors, failed stacks and the mirror audit (R378, R400, R402, R403, R405, R408, R453, R454): each command runs in every state; a
sector that straddles two items is handled for both; a pass ends with the last sector. -/
def Obligations.MemoryService : Prop :=
  (∀ (res : ScrubResult) (progOf : Option PartId) (k : StackId) (t : BitVec 8) (ts : Vector Int 8) (late : List (BitVec 32)) (s : State),
    (∃ n, exec (.scrubSectorRead res progOf) s = .next n) ∧ (∃ n, exec (.hbmTempRead k t) s = .next n) ∧
    (∃ n, exec (.dieSensorRead ts) s = .next n) ∧ (∃ n, exec (.hbmStackErrorLimit k) s = .next n) ∧
    (∃ n, exec (.hbmReadTimeout k) s = .next n) ∧ (∃ n, exec (.hbmTrainingLoss k) s = .next n) ∧
    (∃ n, exec (.mirrorAudit late) s = .next n)) ∧
  (∀ (res : ScrubResult) (progOf : Option PartId) (s : State),
    let b := s.block
    (b.hbm.scrubOn = false ∨ b.inReset = true → exec (.scrubSectorRead res progOf) s = .next (s.onBlock b)) ∧
    (b.hbm.scrubOn = true → b.inReset = false →
      let k := b.hbm.next.toNat
      let prog := if (b.locate (32 * k)).1 = .sys then progOf else none
      let n : Block := (match res with
        | .clean => b | .correctable => b.hbmError ⟨k, false⟩ true prog
        | .uncorrectable => (b.places k).foldl (fun n q => n.scrubbedBad q prog) (b.hbmError ⟨k, true⟩ true prog))
      (k + 1 < 3221225472 → exec (.scrubSectorRead res progOf) s =
        .next (s.onBlock { n with hbm := { n.hbm with next := BitVec.ofNat 32 (k + 1) } })) ∧
      (3221225472 ≤ k + 1 → exec (.scrubSectorRead res progOf) s = .next (s.onBlock { n with hbm := { n.hbm with
        next := 0, passes := wrapAdd n.hbm.passes 1, passStart := n.now } })))) ∧
  (∀ (b : Block) (e : MemErr) (scrub : Bool) (prog : Option PartId),
    let a := 32 * e.sector
    let k := stackOf a
    let n := b.hbmError e scrub prog
    n.evl = b.evl.push { kt := b.now, code := if e.ue then (if scrub then 0x0304 else 0x0303) else (if scrub then 0x0302 else 0x0301)
                         unit := 0x03, index := byteOf k.val, part := partField (prog.orElse (fun _ => (b.locate a).1.part?))
                         detail := detailWords [a % 2 ^ 32, a / 2 ^ 32, b.regionCode (b.locate a) prog.isSome], bad := false } ∧
    (n.hbm.stackOf[k]).eccCorr = (if e.ue then (b.hbm.stackOf[k]).eccCorr else satAdd (b.hbm.stackOf[k]).eccCorr 1) ∧
    (n.hbm.stackOf[k]).eccUncorr = (if e.ue then satAdd (b.hbm.stackOf[k]).eccUncorr 1 else (b.hbm.stackOf[k]).eccUncorr)) ∧
  (∀ (k : StackId) (t : BitVec 8) (s : State),
    let n := s.block.modStack k (fun x => { x with temp := t, hot := decide (85 ≤ t.toNat) })
    (s.block.inReset = true ∨ (s.block.hbm.stackOf[k]).st = 0 → exec (.hbmTempRead k t) s = .next (s.onBlock s.block)) ∧
    (s.block.inReset = false → (s.block.hbm.stackOf[k]).st ≠ 0 →
      exec (.hbmTempRead k t) s = .next (s.onBlock (if 105 ≤ t.toNat then n.trip t.toNat else n)))) ∧
  (∀ (ts : Vector Int 8) (s : State),
    let n : Block := { s.block with kettle := { s.block.kettle with dieTemp := ts } }
    ((∀ t ∈ ts.toList, t < 115) → exec (.dieSensorRead ts) s = .next (s.onBlock n)) ∧
    (∀ t, ts.toList.find? (fun t => decide (115 ≤ t)) = some t → exec (.dieSensorRead ts) s = .next (s.onBlock (n.trip t)))) ∧
  (∀ (b : Block) (v : Int), (b.trip v).kettle.thermTrip = true ∧ (b.kettle.thermTrip = true → b.trip v = b) ∧
    (b.kettle.thermTrip = false → (b.trip v).evl.head = b.evl.head + 1)) ∧
  (∀ (k : StackId) (s : State),
    let b := s.block
    let works := b.inReset = false ∧ (b.hbm.stackOf[k]).st = 1
    let failed (b : Block) : Block := (b.modStack k (fun x => { x with st := 2 })).halt 0x0370 [(0x0370, .stack k, [])]
    (works → 64 ≤ (b.hbm.stackOf[k]).ueSectors → exec (.hbmStackErrorLimit k) s = .next (s.onBlock (failed b))) ∧
    (¬works ∨ (b.hbm.stackOf[k]).ueSectors < 64 → exec (.hbmStackErrorLimit k) s = .next (s.onBlock b)) ∧
    (works → exec (.hbmReadTimeout k) s = .next (s.onBlock (failed (b.advanceTo (b.now + 2500))))) ∧
    ((b.hbm.stackOf[k]).st ≠ 1 → exec (.hbmReadTimeout k) s = .next (s.onBlock b)) ∧
    (works → exec (.hbmTrainingLoss k) s = .next (s.onBlock (failed b))) ∧
    (¬works → exec (.hbmTrainingLoss k) s = .next (s.onBlock b))) ∧
  (∀ (m : Mirror) (now : Nat) (v : BitVec 24),
    (m.val = v → m.audit now v = ({ m with diffAt := none }, false)) ∧
    (m.val ≠ v → m.diffAt = none → m.audit now v = ({ m with diffAt := some now }, false)) ∧
    (∀ t, m.val ≠ v → m.diffAt = some t → now < t + 250000 → m.audit now v = (m, false)) ∧
    (∀ t, m.val ≠ v → m.diffAt = some t → t + 250000 ≤ now →
      m.audit now v = ({ m with val := v, mseq := m.mseq + 1, diffAt := none }, true))) ∧
  (∀ (late : List (BitVec 32)) (s : State),
    let b := s.block
    exec (.mirrorAudit late) s = .next (s.onBlock (b.audit late)) ∧
    (∀ c : CombId, (b.audit late).mirrors.comb[c] =
      ((b.mirrors.comb[c].hold (late.contains (BitVec.ofNat 32 (cmbAddr c 0))) (combView (b.comb c))).audit b.now (combView (b.comb c))).1) ∧
    (∀ l : LinkId, (b.audit late).mirrors.link[l] =
      ((b.mirrors.link[l].hold (late.contains (BitVec.ofNat 32 (lnkAddr l 0))) (linkView (b.link l))).audit b.now (linkView (b.link l))).1) ∧
    (∀ p : PartId, (b.audit late).mirrors.part[p] =
      ((b.mirrors.part[p].hold (late.contains (BitVec.ofNat 32 (prtAddr p 0))) (b.partView p)).audit b.now (b.partView p)).1))

/-- The pager (R322, R323, R339, R403): the least recently used live page that is not pinned leaves as a record, its header is read back before the frame
is given up, and a page that comes in, in the order of the queue, is checked against the kept header and its CRC. -/
def Obligations.Paging : Prop :=
  ∀ (p : PartId) (errs : List MemErr) (s : State),
    let b := s.block
    let x := b.part p
    let i := b.image p
    (∃ n, exec (.pageOut p errs) s = .next n) ∧
    (∀ (y : Spill) (q : Page), x.spill = some y → b.kettle.stopped = false → y.broken = false → y.writing = none → i.share ≤ x.frames →
      x.deadPage = none → b.wantsPage p = true → b.victim p = some q →
      let num := lowestFree (y.kept.map SpillRec.num) y.recs 0
      let data := ((b.tmem p q.tensor).pageWords q.copy q.page).flatMap (fun w => leBytes 4 w.toNat)
      let hdr := spillHdr p q (x.outSeq + 1) data
      (y.recs ≤ num → exec (.pageOut p errs) s = .next (s.onBlock b)) ∧
      (num < y.recs → exec (.pageOut p []) s = .next (s.onBlock ((b.setPart p { x with
        outSeq := x.outSeq + 1, spill := some { y with writing := some ({ q with spilled := some num }, hdr) } }).hostWrite y.port y.vf
        (y.addr + 16448 * num) (hdr ++ data) true)))) ∧
    (b.kettle.stopped = true → exec (.pageOut p errs) s = .next (s.onBlock b) ∧
      ∀ rd, exec (.pageInComplete p rd errs) s = .next (s.wentOn p b)) ∧
    (∀ (y : Spill) (q : Page) (h : List Byte) (num : Nat), x.spill = some y → y.writing = some (q, h) → q.spilled = some num →
      let same := x.pages.any (fun z => z.is q.tensor q.copy q.page && z.spilled.isNone && z.live && z.used == q.used)
      (∀ rd, rd ≠ .ok h → exec (.pageOutReadback p rd errs) s = .next (s.wentOn p ((b.setPart p { x with
        spill := some { y with writing := none, broken := true } }).logPart 0x0320 p [q.tensor, 16 * q.page]))) ∧
      (same = false → exec (.pageOutReadback p (.ok h) errs) s = .next (s.wentOn p (b.setPart p { x with
        spill := some { y with writing := none }, pageOut := wrapAdd x.pageOut 1 }))) ∧
      (same = true → exec (.pageOutReadback p (.ok h) errs) s = .next (s.wentOn p ((b.setPart p { x with
        pageOut := wrapAdd x.pageOut 1
        pages := x.pages.map (fun z => if z.is q.tensor q.copy q.page then { z with spilled := some num } else z)
        spill := some { y with writing := none, kept := y.kept ++ [⟨num, h, (((b.tmem p q.tensor).poison q.copy).drop (16 * q.page)).take 16⟩] }
        }).steepResume p errs)))) ∧
    (∀ (q : Page) (x' : Part), b.kettle.stopped = false → b.pageWant p = some q → x.makeRoom i.share = some x' →
      (∀ bs, exec (.pageInComplete p (.ok bs) errs) s =
        .next (s.wentOn p (((b.setPart p x').pageData p q (.ok bs) errs).steepResume p errs))) ∧
      exec (.pageInComplete p .failed errs) s = .next (s.wentOn p ((((b.setPart p x').pageData p q .failed errs).hostReadFailed p
        (match x'.spill with | some y => y.port | none => 0)).steepResume p errs))) ∧
    (∀ (k : PageKey) (ks : List PageKey), x.pageQ = k :: ks → x.away k = true →
      b.pageWant p = x.pages.find? (fun q => q.is k.1 k.2.1 k.2.2 && q.spilled.isSome))
end

