-- ==== Sys2Proof/Laws/State.lean ====
section
/-! SUPPORT. What each update of the block leaves: one lemma per field per update, true by rfl, so that no proof unfolds a record
update; and the units read back after an update. -/

namespace Sys2Proof.Machine
open Sys2Proof

/-! ### setComb -/

@[simp] theorem Block.setComb_kettle (b : Block) (c : CombId) (x : Comb) : (b.setComb c x).kettle = b.kettle := rfl
@[simp] theorem Block.setComb_boot (b : Block) (c : CombId) (x : Comb) : (b.setComb c x).boot = b.boot := rfl
@[simp] theorem Block.setComb_msp (b : Block) (c : CombId) (x : Comb) : (b.setComb c x).msp = b.msp := rfl
@[simp] theorem Block.setComb_evl (b : Block) (c : CombId) (x : Comb) : (b.setComb c x).evl = b.evl := rfl
@[simp] theorem Block.setComb_nvm (b : Block) (c : CombId) (x : Comb) : (b.setComb c x).nvm = b.nvm := rfl
@[simp] theorem Block.setComb_remap (b : Block) (c : CombId) (x : Comb) : (b.setComb c x).remap = b.remap := rfl
@[simp] theorem Block.setComb_tap (b : Block) (c : CombId) (x : Comb) : (b.setComb c x).tap = b.tap := rfl
@[simp] theorem Block.setComb_links (b : Block) (c : CombId) (x : Comb) : (b.setComb c x).links = b.links := rfl
@[simp] theorem Block.setComb_parts (b : Block) (c : CombId) (x : Comb) : (b.setComb c x).parts = b.parts := rfl
@[simp] theorem Block.setComb_host (b : Block) (c : CombId) (x : Comb) : (b.setComb c x).host = b.host := rfl
@[simp] theorem Block.setComb_hbm (b : Block) (c : CombId) (x : Comb) : (b.setComb c x).hbm = b.hbm := rfl
@[simp] theorem Block.setComb_pwr (b : Block) (c : CombId) (x : Comb) : (b.setComb c x).pwr = b.pwr := rfl
@[simp] theorem Block.setComb_mirrors (b : Block) (c : CombId) (x : Comb) : (b.setComb c x).mirrors = b.mirrors := rfl
@[simp] theorem Block.setComb_hcbFree (b : Block) (c : CombId) (x : Comb) : (b.setComb c x).hcbFree = b.hcbFree := rfl
@[simp] theorem Block.setComb_frozen (b : Block) (c : CombId) (x : Comb) : (b.setComb c x).frozen = b.frozen := rfl
@[simp] theorem Block.setComb_hcbResErr (b : Block) (c : CombId) (x : Comb) : (b.setComb c x).hcbResErr = b.hcbResErr := rfl
@[simp] theorem Block.setComb_hcbSramCorr (b : Block) (c : CombId) (x : Comb) : (b.setComb c x).hcbSramCorr = b.hcbSramCorr := rfl
@[simp] theorem Block.setComb_heldFlits (b : Block) (c : CombId) (x : Comb) : (b.setComb c x).heldFlits = b.heldFlits := rfl
@[simp] theorem Block.setComb_ready (b : Block) (c : CombId) (x : Comb) : (b.setComb c x).ready = b.ready := rfl
@[simp] theorem Block.setComb_out (b : Block) (c : CombId) (x : Comb) : (b.setComb c x).out = b.out := rfl
@[simp] theorem Block.setComb_free (b : Block) (c : CombId) (x : Comb) : (b.setComb c x).free = b.free := rfl
@[simp] theorem Block.setComb_resets (b : Block) (c : CombId) (x : Comb) : (b.setComb c x).resets = b.resets := rfl
@[simp] theorem Block.setComb_base (b : Block) (c : CombId) (x : Comb) : (b.setComb c x).base = b.base := rfl
@[simp] theorem Block.setComb_scanAt (b : Block) (c : CombId) (x : Comb) : (b.setComb c x).scanAt = b.scanAt := rfl

/-! ### setLink -/

@[simp] theorem Block.setLink_kettle (b : Block) (l : LinkId) (x : Link) : (b.setLink l x).kettle = b.kettle := rfl
@[simp] theorem Block.setLink_boot (b : Block) (l : LinkId) (x : Link) : (b.setLink l x).boot = b.boot := rfl
@[simp] theorem Block.setLink_msp (b : Block) (l : LinkId) (x : Link) : (b.setLink l x).msp = b.msp := rfl
@[simp] theorem Block.setLink_evl (b : Block) (l : LinkId) (x : Link) : (b.setLink l x).evl = b.evl := rfl
@[simp] theorem Block.setLink_nvm (b : Block) (l : LinkId) (x : Link) : (b.setLink l x).nvm = b.nvm := rfl
@[simp] theorem Block.setLink_remap (b : Block) (l : LinkId) (x : Link) : (b.setLink l x).remap = b.remap := rfl
@[simp] theorem Block.setLink_tap (b : Block) (l : LinkId) (x : Link) : (b.setLink l x).tap = b.tap := rfl
@[simp] theorem Block.setLink_combs (b : Block) (l : LinkId) (x : Link) : (b.setLink l x).combs = b.combs := rfl
@[simp] theorem Block.setLink_parts (b : Block) (l : LinkId) (x : Link) : (b.setLink l x).parts = b.parts := rfl
@[simp] theorem Block.setLink_host (b : Block) (l : LinkId) (x : Link) : (b.setLink l x).host = b.host := rfl
@[simp] theorem Block.setLink_hbm (b : Block) (l : LinkId) (x : Link) : (b.setLink l x).hbm = b.hbm := rfl
@[simp] theorem Block.setLink_pwr (b : Block) (l : LinkId) (x : Link) : (b.setLink l x).pwr = b.pwr := rfl
@[simp] theorem Block.setLink_mirrors (b : Block) (l : LinkId) (x : Link) : (b.setLink l x).mirrors = b.mirrors := rfl
@[simp] theorem Block.setLink_hcbFree (b : Block) (l : LinkId) (x : Link) : (b.setLink l x).hcbFree = b.hcbFree := rfl
@[simp] theorem Block.setLink_frozen (b : Block) (l : LinkId) (x : Link) : (b.setLink l x).frozen = b.frozen := rfl
@[simp] theorem Block.setLink_hcbResErr (b : Block) (l : LinkId) (x : Link) : (b.setLink l x).hcbResErr = b.hcbResErr := rfl
@[simp] theorem Block.setLink_hcbSramCorr (b : Block) (l : LinkId) (x : Link) : (b.setLink l x).hcbSramCorr = b.hcbSramCorr := rfl
@[simp] theorem Block.setLink_heldFlits (b : Block) (l : LinkId) (x : Link) : (b.setLink l x).heldFlits = b.heldFlits := rfl
@[simp] theorem Block.setLink_ready (b : Block) (l : LinkId) (x : Link) : (b.setLink l x).ready = b.ready := rfl
@[simp] theorem Block.setLink_out (b : Block) (l : LinkId) (x : Link) : (b.setLink l x).out = b.out := rfl
@[simp] theorem Block.setLink_free (b : Block) (l : LinkId) (x : Link) : (b.setLink l x).free = b.free := rfl
@[simp] theorem Block.setLink_resets (b : Block) (l : LinkId) (x : Link) : (b.setLink l x).resets = b.resets := rfl
@[simp] theorem Block.setLink_base (b : Block) (l : LinkId) (x : Link) : (b.setLink l x).base = b.base := rfl
@[simp] theorem Block.setLink_scanAt (b : Block) (l : LinkId) (x : Link) : (b.setLink l x).scanAt = b.scanAt := rfl

/-! ### setPart -/

@[simp] theorem Block.setPart_kettle (b : Block) (p : PartId) (x : Part) : (b.setPart p x).kettle = b.kettle := rfl
@[simp] theorem Block.setPart_boot (b : Block) (p : PartId) (x : Part) : (b.setPart p x).boot = b.boot := rfl
@[simp] theorem Block.setPart_msp (b : Block) (p : PartId) (x : Part) : (b.setPart p x).msp = b.msp := rfl
@[simp] theorem Block.setPart_evl (b : Block) (p : PartId) (x : Part) : (b.setPart p x).evl = b.evl := rfl
@[simp] theorem Block.setPart_nvm (b : Block) (p : PartId) (x : Part) : (b.setPart p x).nvm = b.nvm := rfl
@[simp] theorem Block.setPart_remap (b : Block) (p : PartId) (x : Part) : (b.setPart p x).remap = b.remap := rfl
@[simp] theorem Block.setPart_tap (b : Block) (p : PartId) (x : Part) : (b.setPart p x).tap = b.tap := rfl
@[simp] theorem Block.setPart_combs (b : Block) (p : PartId) (x : Part) : (b.setPart p x).combs = b.combs := rfl
@[simp] theorem Block.setPart_links (b : Block) (p : PartId) (x : Part) : (b.setPart p x).links = b.links := rfl
@[simp] theorem Block.setPart_host (b : Block) (p : PartId) (x : Part) : (b.setPart p x).host = b.host := rfl
@[simp] theorem Block.setPart_hbm (b : Block) (p : PartId) (x : Part) : (b.setPart p x).hbm = b.hbm := rfl
@[simp] theorem Block.setPart_pwr (b : Block) (p : PartId) (x : Part) : (b.setPart p x).pwr = b.pwr := rfl
@[simp] theorem Block.setPart_mirrors (b : Block) (p : PartId) (x : Part) : (b.setPart p x).mirrors = b.mirrors := rfl
@[simp] theorem Block.setPart_hcbFree (b : Block) (p : PartId) (x : Part) : (b.setPart p x).hcbFree = b.hcbFree := rfl
@[simp] theorem Block.setPart_frozen (b : Block) (p : PartId) (x : Part) : (b.setPart p x).frozen = b.frozen := rfl
@[simp] theorem Block.setPart_hcbResErr (b : Block) (p : PartId) (x : Part) : (b.setPart p x).hcbResErr = b.hcbResErr := rfl
@[simp] theorem Block.setPart_hcbSramCorr (b : Block) (p : PartId) (x : Part) : (b.setPart p x).hcbSramCorr = b.hcbSramCorr := rfl
@[simp] theorem Block.setPart_heldFlits (b : Block) (p : PartId) (x : Part) : (b.setPart p x).heldFlits = b.heldFlits := rfl
@[simp] theorem Block.setPart_ready (b : Block) (p : PartId) (x : Part) : (b.setPart p x).ready = b.ready := rfl
@[simp] theorem Block.setPart_out (b : Block) (p : PartId) (x : Part) : (b.setPart p x).out = b.out := rfl
@[simp] theorem Block.setPart_free (b : Block) (p : PartId) (x : Part) : (b.setPart p x).free = b.free := rfl
@[simp] theorem Block.setPart_resets (b : Block) (p : PartId) (x : Part) : (b.setPart p x).resets = b.resets := rfl
@[simp] theorem Block.setPart_base (b : Block) (p : PartId) (x : Part) : (b.setPart p x).base = b.base := rfl
@[simp] theorem Block.setPart_scanAt (b : Block) (p : PartId) (x : Part) : (b.setPart p x).scanAt = b.scanAt := rfl

/-! ### modComb -/

@[simp] theorem Block.modComb_kettle (b : Block) (c : CombId) (f : Comb → Comb) : (b.modComb c f).kettle = b.kettle := rfl
@[simp] theorem Block.modComb_boot (b : Block) (c : CombId) (f : Comb → Comb) : (b.modComb c f).boot = b.boot := rfl
@[simp] theorem Block.modComb_msp (b : Block) (c : CombId) (f : Comb → Comb) : (b.modComb c f).msp = b.msp := rfl
@[simp] theorem Block.modComb_evl (b : Block) (c : CombId) (f : Comb → Comb) : (b.modComb c f).evl = b.evl := rfl
@[simp] theorem Block.modComb_nvm (b : Block) (c : CombId) (f : Comb → Comb) : (b.modComb c f).nvm = b.nvm := rfl
@[simp] theorem Block.modComb_remap (b : Block) (c : CombId) (f : Comb → Comb) : (b.modComb c f).remap = b.remap := rfl
@[simp] theorem Block.modComb_tap (b : Block) (c : CombId) (f : Comb → Comb) : (b.modComb c f).tap = b.tap := rfl
@[simp] theorem Block.modComb_links (b : Block) (c : CombId) (f : Comb → Comb) : (b.modComb c f).links = b.links := rfl
@[simp] theorem Block.modComb_parts (b : Block) (c : CombId) (f : Comb → Comb) : (b.modComb c f).parts = b.parts := rfl
@[simp] theorem Block.modComb_host (b : Block) (c : CombId) (f : Comb → Comb) : (b.modComb c f).host = b.host := rfl
@[simp] theorem Block.modComb_hbm (b : Block) (c : CombId) (f : Comb → Comb) : (b.modComb c f).hbm = b.hbm := rfl
@[simp] theorem Block.modComb_pwr (b : Block) (c : CombId) (f : Comb → Comb) : (b.modComb c f).pwr = b.pwr := rfl
@[simp] theorem Block.modComb_mirrors (b : Block) (c : CombId) (f : Comb → Comb) : (b.modComb c f).mirrors = b.mirrors := rfl
@[simp] theorem Block.modComb_hcbFree (b : Block) (c : CombId) (f : Comb → Comb) : (b.modComb c f).hcbFree = b.hcbFree := rfl
@[simp] theorem Block.modComb_frozen (b : Block) (c : CombId) (f : Comb → Comb) : (b.modComb c f).frozen = b.frozen := rfl
@[simp] theorem Block.modComb_hcbResErr (b : Block) (c : CombId) (f : Comb → Comb) : (b.modComb c f).hcbResErr = b.hcbResErr := rfl
@[simp] theorem Block.modComb_hcbSramCorr (b : Block) (c : CombId) (f : Comb → Comb) : (b.modComb c f).hcbSramCorr = b.hcbSramCorr := rfl
@[simp] theorem Block.modComb_heldFlits (b : Block) (c : CombId) (f : Comb → Comb) : (b.modComb c f).heldFlits = b.heldFlits := rfl
@[simp] theorem Block.modComb_ready (b : Block) (c : CombId) (f : Comb → Comb) : (b.modComb c f).ready = b.ready := rfl
@[simp] theorem Block.modComb_out (b : Block) (c : CombId) (f : Comb → Comb) : (b.modComb c f).out = b.out := rfl
@[simp] theorem Block.modComb_free (b : Block) (c : CombId) (f : Comb → Comb) : (b.modComb c f).free = b.free := rfl
@[simp] theorem Block.modComb_resets (b : Block) (c : CombId) (f : Comb → Comb) : (b.modComb c f).resets = b.resets := rfl
@[simp] theorem Block.modComb_base (b : Block) (c : CombId) (f : Comb → Comb) : (b.modComb c f).base = b.base := rfl
@[simp] theorem Block.modComb_scanAt (b : Block) (c : CombId) (f : Comb → Comb) : (b.modComb c f).scanAt = b.scanAt := rfl

/-! ### modLink -/

@[simp] theorem Block.modLink_kettle (b : Block) (l : LinkId) (f : Link → Link) : (b.modLink l f).kettle = b.kettle := rfl
@[simp] theorem Block.modLink_boot (b : Block) (l : LinkId) (f : Link → Link) : (b.modLink l f).boot = b.boot := rfl
@[simp] theorem Block.modLink_msp (b : Block) (l : LinkId) (f : Link → Link) : (b.modLink l f).msp = b.msp := rfl
@[simp] theorem Block.modLink_evl (b : Block) (l : LinkId) (f : Link → Link) : (b.modLink l f).evl = b.evl := rfl
@[simp] theorem Block.modLink_nvm (b : Block) (l : LinkId) (f : Link → Link) : (b.modLink l f).nvm = b.nvm := rfl
@[simp] theorem Block.modLink_remap (b : Block) (l : LinkId) (f : Link → Link) : (b.modLink l f).remap = b.remap := rfl
@[simp] theorem Block.modLink_tap (b : Block) (l : LinkId) (f : Link → Link) : (b.modLink l f).tap = b.tap := rfl
@[simp] theorem Block.modLink_combs (b : Block) (l : LinkId) (f : Link → Link) : (b.modLink l f).combs = b.combs := rfl
@[simp] theorem Block.modLink_parts (b : Block) (l : LinkId) (f : Link → Link) : (b.modLink l f).parts = b.parts := rfl
@[simp] theorem Block.modLink_host (b : Block) (l : LinkId) (f : Link → Link) : (b.modLink l f).host = b.host := rfl
@[simp] theorem Block.modLink_hbm (b : Block) (l : LinkId) (f : Link → Link) : (b.modLink l f).hbm = b.hbm := rfl
@[simp] theorem Block.modLink_pwr (b : Block) (l : LinkId) (f : Link → Link) : (b.modLink l f).pwr = b.pwr := rfl
@[simp] theorem Block.modLink_mirrors (b : Block) (l : LinkId) (f : Link → Link) : (b.modLink l f).mirrors = b.mirrors := rfl
@[simp] theorem Block.modLink_hcbFree (b : Block) (l : LinkId) (f : Link → Link) : (b.modLink l f).hcbFree = b.hcbFree := rfl
@[simp] theorem Block.modLink_frozen (b : Block) (l : LinkId) (f : Link → Link) : (b.modLink l f).frozen = b.frozen := rfl
@[simp] theorem Block.modLink_hcbResErr (b : Block) (l : LinkId) (f : Link → Link) : (b.modLink l f).hcbResErr = b.hcbResErr := rfl
@[simp] theorem Block.modLink_hcbSramCorr (b : Block) (l : LinkId) (f : Link → Link) : (b.modLink l f).hcbSramCorr = b.hcbSramCorr := rfl
@[simp] theorem Block.modLink_heldFlits (b : Block) (l : LinkId) (f : Link → Link) : (b.modLink l f).heldFlits = b.heldFlits := rfl
@[simp] theorem Block.modLink_ready (b : Block) (l : LinkId) (f : Link → Link) : (b.modLink l f).ready = b.ready := rfl
@[simp] theorem Block.modLink_out (b : Block) (l : LinkId) (f : Link → Link) : (b.modLink l f).out = b.out := rfl
@[simp] theorem Block.modLink_free (b : Block) (l : LinkId) (f : Link → Link) : (b.modLink l f).free = b.free := rfl
@[simp] theorem Block.modLink_resets (b : Block) (l : LinkId) (f : Link → Link) : (b.modLink l f).resets = b.resets := rfl
@[simp] theorem Block.modLink_base (b : Block) (l : LinkId) (f : Link → Link) : (b.modLink l f).base = b.base := rfl
@[simp] theorem Block.modLink_scanAt (b : Block) (l : LinkId) (f : Link → Link) : (b.modLink l f).scanAt = b.scanAt := rfl

/-! ### modPart -/

@[simp] theorem Block.modPart_kettle (b : Block) (p : PartId) (f : Part → Part) : (b.modPart p f).kettle = b.kettle := rfl
@[simp] theorem Block.modPart_boot (b : Block) (p : PartId) (f : Part → Part) : (b.modPart p f).boot = b.boot := rfl
@[simp] theorem Block.modPart_msp (b : Block) (p : PartId) (f : Part → Part) : (b.modPart p f).msp = b.msp := rfl
@[simp] theorem Block.modPart_evl (b : Block) (p : PartId) (f : Part → Part) : (b.modPart p f).evl = b.evl := rfl
@[simp] theorem Block.modPart_nvm (b : Block) (p : PartId) (f : Part → Part) : (b.modPart p f).nvm = b.nvm := rfl
@[simp] theorem Block.modPart_remap (b : Block) (p : PartId) (f : Part → Part) : (b.modPart p f).remap = b.remap := rfl
@[simp] theorem Block.modPart_tap (b : Block) (p : PartId) (f : Part → Part) : (b.modPart p f).tap = b.tap := rfl
@[simp] theorem Block.modPart_combs (b : Block) (p : PartId) (f : Part → Part) : (b.modPart p f).combs = b.combs := rfl
@[simp] theorem Block.modPart_links (b : Block) (p : PartId) (f : Part → Part) : (b.modPart p f).links = b.links := rfl
@[simp] theorem Block.modPart_host (b : Block) (p : PartId) (f : Part → Part) : (b.modPart p f).host = b.host := rfl
@[simp] theorem Block.modPart_hbm (b : Block) (p : PartId) (f : Part → Part) : (b.modPart p f).hbm = b.hbm := rfl
@[simp] theorem Block.modPart_pwr (b : Block) (p : PartId) (f : Part → Part) : (b.modPart p f).pwr = b.pwr := rfl
@[simp] theorem Block.modPart_mirrors (b : Block) (p : PartId) (f : Part → Part) : (b.modPart p f).mirrors = b.mirrors := rfl
@[simp] theorem Block.modPart_hcbFree (b : Block) (p : PartId) (f : Part → Part) : (b.modPart p f).hcbFree = b.hcbFree := rfl
@[simp] theorem Block.modPart_frozen (b : Block) (p : PartId) (f : Part → Part) : (b.modPart p f).frozen = b.frozen := rfl
@[simp] theorem Block.modPart_hcbResErr (b : Block) (p : PartId) (f : Part → Part) : (b.modPart p f).hcbResErr = b.hcbResErr := rfl
@[simp] theorem Block.modPart_hcbSramCorr (b : Block) (p : PartId) (f : Part → Part) : (b.modPart p f).hcbSramCorr = b.hcbSramCorr := rfl
@[simp] theorem Block.modPart_heldFlits (b : Block) (p : PartId) (f : Part → Part) : (b.modPart p f).heldFlits = b.heldFlits := rfl
@[simp] theorem Block.modPart_ready (b : Block) (p : PartId) (f : Part → Part) : (b.modPart p f).ready = b.ready := rfl
@[simp] theorem Block.modPart_out (b : Block) (p : PartId) (f : Part → Part) : (b.modPart p f).out = b.out := rfl
@[simp] theorem Block.modPart_free (b : Block) (p : PartId) (f : Part → Part) : (b.modPart p f).free = b.free := rfl
@[simp] theorem Block.modPart_resets (b : Block) (p : PartId) (f : Part → Part) : (b.modPart p f).resets = b.resets := rfl
@[simp] theorem Block.modPart_base (b : Block) (p : PartId) (f : Part → Part) : (b.modPart p f).base = b.base := rfl
@[simp] theorem Block.modPart_scanAt (b : Block) (p : PartId) (f : Part → Part) : (b.modPart p f).scanAt = b.scanAt := rfl

/-! ### modSeq -/

@[simp] theorem Block.modSeq_kettle (b : Block) (c : CombId) (f : Seqr → Seqr) : (b.modSeq c f).kettle = b.kettle := rfl
@[simp] theorem Block.modSeq_boot (b : Block) (c : CombId) (f : Seqr → Seqr) : (b.modSeq c f).boot = b.boot := rfl
@[simp] theorem Block.modSeq_msp (b : Block) (c : CombId) (f : Seqr → Seqr) : (b.modSeq c f).msp = b.msp := rfl
@[simp] theorem Block.modSeq_evl (b : Block) (c : CombId) (f : Seqr → Seqr) : (b.modSeq c f).evl = b.evl := rfl
@[simp] theorem Block.modSeq_nvm (b : Block) (c : CombId) (f : Seqr → Seqr) : (b.modSeq c f).nvm = b.nvm := rfl
@[simp] theorem Block.modSeq_remap (b : Block) (c : CombId) (f : Seqr → Seqr) : (b.modSeq c f).remap = b.remap := rfl
@[simp] theorem Block.modSeq_tap (b : Block) (c : CombId) (f : Seqr → Seqr) : (b.modSeq c f).tap = b.tap := rfl
@[simp] theorem Block.modSeq_links (b : Block) (c : CombId) (f : Seqr → Seqr) : (b.modSeq c f).links = b.links := rfl
@[simp] theorem Block.modSeq_parts (b : Block) (c : CombId) (f : Seqr → Seqr) : (b.modSeq c f).parts = b.parts := rfl
@[simp] theorem Block.modSeq_host (b : Block) (c : CombId) (f : Seqr → Seqr) : (b.modSeq c f).host = b.host := rfl
@[simp] theorem Block.modSeq_hbm (b : Block) (c : CombId) (f : Seqr → Seqr) : (b.modSeq c f).hbm = b.hbm := rfl
@[simp] theorem Block.modSeq_pwr (b : Block) (c : CombId) (f : Seqr → Seqr) : (b.modSeq c f).pwr = b.pwr := rfl
@[simp] theorem Block.modSeq_mirrors (b : Block) (c : CombId) (f : Seqr → Seqr) : (b.modSeq c f).mirrors = b.mirrors := rfl
@[simp] theorem Block.modSeq_hcbFree (b : Block) (c : CombId) (f : Seqr → Seqr) : (b.modSeq c f).hcbFree = b.hcbFree := rfl
@[simp] theorem Block.modSeq_frozen (b : Block) (c : CombId) (f : Seqr → Seqr) : (b.modSeq c f).frozen = b.frozen := rfl
@[simp] theorem Block.modSeq_hcbResErr (b : Block) (c : CombId) (f : Seqr → Seqr) : (b.modSeq c f).hcbResErr = b.hcbResErr := rfl
@[simp] theorem Block.modSeq_hcbSramCorr (b : Block) (c : CombId) (f : Seqr → Seqr) : (b.modSeq c f).hcbSramCorr = b.hcbSramCorr := rfl
@[simp] theorem Block.modSeq_heldFlits (b : Block) (c : CombId) (f : Seqr → Seqr) : (b.modSeq c f).heldFlits = b.heldFlits := rfl
@[simp] theorem Block.modSeq_ready (b : Block) (c : CombId) (f : Seqr → Seqr) : (b.modSeq c f).ready = b.ready := rfl
@[simp] theorem Block.modSeq_out (b : Block) (c : CombId) (f : Seqr → Seqr) : (b.modSeq c f).out = b.out := rfl
@[simp] theorem Block.modSeq_free (b : Block) (c : CombId) (f : Seqr → Seqr) : (b.modSeq c f).free = b.free := rfl
@[simp] theorem Block.modSeq_resets (b : Block) (c : CombId) (f : Seqr → Seqr) : (b.modSeq c f).resets = b.resets := rfl
@[simp] theorem Block.modSeq_base (b : Block) (c : CombId) (f : Seqr → Seqr) : (b.modSeq c f).base = b.base := rfl
@[simp] theorem Block.modSeq_scanAt (b : Block) (c : CombId) (f : Seqr → Seqr) : (b.modSeq c f).scanAt = b.scanAt := rfl

/-! ### modIssue -/

@[simp] theorem Block.modIssue_kettle (b : Block) (c : CombId) (f : Seqr → Seqr) : (b.modIssue c f).kettle = b.kettle := rfl
@[simp] theorem Block.modIssue_boot (b : Block) (c : CombId) (f : Seqr → Seqr) : (b.modIssue c f).boot = b.boot := rfl
@[simp] theorem Block.modIssue_msp (b : Block) (c : CombId) (f : Seqr → Seqr) : (b.modIssue c f).msp = b.msp := rfl
@[simp] theorem Block.modIssue_evl (b : Block) (c : CombId) (f : Seqr → Seqr) : (b.modIssue c f).evl = b.evl := rfl
@[simp] theorem Block.modIssue_nvm (b : Block) (c : CombId) (f : Seqr → Seqr) : (b.modIssue c f).nvm = b.nvm := rfl
@[simp] theorem Block.modIssue_remap (b : Block) (c : CombId) (f : Seqr → Seqr) : (b.modIssue c f).remap = b.remap := rfl
@[simp] theorem Block.modIssue_tap (b : Block) (c : CombId) (f : Seqr → Seqr) : (b.modIssue c f).tap = b.tap := rfl
@[simp] theorem Block.modIssue_links (b : Block) (c : CombId) (f : Seqr → Seqr) : (b.modIssue c f).links = b.links := rfl
@[simp] theorem Block.modIssue_parts (b : Block) (c : CombId) (f : Seqr → Seqr) : (b.modIssue c f).parts = b.parts := rfl
@[simp] theorem Block.modIssue_host (b : Block) (c : CombId) (f : Seqr → Seqr) : (b.modIssue c f).host = b.host := rfl
@[simp] theorem Block.modIssue_hbm (b : Block) (c : CombId) (f : Seqr → Seqr) : (b.modIssue c f).hbm = b.hbm := rfl
@[simp] theorem Block.modIssue_pwr (b : Block) (c : CombId) (f : Seqr → Seqr) : (b.modIssue c f).pwr = b.pwr := rfl
@[simp] theorem Block.modIssue_mirrors (b : Block) (c : CombId) (f : Seqr → Seqr) : (b.modIssue c f).mirrors = b.mirrors := rfl
@[simp] theorem Block.modIssue_hcbFree (b : Block) (c : CombId) (f : Seqr → Seqr) : (b.modIssue c f).hcbFree = b.hcbFree := rfl
@[simp] theorem Block.modIssue_frozen (b : Block) (c : CombId) (f : Seqr → Seqr) : (b.modIssue c f).frozen = b.frozen := rfl
@[simp] theorem Block.modIssue_hcbResErr (b : Block) (c : CombId) (f : Seqr → Seqr) : (b.modIssue c f).hcbResErr = b.hcbResErr := rfl
@[simp] theorem Block.modIssue_hcbSramCorr (b : Block) (c : CombId) (f : Seqr → Seqr) : (b.modIssue c f).hcbSramCorr = b.hcbSramCorr := rfl
@[simp] theorem Block.modIssue_heldFlits (b : Block) (c : CombId) (f : Seqr → Seqr) : (b.modIssue c f).heldFlits = b.heldFlits := rfl
@[simp] theorem Block.modIssue_ready (b : Block) (c : CombId) (f : Seqr → Seqr) : (b.modIssue c f).ready = b.ready := rfl
@[simp] theorem Block.modIssue_out (b : Block) (c : CombId) (f : Seqr → Seqr) : (b.modIssue c f).out = b.out := rfl
@[simp] theorem Block.modIssue_free (b : Block) (c : CombId) (f : Seqr → Seqr) : (b.modIssue c f).free = b.free := rfl
@[simp] theorem Block.modIssue_resets (b : Block) (c : CombId) (f : Seqr → Seqr) : (b.modIssue c f).resets = b.resets := rfl
@[simp] theorem Block.modIssue_base (b : Block) (c : CombId) (f : Seqr → Seqr) : (b.modIssue c f).base = b.base := rfl
@[simp] theorem Block.modIssue_scanAt (b : Block) (c : CombId) (f : Seqr → Seqr) : (b.modIssue c f).scanAt = b.scanAt := rfl

/-! ### advanceTo -/

@[simp] theorem Block.advanceTo_boot (b : Block) (t : Nat) : (b.advanceTo t).boot = b.boot := rfl
@[simp] theorem Block.advanceTo_msp (b : Block) (t : Nat) : (b.advanceTo t).msp = b.msp := rfl
@[simp] theorem Block.advanceTo_evl (b : Block) (t : Nat) : (b.advanceTo t).evl = b.evl := rfl
@[simp] theorem Block.advanceTo_nvm (b : Block) (t : Nat) : (b.advanceTo t).nvm = b.nvm := rfl
@[simp] theorem Block.advanceTo_remap (b : Block) (t : Nat) : (b.advanceTo t).remap = b.remap := rfl
@[simp] theorem Block.advanceTo_tap (b : Block) (t : Nat) : (b.advanceTo t).tap = b.tap := rfl
@[simp] theorem Block.advanceTo_combs (b : Block) (t : Nat) : (b.advanceTo t).combs = b.combs := rfl
@[simp] theorem Block.advanceTo_links (b : Block) (t : Nat) : (b.advanceTo t).links = b.links := rfl
@[simp] theorem Block.advanceTo_parts (b : Block) (t : Nat) : (b.advanceTo t).parts = b.parts := rfl
@[simp] theorem Block.advanceTo_host (b : Block) (t : Nat) : (b.advanceTo t).host = b.host := rfl
@[simp] theorem Block.advanceTo_hbm (b : Block) (t : Nat) : (b.advanceTo t).hbm = b.hbm := rfl
@[simp] theorem Block.advanceTo_pwr (b : Block) (t : Nat) : (b.advanceTo t).pwr = b.pwr := rfl
@[simp] theorem Block.advanceTo_mirrors (b : Block) (t : Nat) : (b.advanceTo t).mirrors = b.mirrors := rfl
@[simp] theorem Block.advanceTo_hcbFree (b : Block) (t : Nat) : (b.advanceTo t).hcbFree = b.hcbFree := rfl
@[simp] theorem Block.advanceTo_frozen (b : Block) (t : Nat) : (b.advanceTo t).frozen = b.frozen := rfl
@[simp] theorem Block.advanceTo_hcbResErr (b : Block) (t : Nat) : (b.advanceTo t).hcbResErr = b.hcbResErr := rfl
@[simp] theorem Block.advanceTo_hcbSramCorr (b : Block) (t : Nat) : (b.advanceTo t).hcbSramCorr = b.hcbSramCorr := rfl
@[simp] theorem Block.advanceTo_heldFlits (b : Block) (t : Nat) : (b.advanceTo t).heldFlits = b.heldFlits := rfl
@[simp] theorem Block.advanceTo_ready (b : Block) (t : Nat) : (b.advanceTo t).ready = b.ready := rfl
@[simp] theorem Block.advanceTo_out (b : Block) (t : Nat) : (b.advanceTo t).out = b.out := rfl
@[simp] theorem Block.advanceTo_free (b : Block) (t : Nat) : (b.advanceTo t).free = b.free := rfl
@[simp] theorem Block.advanceTo_resets (b : Block) (t : Nat) : (b.advanceTo t).resets = b.resets := rfl

/-! ### log -/

@[simp] theorem Block.log_kettle (b : Block) (k : Nat) (u : EvUnit) (p : Option PartId) (ds : List Nat) : (b.log k u p ds).kettle = b.kettle := rfl
@[simp] theorem Block.log_boot (b : Block) (k : Nat) (u : EvUnit) (p : Option PartId) (ds : List Nat) : (b.log k u p ds).boot = b.boot := rfl
@[simp] theorem Block.log_nvm (b : Block) (k : Nat) (u : EvUnit) (p : Option PartId) (ds : List Nat) : (b.log k u p ds).nvm = b.nvm := rfl
@[simp] theorem Block.log_remap (b : Block) (k : Nat) (u : EvUnit) (p : Option PartId) (ds : List Nat) : (b.log k u p ds).remap = b.remap := rfl
@[simp] theorem Block.log_tap (b : Block) (k : Nat) (u : EvUnit) (p : Option PartId) (ds : List Nat) : (b.log k u p ds).tap = b.tap := rfl
@[simp] theorem Block.log_combs (b : Block) (k : Nat) (u : EvUnit) (p : Option PartId) (ds : List Nat) : (b.log k u p ds).combs = b.combs := rfl
@[simp] theorem Block.log_links (b : Block) (k : Nat) (u : EvUnit) (p : Option PartId) (ds : List Nat) : (b.log k u p ds).links = b.links := rfl
@[simp] theorem Block.log_parts (b : Block) (k : Nat) (u : EvUnit) (p : Option PartId) (ds : List Nat) : (b.log k u p ds).parts = b.parts := rfl
@[simp] theorem Block.log_host (b : Block) (k : Nat) (u : EvUnit) (p : Option PartId) (ds : List Nat) : (b.log k u p ds).host = b.host := rfl
@[simp] theorem Block.log_hbm (b : Block) (k : Nat) (u : EvUnit) (p : Option PartId) (ds : List Nat) : (b.log k u p ds).hbm = b.hbm := rfl
@[simp] theorem Block.log_pwr (b : Block) (k : Nat) (u : EvUnit) (p : Option PartId) (ds : List Nat) : (b.log k u p ds).pwr = b.pwr := rfl
@[simp] theorem Block.log_mirrors (b : Block) (k : Nat) (u : EvUnit) (p : Option PartId) (ds : List Nat) : (b.log k u p ds).mirrors = b.mirrors := rfl
@[simp] theorem Block.log_hcbFree (b : Block) (k : Nat) (u : EvUnit) (p : Option PartId) (ds : List Nat) : (b.log k u p ds).hcbFree = b.hcbFree := rfl
@[simp] theorem Block.log_frozen (b : Block) (k : Nat) (u : EvUnit) (p : Option PartId) (ds : List Nat) : (b.log k u p ds).frozen = b.frozen := rfl
@[simp] theorem Block.log_hcbResErr (b : Block) (k : Nat) (u : EvUnit) (p : Option PartId) (ds : List Nat) : (b.log k u p ds).hcbResErr = b.hcbResErr := rfl
@[simp] theorem Block.log_hcbSramCorr (b : Block) (k : Nat) (u : EvUnit) (p : Option PartId) (ds : List Nat) : (b.log k u p ds).hcbSramCorr = b.hcbSramCorr := rfl
@[simp] theorem Block.log_heldFlits (b : Block) (k : Nat) (u : EvUnit) (p : Option PartId) (ds : List Nat) : (b.log k u p ds).heldFlits = b.heldFlits := rfl
@[simp] theorem Block.log_ready (b : Block) (k : Nat) (u : EvUnit) (p : Option PartId) (ds : List Nat) : (b.log k u p ds).ready = b.ready := rfl
@[simp] theorem Block.log_out (b : Block) (k : Nat) (u : EvUnit) (p : Option PartId) (ds : List Nat) : (b.log k u p ds).out = b.out := rfl
@[simp] theorem Block.log_free (b : Block) (k : Nat) (u : EvUnit) (p : Option PartId) (ds : List Nat) : (b.log k u p ds).free = b.free := rfl
@[simp] theorem Block.log_resets (b : Block) (k : Nat) (u : EvUnit) (p : Option PartId) (ds : List Nat) : (b.log k u p ds).resets = b.resets := rfl
@[simp] theorem Block.log_base (b : Block) (k : Nat) (u : EvUnit) (p : Option PartId) (ds : List Nat) : (b.log k u p ds).base = b.base := rfl
@[simp] theorem Block.log_scanAt (b : Block) (k : Nat) (u : EvUnit) (p : Option PartId) (ds : List Nat) : (b.log k u p ds).scanAt = b.scanAt := rfl

/-! ### finish: the mirrors alone change (R376) -/

@[simp] theorem finish_kettle (o n : Block) : (finish o n).kettle = n.kettle := rfl
@[simp] theorem finish_boot (o n : Block) : (finish o n).boot = n.boot := rfl
@[simp] theorem finish_msp (o n : Block) : (finish o n).msp = n.msp := rfl
@[simp] theorem finish_evl (o n : Block) : (finish o n).evl = n.evl := rfl
@[simp] theorem finish_nvm (o n : Block) : (finish o n).nvm = n.nvm := rfl
@[simp] theorem finish_remap (o n : Block) : (finish o n).remap = n.remap := rfl
@[simp] theorem finish_tap (o n : Block) : (finish o n).tap = n.tap := rfl
@[simp] theorem finish_combs (o n : Block) : (finish o n).combs = n.combs := rfl
@[simp] theorem finish_links (o n : Block) : (finish o n).links = n.links := rfl
@[simp] theorem finish_parts (o n : Block) : (finish o n).parts = n.parts := rfl
@[simp] theorem finish_host (o n : Block) : (finish o n).host = n.host := rfl
@[simp] theorem finish_hbm (o n : Block) : (finish o n).hbm = n.hbm := rfl
@[simp] theorem finish_pwr (o n : Block) : (finish o n).pwr = n.pwr := rfl
@[simp] theorem finish_hcbFree (o n : Block) : (finish o n).hcbFree = n.hcbFree := rfl
@[simp] theorem finish_frozen (o n : Block) : (finish o n).frozen = n.frozen := rfl
@[simp] theorem finish_hcbResErr (o n : Block) : (finish o n).hcbResErr = n.hcbResErr := rfl
@[simp] theorem finish_hcbSramCorr (o n : Block) : (finish o n).hcbSramCorr = n.hcbSramCorr := rfl
@[simp] theorem finish_heldFlits (o n : Block) : (finish o n).heldFlits = n.heldFlits := rfl
@[simp] theorem finish_ready (o n : Block) : (finish o n).ready = n.ready := rfl
@[simp] theorem finish_out (o n : Block) : (finish o n).out = n.out := rfl
@[simp] theorem finish_free (o n : Block) : (finish o n).free = n.free := rfl
@[simp] theorem finish_resets (o n : Block) : (finish o n).resets = n.resets := rfl
@[simp] theorem finish_base (o n : Block) : (finish o n).base = n.base := rfl
@[simp] theorem finish_scanAt (o n : Block) : (finish o n).scanAt = n.scanAt := rfl

/-! ### Units read back -/

@[simp] theorem Block.comb_setComb_self (b : Block) (c : CombId) (x : Comb) : (b.setComb c x).comb c = x := by
  simp [Block.setComb, Block.comb]
theorem Block.comb_setComb_ne (b : Block) (c k : CombId) (x : Comb) (h : k ≠ c) : (b.setComb c x).comb k = b.comb k := by
  have : c.val ≠ k.val := fun e => h (Fin.ext e.symm)
  simp [Block.setComb, Block.comb, this]
@[simp] theorem Block.comb_modComb_self (b : Block) (c : CombId) (f : Comb → Comb) : (b.modComb c f).comb c = f (b.comb c) := by
  simp [Block.modComb]
theorem Block.comb_modComb_ne (b : Block) (c k : CombId) (f : Comb → Comb) (h : k ≠ c) : (b.modComb c f).comb k = b.comb k :=
  Block.comb_setComb_ne b c k _ h

@[simp] theorem Block.link_setLink_self (b : Block) (c : LinkId) (x : Link) : (b.setLink c x).link c = x := by
  simp [Block.setLink, Block.link]
theorem Block.link_setLink_ne (b : Block) (c k : LinkId) (x : Link) (h : k ≠ c) : (b.setLink c x).link k = b.link k := by
  have : c.val ≠ k.val := fun e => h (Fin.ext e.symm)
  simp [Block.setLink, Block.link, this]
@[simp] theorem Block.link_modLink_self (b : Block) (c : LinkId) (f : Link → Link) : (b.modLink c f).link c = f (b.link c) := by
  simp [Block.modLink]
theorem Block.link_modLink_ne (b : Block) (c k : LinkId) (f : Link → Link) (h : k ≠ c) : (b.modLink c f).link k = b.link k :=
  Block.link_setLink_ne b c k _ h

@[simp] theorem Block.part_setPart_self (b : Block) (c : PartId) (x : Part) : (b.setPart c x).part c = x := by
  simp [Block.setPart, Block.part]
theorem Block.part_setPart_ne (b : Block) (c k : PartId) (x : Part) (h : k ≠ c) : (b.setPart c x).part k = b.part k := by
  have : c.val ≠ k.val := fun e => h (Fin.ext e.symm)
  simp [Block.setPart, Block.part, this]
@[simp] theorem Block.part_modPart_self (b : Block) (c : PartId) (f : Part → Part) : (b.modPart c f).part c = f (b.part c) := by
  simp [Block.modPart]
theorem Block.part_modPart_ne (b : Block) (c k : PartId) (f : Part → Part) (h : k ≠ c) : (b.modPart c f).part k = b.part k :=
  Block.part_setPart_ne b c k _ h

@[simp] theorem Block.link_modComb (b : Block) (c : CombId) (f : Comb → Comb) (k : LinkId) : (b.modComb c f).link k = b.link k := rfl
@[simp] theorem Block.link_setComb (b : Block) (c : CombId) (x : Comb) (k : LinkId) : (b.setComb c x).link k = b.link k := rfl
@[simp] theorem Block.part_modComb (b : Block) (c : CombId) (f : Comb → Comb) (k : PartId) : (b.modComb c f).part k = b.part k := rfl
@[simp] theorem Block.part_setComb (b : Block) (c : CombId) (x : Comb) (k : PartId) : (b.setComb c x).part k = b.part k := rfl
@[simp] theorem Block.comb_modLink (b : Block) (c : LinkId) (f : Link → Link) (k : CombId) : (b.modLink c f).comb k = b.comb k := rfl
@[simp] theorem Block.comb_setLink (b : Block) (c : LinkId) (x : Link) (k : CombId) : (b.setLink c x).comb k = b.comb k := rfl
@[simp] theorem Block.part_modLink (b : Block) (c : LinkId) (f : Link → Link) (k : PartId) : (b.modLink c f).part k = b.part k := rfl
@[simp] theorem Block.part_setLink (b : Block) (c : LinkId) (x : Link) (k : PartId) : (b.setLink c x).part k = b.part k := rfl
@[simp] theorem Block.comb_modPart (b : Block) (c : PartId) (f : Part → Part) (k : CombId) : (b.modPart c f).comb k = b.comb k := rfl
@[simp] theorem Block.comb_setPart (b : Block) (c : PartId) (x : Part) (k : CombId) : (b.setPart c x).comb k = b.comb k := rfl
@[simp] theorem Block.link_modPart (b : Block) (c : PartId) (f : Part → Part) (k : LinkId) : (b.modPart c f).link k = b.link k := rfl
@[simp] theorem Block.link_setPart (b : Block) (c : PartId) (x : Part) (k : LinkId) : (b.setPart c x).link k = b.link k := rfl

/-! ### The three shapes of a meaning -/

@[simp] theorem State.act_next (s : State) (f : Block → Block) : s.act f = .next { s with block := finish s.block (f s.block) } := rfl
@[simp] theorem State.actBufs_next (s : State) (f : Block → Vector Mem 4 → Block × Vector Mem 4) :
    s.actBufs f = .next { s with block := finish s.block (f s.block s.bufs).1, bufs := (f s.block s.bufs).2 } := rfl
@[simp] theorem State.actFuses_next (s : State) (f : Block → Fuses → Block × Fuses) :
    s.actFuses f = .next { s with block := finish s.block (f s.block s.fuses).1, fuses := (f s.block s.fuses).2 } := rfl
@[simp] theorem State.withPending_block (s : State) (q : List Instr) : (s.withPending q).block = s.block := rfl
@[simp] theorem State.withPending_bufs (s : State) (q : List Instr) : (s.withPending q).bufs = s.bufs := rfl
@[simp] theorem State.withPending_fuses (s : State) (q : List Instr) : (s.withPending q).fuses = s.fuses := rfl
@[simp] theorem State.withPending_pending (s : State) (q : List Instr) : (s.withPending q).pending = q := rfl

/-- The command at the front runs on the queue's rest. -/
theorem step_cons (s : State) (c : Instr) (rest : List Instr) (h : s.pending = c :: rest) : step s = exec c (s.withPending rest) := by
  simp [step, h]
/-- On an empty queue one KT passes. -/
theorem step_nil (s : State) (h : s.pending = []) : step s = .next s.idle := by simp [step, h]

/-! ### The mirrors -/

@[simp] theorem Mirror.push_same (m : Mirror) (v : BitVec 24) : m.push v v = m := by simp [Mirror.push]

/-- No mirror changes where no unit's view does (R376). -/
theorem pushMirrors_same (o n : Block) (m : Mirrors) (hc : ∀ c, combView (n.comb c) = combView (o.comb c))
    (hl : ∀ l, linkView (n.link l) = linkView (o.link l)) (hp : ∀ p, n.partView p = o.partView p)
    (hs : n.hbm.stackOf = o.hbm.stackOf) (hq : ∀ c, pcombView (n.comb c) = pcombView (o.comb c)) (hd : ∀ d, n.plinkView d = o.plinkView d) :
    pushMirrors o n m = m := by
  obtain ⟨c, l, p, s, pc, pl⟩ := m
  simp only [pushMirrors, hc, hl, hp, hs, hq, hd, Mirror.push_same, Mirrors.mk.injEq]
  refine ⟨?_, ?_, ?_, ?_, ?_, ?_⟩ <;> · ext i hi; simp

/-! ### Issue (R259, R264, R265, R270) -/

/-- A comb that may not issue leaves the block. -/
theorem Block.issue_idle (b : Block) (c : CombId) (p : Pr) (w : Seqr → Bool) (f : Block → Block) (h : b.mayTake c p = false) :
    b.issue c p w f = b := by simp [Block.issue, h]
/-- A false predicate moves the pc alone. -/
theorem Block.issue_skip (b : Block) (c : CombId) (p : Pr) (w : Seqr → Bool) (f : Block → Block) (h : b.mayTake c p = true)
    (hp : (b.seq c).takes p = false) : b.issue c p w f = b.modIssue c Seqr.next := by simp [Block.issue, h, hp]
/-- An instruction that must wait leaves the block. -/
theorem Block.issue_wait (b : Block) (c : CombId) (p : Pr) (w : Seqr → Bool) (f : Block → Block) (h : b.mayTake c p = true)
    (hp : (b.seq c).takes p = true) (hw : w (b.seq c) = true) : b.issue c p w f = b := by simp [Block.issue, h, hp, hw]
/-- An instruction that issues has its effect, and the pc moves on. -/
theorem Block.issue_run (b : Block) (c : CombId) (p : Pr) (w : Seqr → Bool) (f : Block → Block) (h : b.mayTake c p = true)
    (hp : (b.seq c).takes p = true) (hw : w (b.seq c) = false) : b.issue c p w f = (f b).modIssue c Seqr.next := by
  simp [Block.issue, h, hp, hw]

/-! ### Scalars (R49, R264, R290) -/

/-- A scalar that a capped function of capped scalars makes is capped. -/
@[simp] theorem Scal.exWith_capped (f : SFn) (a b : Scal) (ha : a.ex = none) (hb : b.ex = none) : Scal.exWith f a b = none := by
  simp [Scal.exWith, ha, hb]
@[simp] theorem Scal.app_v (f : SFn) (a b : Scal) : (Scal.app f a b).v = f.eval a.v b.v := rfl
@[simp] theorem Scal.app_pend (f : SFn) (a b : Scal) : (Scal.app f a b).pend = false := rfl
@[simp] theorem Scal.app_ex (f : SFn) (a b : Scal) : (Scal.app f a b).ex = Scal.exWith f a b := rfl
/-- A capped scalar is changed neither by a redo nor by a cap report. -/
@[simp] theorem Scal.refresh_capped (n : Nat) (f : Nat → DWord) (x : Scal) (h : x.ex = none) : x.refresh n f = x := by simp [Scal.refresh, h]
@[simp] theorem Scal.settle_capped (n : Nat) (x : Scal) (h : x.ex = none) : x.settle n = x := by simp [Scal.settle, h]
/-- Capping changes no value. -/
@[simp] theorem Scal.settle_v (n : Nat) (x : Scal) : (x.settle n).v = x.v := by unfold Scal.settle; split <;> rfl

end Sys2Proof.Machine
end

