-- ==== Sys2Proof/Laws/Issue.lean ====
section
/-! SUPPORT. What the issue of a Brew instruction can do: it is one of nothing, the pc alone, or the effect and then the pc; and an issue changes
no mirror. -/

namespace Sys2Proof.Machine
open Sys2Proof

/-- No mirror changes where no unit's view does, whatever was reset (R376). -/
theorem finish_of_same_views (o n : Block) (hc : ∀ c, combView (n.comb c) = combView (o.comb c))
    (hl : ∀ l, linkView (n.link l) = linkView (o.link l)) (hp : ∀ p, n.partView p = o.partView p)
    (hs : n.hbm.stackOf = o.hbm.stackOf) (hq : ∀ c, pcombView (n.comb c) = pcombView (o.comb c)) (hd : ∀ d, n.plinkView d = o.plinkView d) :
    finish o n = n := by
  unfold finish; split
  · rw [pushMirrors_same o n _ hc hl hp hs hq hd]
  · rfl

/-- A command without effect changes nothing. -/
@[simp] theorem finish_self (b : Block) : finish b b = b :=
  finish_of_same_views b b (fun _ => rfl) (fun _ => rfl) (fun _ => rfl) rfl (fun _ => rfl) (fun _ => rfl)

/-- A change of the sequencer changes no mirror. -/
@[simp] theorem finish_modIssue (b : Block) (c : CombId) (f : Seqr → Seqr) : finish b (b.modIssue c f) = b.modIssue c f := by
  refine finish_of_same_views _ _ ?_ (fun _ => rfl) (fun _ => rfl) rfl ?_ (fun _ => rfl)
  all_goals
    intro k
    by_cases h : k = c
    · subst h; simp [Block.modIssue, combView, pcombView]
    · simp [Block.modIssue, Block.comb_modComb_ne _ _ _ _ h]

/-- Two changes of one sequencer, the second at the issue. -/
theorem modSeq_modIssue (b : Block) (c : CombId) (f g : Seqr → Seqr) : (b.modSeq c f).modIssue c g = b.modIssue c (fun q => g (f q)) := by
  simp [Block.modIssue, Block.modSeq, Block.modComb, Block.setComb, Comb.modSeq, Block.comb, Block.now]

/-- A change of the sequencer is what it does to the sequencer it meets. -/
theorem modIssue_congr (b : Block) (c : CombId) (f g : Seqr → Seqr) (h : f (b.seq c) = g (b.seq c)) : b.modIssue c f = b.modIssue c g := by
  simp only [Block.seq] at h
  simp only [Block.modIssue, Block.modComb, h]

/-- An instruction that issues and need not wait has its effect, then the pc moves on. -/
theorem Block.issue_of_issues (b : Block) (c : CombId) (p : Pr) (w : Seqr → Bool) (f : Block → Block) (h : b.issues c p = true)
    (hw : w (b.seq c) = false) : b.issue c p w f = (f b).modIssue c Seqr.next := by
  simp only [Block.issues, Bool.and_eq_true] at h
  exact Block.issue_run b c p w f h.1 h.2 hw

/-- An operation that issues behind no other and waits for nothing runs at once, and the pc moves on. -/
theorem Block.issueOp_runs (b : Block) (m : Mem) (c : CombId) (p : Pr) (w : Seqr → Bool) (op : Seqr → InfOp) (pt : PartId) (r : StepRun)
    (h : b.issues c p = true) (hw : w (b.seq c) = false) (hs : b.stepOf c = some (pt, r)) (ho : (b.comb c).ops = [])
    (hr : b.opWaits c pt r (op (b.seq c)) = false) :
    b.issueOp m c p w op = ((b.runOp m c pt r (op (b.seq c))).1.modIssue c Seqr.next, (b.runOp m c pt r (op (b.seq c))).2) := by
  simp only [Block.issues, Bool.and_eq_true] at h
  simp [Block.issueOp, Block.onStep, h.1, h.2, hw, hs, ho, hr]

/-- An operation that issues and cannot run yet is held behind the others, and the pc moves on. -/
theorem Block.issueOp_held (b : Block) (m : Mem) (c : CombId) (p : Pr) (w : Seqr → Bool) (op : Seqr → InfOp) (pt : PartId) (r : StepRun)
    (h : b.issues c p = true) (hw : w (b.seq c) = false) (hs : b.stepOf c = some (pt, r))
    (hr : ((b.comb c).ops.isEmpty && !b.opWaits c pt r (op (b.seq c))) = false) :
    b.issueOp m c p w op = (((b.askViews pt (b.opViews pt r (op (b.seq c)))).modComb c
      (fun y => { y with ops := y.ops ++ [op (b.seq c)] })).modIssue c Seqr.next, m) := by
  simp only [Block.issues, Bool.and_eq_true] at h
  unfold Block.issueOp
  simp only [Block.onStep, h.1, h.2, hw, hs, hr, Bool.not_true, Bool.false_eq_true, ↓reduceIte]

/-- The step that a comb runs. -/
theorem Block.onStep_of {α : Type} (b : Block) (c : CombId) (d : α) (f : PartId → StepRun → α) (p : PartId) (r : StepRun)
    (h : b.stepOf c = some (p, r)) : b.onStep c d f = f p r := by simp [Block.onStep, h]

/-- A comb that may issue runs a step that has met no abort, and its partition holds that step. -/
theorem Block.stepOf_run (b : Block) (c : CombId) (p : PartId) (r : StepRun) (h : b.stepOf c = some (p, r)) : b.run? p = some r := by
  unfold Block.stepOf at h
  split at h
  · cases h
  · split at h
    · cases h
    · rename_i hr
      split at h
      · cases h; exact hr
      · cases h
theorem Block.mayIssue_abort (b : Block) (c : CombId) (p : PartId) (r : StepRun) (h : b.stepOf c = some (p, r)) (hm : b.mayIssue c = true) :
    r.abort = none := by
  simp only [Block.mayIssue, h, Bool.and_eq_true, Option.isNone_iff_eq_none] at hm
  exact hm.1.1.1.1.2

/-- A read that meets no error reads the block as it is. -/
@[simp] theorem Block.demand_nil (b : Block) (f : HKind × Nat → Bool) : b.demand [] f = (b, []) := rfl

/-- A buffer set to what it holds. -/
@[simp] theorem set_same_buf (ms : Vector Mem 4) (c : CombId) : ms.set c.val ms[c] = ms := by
  ext i hi; simp

end Sys2Proof.Machine
end

