-- ==== Sys2Proof/Laws/Mem.lean ====
section
/-! SUPPORT. The byte memory: every operation keeps the canonical form, a read after a write to the same address gives the value
written, and a write leaves every other address alone. -/

namespace Sys2Proof.Machine
open Sys2Proof

/-- What lies above `a` lies above what `a` exceeds. -/
theorem Memory.above_mono {a c : Nat} (h : a < c) : ∀ m : Mem, Memory.above c m = true → Memory.above a m = true
  | [], _ => rfl
  | x :: t, hx => by
    simp only [Memory.above, Bool.and_eq_true, decide_eq_true_eq] at hx ⊢
    exact ⟨by omega, Memory.above_mono h t hx.2⟩

/-- An address below every entry reads as an unlisted one. -/
theorem Mem.read_above (d : Option Byte) (a : Nat) : ∀ m : Mem, Memory.above a m = true → Mem.read d m a = d
  | [], _ => rfl
  | x :: t, h => by
    simp only [Memory.above, Bool.and_eq_true, decide_eq_true_eq] at h
    have : x.1 ≠ a := by omega
    simp [Mem.read, this, h.1]

/-- A write stays above what lay below every entry and below the address written. -/
theorem Memory.above_write (d : Option Byte) (a : Nat) (v : Byte) (k : Nat) (hk : k < a) :
    ∀ m : Mem, Memory.above k m = true → Memory.above k (Mem.write d m a v) = true
  | [], _ => by unfold Mem.write; split <;> simp [Memory.above, hk]
  | x :: t, h => by
    have h2 := h
    simp only [Memory.above, Bool.and_eq_true, decide_eq_true_eq] at h
    unfold Mem.write
    split
    · split
      · exact h.2
      · simp [Memory.above, hk, h.2]
    · split
      · split
        · exact h2
        · simp [Memory.above, hk, h.1, h.2]
      · simp [Memory.above, h.1, Memory.above_write d a v k hk t h.2]

/-- A write keeps the canonical form. -/
theorem Memory.wf_write (d : Option Byte) (a : Nat) (v : Byte) : ∀ m : Mem, Memory.wf d m = true → Memory.wf d (Mem.write d m a v) = true
  | [], _ => by unfold Mem.write; split <;> simp_all [Memory.wf, Memory.above]
  | x :: t, h => by
    have h2 := h
    simp only [Memory.wf, Bool.and_eq_true, decide_eq_true_eq] at h
    unfold Mem.write
    split
    · rename_i e
      subst e
      split
      · exact h.2
      · rename_i hv; simp [Memory.wf, h.1.1, h.2, hv]
    · rename_i ne
      split
      · rename_i lt
        split
        · exact h2
        · rename_i hv
          simp [Memory.wf, Memory.above, h.1.1, h.1.2, h.2, hv, lt, Memory.above_mono lt t h.1.1]
      · rename_i nlt
        simp [Memory.wf, h.1.2, Memory.wf_write d a v t h.2, Memory.above_write d a v x.1 (by omega) t h.1.1]

/-- The byte written reads back. -/
theorem Mem.read_write_same (d : Option Byte) (a : Nat) (v : Byte) : ∀ m : Mem, Memory.wf d m = true → Mem.read d (Mem.write d m a v) a = some v
  | [], _ => by unfold Mem.write; split <;> simp_all [Mem.read]
  | x :: t, h => by
    simp only [Memory.wf, Bool.and_eq_true, decide_eq_true_eq] at h
    unfold Mem.write
    split
    · rename_i e
      subst e
      split
      · rename_i hv; rw [Mem.read_above d _ t h.1.1, hv]
      · simp [Mem.read]
    · rename_i ne
      split
      · rename_i lt
        split
        · rename_i hv; simp [Mem.read, ne, lt, hv]
        · simp [Mem.read]
      · rename_i nlt
        simp [Mem.read, ne, nlt, Mem.read_write_same d a v t h.2]

/-- Every other byte reads as before. -/
theorem Mem.read_write_ne (d : Option Byte) (a : Nat) (v : Byte) (k : Nat) (hk : k ≠ a) :
    ∀ m : Mem, Memory.wf d m = true → Mem.read d (Mem.write d m a v) k = Mem.read d m k
  | [], _ => by unfold Mem.write; split <;> simp [Mem.read]; intro h; exact absurd h.symm hk
  | x :: t, h => by
    simp only [Memory.wf, Bool.and_eq_true, decide_eq_true_eq] at h
    have ha : ¬ a = k := fun e => hk e.symm
    unfold Mem.write
    split
    · rename_i e
      subst e
      split
      · by_cases lt : k < x.1
        · rw [Mem.read_above d k t (Memory.above_mono lt t h.1.1)]; simp [Mem.read, ha, lt]
        · simp [Mem.read, ha, lt]
      · simp [Mem.read, ha]
    · rename_i ne
      split
      · rename_i lt
        split
        · rfl
        · by_cases lk : k < a
          · have : k < x.1 := by omega
            have : x.1 ≠ k := by omega
            simp [Mem.read, ha, lk, *]
          · simp [Mem.read, ha, lk]
      · rename_i nlt
        simp [Mem.read, Mem.read_write_ne d a v k hk t h.2]

/-- A run of bytes stored keeps the canonical form. -/
theorem Memory.wf_store (d : Option Byte) : ∀ (vs : List Byte) (m : Mem) (a : Nat), Memory.wf d m = true → Memory.wf d (Mem.store d m a vs) = true
  | [], _, _, h => h
  | v :: vs, m, a, h => Memory.wf_store d vs _ _ (Memory.wf_write d a v m h)

/-- A run of bytes stored leaves every address outside it. -/
theorem Mem.read_store_out (d : Option Byte) (k : Nat) : ∀ (vs : List Byte) (m : Mem) (a : Nat), Memory.wf d m = true →
    (k < a ∨ a + vs.length ≤ k) → Mem.read d (Mem.store d m a vs) k = Mem.read d m k
  | [], _, _, _, _ => rfl
  | v :: vs, m, a, h, hk => by
    simp only [List.length_cons] at hk
    rw [Mem.store, Mem.read_store_out d k vs _ _ (Memory.wf_write d a v m h) (by omega), Mem.read_write_ne d a v k (by omega) m h]

/-- A run of bytes stored reads back. -/
theorem Mem.read_store_in (d : Option Byte) (i : Nat) : ∀ (vs : List Byte) (m : Mem) (a : Nat) (_ : Memory.wf d m = true) (h : i < vs.length),
    Mem.read d (Mem.store d m a vs) (a + i) = some vs[i]
  | [], _, _, _, h => absurd h (by simp)
  | v :: vs, m, a, hw, h => by
    cases i with
    | zero =>
      rw [Mem.store, Mem.read_store_out d _ vs _ _ (Memory.wf_write d a v m hw) (by omega), Nat.add_zero,
        Mem.read_write_same d a v m hw]
      rfl
    | succ i =>
      have := Mem.read_store_in d i vs (Mem.write d m a v) (a + 1) (Memory.wf_write d a v m hw) (by simpa using h)
      rw [Mem.store, show a + (i + 1) = a + 1 + i by omega, this]
      rfl

/-- An element written keeps the canonical form. -/
theorem Memory.wf_setWord (m : Mem) (i : Nat) (v : Word) (h : Memory.wf (some 0) m = true) : Memory.wf (some 0) (m.setWord i v) = true :=
  Memory.wf_store _ _ _ _ h

/-- Elements written keep the canonical form. -/
theorem Memory.wf_setWords : ∀ (vs : List Word) (m : Mem) (i : Nat), Memory.wf (some 0) m = true → Memory.wf (some 0) (m.setWords i vs) = true
  | [], _, _, h => h
  | v :: vs, m, i, h => Memory.wf_setWords vs _ _ (Memory.wf_setWord m i v h)

end Sys2Proof.Machine
end

