-- ==== Sys2Proof/Laws/Shapes.lean ====
section
/-! SUPPORT. What a command can touch beside the block: eighteen commands a comb buffer, the commands of the register map and the Kettle's resets
the fuses, and no command the queue. -/

namespace Sys2Proof.Machine
open Sys2Proof

/-- The commands that may write a comb buffer. -/
def bufWriter : Instr → Bool
  | .tcopy .. | .orth .. | .mma .. | .mmag .. | .xstat .. | .gatheredRowTake .. | .stepStart .. | .powerEntryComplete .. | .combFailure .. |
    .combWatchdog .. | .combReturnWakeDone .. | .wakeComplete .. | .unpackDequantise .. | .writeResidual .. | .deliverResult .. |
    .codebookDecode .. | .pageOutReadback .. | .pageInComplete .. => true
  | _ => false

/-- The commands that may touch the fuses. -/
def fuseToucher : Instr → Bool
  | .mspWrite .. | .registerWrite .. | .fuseBurnPassword | .fuseBurnAnchor | .fuseBurnComplete | .cmbReleaseRequest .. | .cmbReturnRequest ..
  | .lnkTakeOutRequest .. | .lnkBringBackRequest .. | .ctrlRequestWithdraw .. | .prtLinkWeightWrite .. | .prtCollTimeoutWrite ..
  | .pwrCombCfgWrite .. | .pwrLnkCfgWrite .. | .pwrRstReq .. | .evlAckWrite .. | .evlSelWrite .. | .nvmCtrlWrite .. | .hbmScrubHoursWrite ..
  | .lnkRelayWeightWrite .. | .kettlePowerOn | .kettleSelfWatchdog => true
  | _ => false

/-- The buffers and the fuses after a command. -/
theorem exec_keeps (i : Instr) (s : State) : ∃ t, exec i s = .next t ∧ (bufWriter i = false → t.bufs = s.bufs) ∧
    (fuseToucher i = false → t.fuses = s.fuses) := by
  cases i
  case ctrlRequestWithdraw x => cases x <;> exact ⟨_, rfl, fun _ => rfl, fun h => Bool.noConfusion h⟩
  all_goals first
    | exact ⟨_, rfl, fun _ => rfl, fun _ => rfl⟩
    | exact ⟨_, rfl, fun _ => rfl, fun h => Bool.noConfusion h⟩
    | exact ⟨_, rfl, fun h => Bool.noConfusion h, fun _ => rfl⟩

/-- A command that is not a writer of the buffers leaves them. -/
theorem exec_bufs (i : Instr) (s t : State) (hb : bufWriter i = false) (e : exec i s = .next t) : t.bufs = s.bufs := by
  obtain ⟨u, hu, h, _⟩ := exec_keeps i s
  cases hu.symm.trans e
  exact h hb

/-- A command that is not of the register map or a Kettle reset leaves the fuses. -/
theorem exec_fuses (i : Instr) (s t : State) (hf : fuseToucher i = false) (e : exec i s = .next t) : t.fuses = s.fuses := by
  obtain ⟨u, hu, _, h⟩ := exec_keeps i s
  cases hu.symm.trans e
  exact h hf

end Sys2Proof.Machine
end

