-- ==== Sys2Proof/WellFormed.lean ====
section
/-! DEFINITION. Well-formed commands: what the types of the operands leave open and the spec fixes, namely the lengths of flits, messages,
descriptors, headers and doorbells, and the ranges of context numbers, VF counts and link widths. -/

namespace Sys2Proof

/-- Flits of a message of the sequenced space: a 64-byte head, and with the flits that came before at most 64 body flits (R203, R204). -/
def RxMsg.wf (m : RxMsg) : Bool := m.head.length == 64 && decide (m.body.length ≤ 4096) && decide (m.skip ≤ 64)
/-- A buzz message: two flit bodies (R203). -/
def BuzzRx.wf (m : BuzzRx) : Bool := m.head.length == 64 && m.body.length == 64
/-- A descriptor of 64 bytes (R308). -/
def DescRead.wf : DescRead → Bool
  | .ok bs => bs.length == 64
  | .failed => true
/-- A remap record of 16 bytes (R189), or its tunnel message. -/
def RemapSrc.wf : RemapSrc → Bool
  | .msp bs => bs.length == 16
  | .tunnel _ rx => rx.wf

/-- The command is well-formed. -/
def Instr.wf (i : Instr) : Bool :=
  match i with
  | .mspRead _ _ count _ pace _ => decide (pace.length ≤ count) && pace.all (fun k => decide (k ≤ 2))
  | .mspInvalidOpcode cmd => decide (4 < cmd.toNat / 16)
  | .remapAssume src => src.wf
  | .remapRelease src => src.wf
  | .remapExclude src => src.wf
  | .hello _ _ msg => msg.length == 64
  | .prove _ _ msg => msg.length == 64
  | .handshakeExpiry ctx => decide (ctx < 4096)
  | .doorbell _ _ ctx width _ => decide (ctx < 4096) && [1, 2, 4, 8].contains width
  | .claim ctx d => decide (ctx < 4096) && d.wf
  | .release ctx d => decide (ctx < 4096) && d.wf
  | .post ctx d => decide (ctx < 4096) && d.wf
  | .parcel ctx d _ => decide (ctx < 4096) && d.wf
  | .parcelReceive _ rx => rx.wf
  | .parcelNoRouteTimeout ctx => decide (ctx < 4096)
  | .cbload ctx d _ => decide (ctx < 4096) && d.wf
  | .spillAdd ctx d => decide (ctx < 4096) && d.wf
  | .spillRemove ctx d _ _ => decide (ctx < 4096) && d.wf
  | .close ctx d => decide (ctx < 4096) && d.wf
  | .vfEnable _ _ numVfs => decide (numVfs.toNat ≤ 128)
  | .buzzBarrier _ m => m.wf
  | .buzzSumW32 _ m => m.wf
  | .buzzSumW64 _ m => m.wf
  | .buzzSumF32 _ m => m.wf
  | .buzzMax8 _ m => m.wf
  | .buzzMax16 _ m => m.wf
  | .buzzMax32 _ m => m.wf
  | .buzzMax64 _ m => m.wf
  | .buzzCapReport _ m => m.wf
  | .buzzAbort _ m => m.wf
  | .bulkMessage _ rx _ => rx.wf
  | .linkControlFlit _ body _ => body.length == 64
  | .tunnelGenerationReport _ rx => rx.wf
  | .trainingLockFlit _ _ body _ => body.length == 64
  | .trainingIdentifyFlit _ body _ _ => body.length == 64
  | .trainingGrantFlit _ body _ => body.length == 64
  | .headerReadDone hdr => hdr.length == 256
  | .pcieLinkUp _ width speed _ => [1, 2, 4, 8, 16].contains width && decide (1 ≤ speed) && decide (speed ≤ 6)
  | .nop _ _ | .fence _ | .br _ _ _ | .loop _ _ _ | .lset _ _ _ _ | .wake _ _ _ | .tld _ _ _ _ | .tldx _ _ _ _ | .tview _ _ _ _ _ |
    .tinfo _ _ _ _ _ | .tcopy _ _ _ _ _ _ | .steep _ _ _ _ _ | .xchg _ _ _ _ _ | .xstat _ _ _ _ _ _ | .score _ _ _ _ _ | .bsel _ _ _ _ _ |
    .cbq _ _ _ _ _ _ | .mma _ _ _ _ _ _ _ _ _ | .mmag _ _ _ _ _ _ _ _ _ | .orth _ _ _ _ _ _ | .sli _ _ _ _ | .slih _ _ _ _ |
    .smov _ _ _ _ | .sadd _ _ _ _ _ | .ssub _ _ _ _ _ | .smul _ _ _ _ _ | .sdiv _ _ _ _ _ | .sand _ _ _ _ _ | .sor _ _ _ _ _ |
    .sxor _ _ _ _ _ | .sshl _ _ _ _ _ | .sshr _ _ _ _ _ | .ssra _ _ _ _ _ | .fadd _ _ _ _ _ | .fsub _ _ _ _ _ | .fmul _ _ _ _ _ |
    .fdiv _ _ _ _ _ | .fmax _ _ _ _ _ | .fmin _ _ _ _ _ | .fsqrt _ _ _ _ | .fcvti _ _ _ _ | .icvtf _ _ _ _ | .scmp _ _ _ _ _ _ |
    .plog _ _ _ _ _ _ | .barr _ _ | .sred _ _ _ _ _ _ | .sout _ _ _ _ | .mspStatus _ _ | .mspWrite _ _ _ _ | .mspLogin _ _ |
    .mspLogout _ | .registerWrite _ _ | .fuseBurnPassword | .fuseBurnAnchor | .fuseBurnComplete | .cmbReleaseRequest _ |
    .cmbReturnRequest _ | .lnkTakeOutRequest _ | .lnkBringBackRequest _ | .ctrlRequestWithdraw _ | .prtLinkWeightWrite _ _ |
    .prtCollTimeoutWrite _ _ | .pwrCombCfgWrite _ _ _ | .pwrLnkCfgWrite _ _ _ | .pwrRstReq _ | .evlAckWrite _ | .evlSelWrite _ |
    .evlDataRead _ | .nvmCtrlWrite _ | .hbmScrubHoursWrite _ | .lnkRelayWeightWrite _ _ | .mspSessionIdleExpiry | .mspLoginLockoutExpiry |
    .openDoorbellIgnored _ _ _ | .openLockoutExpiry _ _ | .codebookHashComplete _ _ | .functionLevelResetVf _ _ | .functionLevelResetPf _ |
    .hotReset _ | .fundamentalReset _ | .pcieLinkDown _ | .stepStart _ _ | .membershipAgreementComplete _ | .membershipAgreementRetry _ |
    .digestAgreementComplete _ _ | .selectBlocks _ _ | .quantisePack _ _ _ | .unpackDequantise _ _ _ | .writeResidual _ _ _ |
    .deliverResult _ _ | .lowrankOrthogonalise _ _ _ _ | .codebookDecode _ _ _ _ | .gatheredRowTake _ _ | .roundAllocate _ _ |
    .capReportSend _ _ | .collectiveTimeout _ _ | .settlePeriodEnd _ | .buzzConfirm _ _ _ | .ingressWaitEnd _ | .slotFill _ |
    .heartbeatDue _ | .nakRepeatTimeout _ _ | .resendTimeout _ _ | .resendLimitExceeded _ _ | .heartbeatLoss _ | .alignmentLoss _ _ |
    .laneLoss _ | .trainingDetect _ | .trainingEqualiseDone _ | .trainingTimeout _ | .trainingRetry _ |
    .linkReady _ | .linkEnterService _ | .combIdleTimerExpiry _ | .powerEntryComplete _ | .wakeComplete _ | .linkSimmerEntry _ |
    .linkSimmerExit _ | .linkGroupIdleTimerExpiry _ | .linkPark _ | .linkWake _ | .wakeHintHoldExpiry _ | .combFailure _ _ |
    .combWatchdog _ | .combReturnWakeDone _ _ | .coreRefclkLoss | .lnkRefclkLoss | .pcieRefclkLoss _ | .kettlePowerOn |
    .kettleSelfWatchdog | .chipRstN _ | .railFault | .startUpBegin _ _ | .coreInitDone _ | .imageStreamDone _ | .signatureVerifyDone |
    .contentVerifyDone | .layoutDone | .programFetch _ _ | .scrubSectorRead _ _ | .hbmTempRead _ _ | .hbmStackErrorLimit _ |
    .hbmReadTimeout _ | .hbmTrainingLoss _ | .dieSensorRead _ | .mirrorAudit _ | .pageOut _ _ | .pageOutReadback _ _ _ | .pageInComplete _ _ _ |
    .tapReset | .extest | .samplePreload _ _ | .clamp | .highz | .bypass => true

end Sys2Proof
end

