-- ==== Sys2Proof/Tests/Slice0.lean ====
section
/-! SUPPORT. Tests: ill-formed commands that `Instr.wf` refuses, results that the spec works out, and for every statement with hypotheses a state and
operands that meet them. -/

set_option Elab.async false

open Sys2Proof Sys2Proof.Machine

namespace Sys2Proof.Tests

/-! ### States -/

def entry (m : Method) : TensorEntry :=
  { TensorEntry.nil with method := m, xfmt := .s8, n := 512, select := 1, gRole := true, rRole := true, fRole := true, ef := true, a := 32, b := 16, rank := 4
                         beam := 4, iters := 2 }
/-- An image of five tensors, one of each method in the order dense, waggle, lowrank, sign, codebook. -/
def img : PartImage :=
  { tensors := [entry .dense, entry .waggle, entry .lowrank, entry .sign, entry .codebook], prog := [], progOff := 0
    vset := Vector.replicate 6 1, quota := 100, share := 100, weight := 1, timeout := 50000, cbE := 16, key := zeros 32
    cbDigest := zeros 48, progDigest := zeros 48, entryDigest := zeros 48 }
def run0 : StepRun :=
  { comb := 0, stepNo := 0, group := img.vset, me := 0, table := [], agreed := true, retryAt := none, genBad := false, progBad := false
    next := 1, launches := [], buzz := [], rounds := [], held := [], seenAbort := [], abort := none, abortAt := 0, reseed := false
    runs := List.replicate 5 TRun.idle, count := ⟨0, 0⟩, scalars := [], owners := [], wants := [], seen := [] }
def part0 (r : Option StepRun) : Part :=
  { Part.reset with img := some img, vset := img.vset, run := r, joining := false }
/-- A chip that is Ready, with partition 0 and no step. -/
def ready : Block :=
  let b := Block.reset
  { b with boot := { b.boot with phase := .ready }, parts := b.parts.set 0 (part0 none)
           combs := b.combs.map (fun x => { x with svc := .idle, pwr := .boil }) }
/-- The chip with the step `r` of partition 0 on comb 0. -/
def running (r : StepRun) : Block :=
  { ready with parts := ready.parts.set 0 (part0 (some r)), combs := ready.combs.set 0 { ready.combs[0] with svc := .running, part := some 0 } }
def st (b : Block) : State := { State.reset with block := b }
/-- The chip with a step on comb 0 whose sequencer is made `f` of. -/
def brew (f : Seqr → Seqr) : Block := (running run0).modSeq 0 f
def on : Pr := ⟨false, 0⟩
/-- A descriptor of `n` elements of tensor `t` in a region. -/
def view (t region n rowlen : Nat) : Td := { Td.null with tensor := t, region := region, n := n, rowlen := rowlen }
def td2 (d0 d1 : Td) : Block := brew (fun q => (q.setTd 0 d0).setTd 1 d1)
/-- `run0` with tensor `t`'s working values made `f` of. -/
def withRun (t : Nat) (f : TRun → TRun) : StepRun := run0.modT t f

/-! ### Numbers that the spec works out -/

/-- The worked byte dump of 04_wax_frames: under the exponent 0x7E the elements 0.25, −0.1, 0.5 and 0.98 have codes 0x20, 0xF3, 0x40 and 0x7D. -/
theorem test_worked_codes : ([0x3E800000, 0xBDCCCCCD, 0x3F000000, 0x3F7AE148] : List Word).map (fun w => (quantise .s8 0x7E 0 0 (f32Val w)).code) =
    [0x20, 0xF3, 0x40, 0x7D] := by decide +kernel
/-- Its layout, and that of the sum frame. -/
theorem test_worked_layout :
    (let l := frameLayout .waggle .s8 .s8 2; (l.scaleOff, l.scaleLen, l.indexOff, l.payOff, l.payLen, l.frameLen)) = (0x40, 1, 0x80, 0xC0, 0x200, 0x2C0) ∧
    (frameLayout .waggle .s8 .w32 2).frameLen = 0x8C0 := by decide +kernel
/-- Its header and index table. -/
theorem test_worked_frame : (frameBytes
    { method := .waggle, src := .s8, pay := .s8, sum := false, predicted := false, last := true, partition := 5, epoch := 0x2A, tensor := 3, round := 0
      n := 2048, p0 := 0, u := 2, uAll := 2, param := 0, source := 0xE9 } [0x7E] [3, 6] (zeros 512)).take 0x10 =
    [0x57, 0x41, 0x58, 0x31, 0x01, 0x01, 0x66, 0x04, 0x05, 0x00, 0x2A, 0x00, 0x03, 0x00, 0x00, 0x00] := by decide +kernel
/-- The machine of 09_machine_topology: extents 8, 8, 7 and one spare value in D2; the links that its worked flits take. -/
theorem test_worked_machine : (descLogical 0x002801BF 0, descLogical 0x002801BF 1, descLogical 0x002801BF 2, descPhysical 0x002801BF 2) = (8, 8, 7, 8) ∧
    descSpareDim 0x002801BF = 2 ∧ (linkTo 3 2 7, linkTo 2 1 5, linkTo 5 1 2, linkTo 7 2 3) = (20, 11, 9, 17) := by decide +kernel
/-- Case 1 of 22_worked_steps: K = 768 of 24,576 blocks, and the frames of the predicted round. -/
theorem test_worked_case1 : kOf 24576 (2 ^ 31 + 2048) = 768 ∧ (frameLayout .waggle .s8 .s8 768).frameLen = 0x31880 ∧
    (frameLayout .waggle .s8 .w32 768).frameLen = 0xC1880 ∧ (frameLayout .waggle .s8 .w32 16).frameLen = 0x4100 := by decide +kernel
/-- The link of the worked example of 20_registers, taken out: LNK_STATE but for mseq. -/
theorem test_worked_link_state : linkView { Link.reset with lastCode := 0x0208 } = 0x020818 := by decide +kernel
theorem test_worked_nvm_cfg : nvmCfgOk 0x00140203 = true := by decide
/-- The reciprocal of the member count (R121). -/
theorem test_sigma_of_three : sigmaN 3 = 0x3EAAAAAB := by decide +kernel
/-- The word of the scale 2^−9 in the worked program of 13_brew_reference. -/
theorem test_worked_scale : f32Val 0x3B000000 = .fin false (2 ^ 140) := by decide +kernel

theorem test_plog_and : ((0x8 : BitVec 4).getLsbD 3, (0x8 : BitVec 4).getLsbD 2, (0x8 : BitVec 4).getLsbD 1, (0x8 : BitVec 4).getLsbD 0)
    = (true, false, false, false) := by decide
theorem test_no_row_has_bits : decodeTableWord 32 0 = none := by decide
theorem test_no_word_is_queued : State.reset.withFetchWord 32 0 = State.reset := rfl

/-! ### Brew -/

theorem witness_MirrorsFollowTheDataPath : (ready.part 0).img.isSome = true ∧ (ready.modComb 1 (fun x => { x with pwr := .simmer })).resets = ready.resets ∧
    ((finish ready (ready.modComb 1 (fun x => { x with pwr := .simmer }))).mirrors.comb[(1 : CombId)]).mseq = 1 := by decide +kernel
theorem witness_FailedPredicateOnlyMovesThePc : (Instr.nop 0 ⟨true, 0⟩).predicated = some (0, ⟨true, 0⟩) ∧ (running run0).mayIssue 0 = true ∧
    ((running run0).seq 0).sure 0 = true ∧ ((((running run0).seq 0).pred 0) ^^ true) = false ∧
    ((brew (fun q => { q with qx := q.qx.set 1 (some (.sum 0 0 0)) })).seq 0).sure 1 = false := by decide +kernel
theorem witness_AbortedStepIssuesNothing : (Instr.fence 0).brewComb = some 0 ∧
    (running { run0 with abort := some 0x340 }).stepOf 0 = some (0, { run0 with abort := some 0x340 }) := by decide +kernel
/-- S0 and an immediate are operands that wait for nothing. -/
theorem witness_IntegerScalarResults : (running run0).issues 0 on = true ∧ ((running run0).seq 0).pend 31 = false ∧
    ((running run0).seq 0).pend 0 = false ∧ ((running run0).seq 0).srcPend (.imm 5) = false ∧ ((running run0).seq 0).srcPend (.reg 31) = false := by
  decide +kernel
theorem witness_ControlFlow :
    (running run0).issues 0 on = true ∧ (((running run0).seq 0).s[3]).pend = false ∧ (((running run0).seq 0).s[3]).ex = none ∧
    (brew (fun q => q.setL 0 2)).mayIssue 0 = true ∧ 1 < (((brew (fun q => q.setL 0 2)).seq 0).l[0]).toNat ∧
    (((brew (fun q => q.setL 3 1)).seq 0).l[3]).toNat ≤ 1 ∧ (((brew (fun q => q.setL 0 0)).seq 0).l[0]).toNat ≤ 1 := by decide +kernel
theorem witness_DescriptorInstructions :
    (running run0).issues 0 on = true ∧ ((running run0).seq 0).isOpen 3 = false ∧ ((running run0).seq 0).pend 3 = false ∧ Td.null.region = 15 ∧ (view 2 0 8 0).region ≠ 15 ∧ (img.entry 2).extentOf (5 : BitVec 4).toNat = some 64 ∧
    (img.entry 0).extentOf (5 : BitVec 4).toNat = none ∧ (img.entry 2).extentOf (view 2 0 8 0).region = some 512 := by decide +kernel
theorem witness_CombBufferElementStores : Memory.wf (some 0) [] = true ∧ 0 < ([1] : List Word).length ∧ (3 < 4 * 1 ∧ 4 * (1 + 1) ≤ 8) := by decide
theorem witness_DestinationViewWrites : (view 0 4 8 0).region = 4 ∧ (view 0 1 8 0).region = 1 ∧ (((running run0).image 0).entry 0).rRole = true ∧
    (((Block.reset).image 0).entry 0).rRole = false := by decide +kernel

/-- Copies from the null descriptor, within the comb buffer, and from the gradient slot to it. -/
theorem witness_CopyAndOrthonormalise :
    (td2 (view 0 4 8 2) Td.null).issues 0 on = true ∧ (td2 (view 0 4 8 2) Td.null).stepOf 0 = some (0, run0) ∧
    ((td2 (view 0 4 8 2) Td.null).comb 0).prods = [] ∧ ((td2 (view 0 4 8 2) Td.null).comb 0).ops = [] ∧ (running run0).viewWaits 0 run0 (view 0 4 8 2) = false ∧
    (running run0).viewWaits 0 run0 Td.null = false ∧ (running run0).dstWaits 0 run0 (view 0 4 8 2) = false ∧
    (running run0).viewWaits 0 run0 (view 0 0 8 2) = false ∧ (running run0).viewFmt 0 (view 0 0 8 2) ≠ .s8 ∧
    1 ≤ (view 0 0 8 64).rowlen ∧ (view 0 0 8 64).rowlen ≤ 64 ∧ 64 < (view 0 0 8 65).rowlen := by decide +kernel
theorem witness_CopyReads : (td2 (view 0 4 8 2) (view 0 0 8 2)).readAll 0 run0 [(view 0 0 8 2, .ok [])] [] =
    ((td2 (view 0 4 8 2) (view 0 0 8 2)).modRun 0 (fun r => { r with wants := [], seen := [] }), true) := rfl
theorem witness_FailedCopyRead : ((td2 (view 0 4 8 2) (view 0 0 8 2)).readAll 0 run0 [(view 0 0 8 2, .failed)] []).2 = false := rfl

/-- A product of a row of two with a column of two, all in the comb buffer; then one whose stream is null. -/
def cfg0 : OutCfg := ⟨none, none, .none, .none⟩
def reads0 : MmaReads := ⟨.failed, .failed, .failed, .failed⟩
def prodBlock : Block := td2 (view 0 4 2 2) (view 0 4 2 1)
def out0 : OutSet := outSet cfg0 Seqr.reset
def mma0 (D S X : Td) (gathered : Bool) : InfOp := .mma D S X .b16 out0 reads0 [] gathered
theorem witness_MatrixProducts :
    prodBlock.issues 0 on = true ∧ prodBlock.stepOf 0 = some (0, run0) ∧ (prodBlock.comb 0).ops = [] ∧ cfgPend cfg0 (prodBlock.seq 0) = false ∧
    outSet cfg0 (prodBlock.seq 0) = out0 ∧
    prodBlock.opWaits 0 0 run0 (mma0 (view 0 4 2 2) (view 0 4 2 2) (view 0 4 2 1) false) = false ∧
    prodBlock.opWaits 0 0 run0 (mma0 (view 0 4 2 2) (view 0 4 2 2) (view 0 4 2 1) true) = false ∧
    prodBlock.mmaRetires 0 (view 0 4 2 2) (view 0 4 2 2) (view 0 4 2 1) out0 = false ∧
    prodBlock.mmaRetires 0 (view 0 4 2 2) Td.null (view 0 4 2 1) out0 = true ∧
    prodBlock.gathers 0 run0 (view 0 4 2 2) = false := by decide +kernel
theorem witness_MatrixProductReads : prodBlock.readAll 0 run0 (mmaOperands out0 (view 0 4 2 2) (view 0 4 2 1) reads0 false) [] =
    (prodBlock.modRun 0 (fun r => { r with wants := [], seen := [] }), true) := rfl
theorem witness_MatrixProductFailedRead : (prodBlock.readAll 0 run0 (mmaOperands out0 (view 0 4 2 2) (view 0 0 2 1) reads0 false) []).2 = false := rfl

/-- Tensor 0 is exchanged and its sum is there; TD0 is its sum, TD1 a view of the comb buffer. -/
def xrun : StepRun := withRun 0 (fun t => { t with st := .exchanged, xissued := true, decoded := some (List.replicate 512 f32Zero), delivered := true })
def xblock : Block := (running xrun).modSeq 0 (fun q => (q.setTd 0 (view 0 6 4 2)).setTd 1 (view 0 4 2 1))
def gprod : GProd :=
  { dst := view 0 4 2 1, stream := view 0 6 4 2, cvt := .b16, rows := 2, inner := 2, cols := 1, weights := [], scale := none, bias := [], ew := 0, z := []
    act := 0, lo := 0, hi := 0, taken := [0], early := [] }
def gblock : Block := xblock.modComb 0 (fun x => { x with prods := [gprod] })
theorem witness_GatheredProducts :
    xblock.issues 0 on = true ∧ xblock.stepOf 0 = some (0, xrun) ∧ (xblock.comb 0).ops = [] ∧
    xblock.opWaits 0 0 xrun (mma0 (view 0 4 2 1) (view 0 6 4 2) (view 0 4 2 1) true) = false ∧
    xblock.opWaits 0 0 xrun (mma0 (view 0 4 2 1) (view 0 6 4 2) (view 0 4 2 1) false) = false ∧
    xblock.mmaRetires 0 (view 0 4 2 1) (view 0 6 4 2) (view 0 4 2 1) out0 = false ∧ xblock.gathers 0 xrun (view 0 6 4 2) = true ∧
    gblock.stepOf 0 = some (0, xrun) ∧ (gblock.comb 0).prods = [gprod] ∧ 1 < gprod.rows ∧ gprod.taken.contains 1 = false ∧
    gblock.gatheredRow 0 xrun gprod 1 = some ([f32Zero, f32Zero], []) := by decide +kernel
theorem witness_GatheredReads : xblock.readAll 0 xrun (mmaOperands out0 (view 0 6 4 2) (view 0 4 2 1) reads0 true) [] =
    (xblock.modRun 0 (fun r => { r with wants := [], seen := [] }), true) := rfl

/-- The chip with the image `i` and the step `r` of partition 0 on comb 0. -/
def runningI (i : PartImage) (r : StepRun) : Block :=
  let b := running r
  b.modPart 0 (fun x => { x with img := some i })
/-- XSTAT on a tensor with statistics; SCORE, BSEL and CBQ on their methods, at the last block or pattern and beyond it. -/
def imgS : PartImage := { img with tensors := [{ entry .dense with stats := true }] }
def wrun : StepRun := withRun 1 (fun t => { t with st := .exchanged, xissued := true, conf := some [1] })
def crun : StepRun := withRun 4 (fun t => { t with st := .steeped })
def cbBlock : Block := (running crun).modPart 0 (fun x => { x with cb := { x.cb with st := .accepted } })
theorem witness_ReadbackInstructions :
    (runningI imgS xrun).issues 0 on = true ∧ (runningI imgS xrun).stepOf 0 = some (0, xrun) ∧
    (runningI imgS xrun).xstatRuns 0 xrun (view 0 4 2 1) (view 0 6 2 1) = true ∧
    (runningI imgS xrun).xstatRuns 0 xrun (view 0 4 2 1) Td.null = false ∧ ((runningI imgS xrun).comb 0).prods = [] ∧
    ((runningI imgS xrun).comb 0).ops = [] ∧ (runningI imgS xrun).ctlFull 0 = false ∧
    (xrun.unitRun imgS 0).decoded.isSome = true ∧ (runningI imgS xrun).dstWaits 0 xrun (view 0 4 2 1) = false ∧
    ((running wrun).seq 0).isOpen 1 = false ∧ ((running wrun).seq 0).pend 1 = false ∧
    cbBlock.cbqWaits 0 (cbBlock.seq 0) 1 2 (view 4 0 512 0) = false ∧ (running wrun).waggleWaits 0 (view 1 0 512 0) 1 = false ∧ (running wrun).waggleWaits 0 (view 1 0 512 0) 2 = false ∧
    cbBlock.stepOf 0 = some (0, crun) ∧ (crun.unitRun (cbBlock.image 0) 4).left = none ∧ cbBlock.cbqRuns 0 crun (view 4 0 512 0) 3 = true ∧
    cbBlock.cbqRuns 0 crun (view 4 0 512 0) 4 = false := by decide +kernel

/-- A gradient of 512 F32 zeros, and one that fails. -/
def imgN : PartImage := { img with tensors := [{ entry .dense with ef := false }] }
def steeped : StepRun := withRun 0 (fun t => { t with st := .steeped })
theorem witness_SteepAndExchange :
    (runningI imgN run0).issues 0 on = true ∧ (runningI imgN run0).stepOf 0 = some (0, run0) ∧ (run0.trun 0).st = .idle ∧
    (runningI imgN run0).ctlWaits 0 (view 0 0 512 0) = false ∧ (xrun.trun 0).st ≠ .idle ∧ (xrun.trun 0).st = .exchanged ∧ (imgN.gradients 0 [.ok (zeros 2048)]).isSome = true ∧
    imgN.gradients 0 [.failed] = none ∧ (steeped.trun 0).st = .steeped ∧
    (let b1 := (((runningI imgN run0).modT 0 0 (fun t => { t with st := .steeped, grads := List.replicate 512 f32Zero, left := some 0 })).modTMem 0 0
        (fun m => { m with opBad := false })).steepGo 0 0
     (b1.run? 0).isSome = true ∧ (b1.run? 0).all (fun r => r.abort.isNone) = true) := by decide +kernel
theorem witness_LaunchesAndResults : (running run0).issues 0 on = true ∧
    (sregs 24 (7 + 1) ++ sregs 16 (7 + 1)).any ((running run0).seq 0).pend = false ∧ ((running run0).seq 0).isOpen 3 = false := by decide +kernel
/-- A steeped tensor's working page 0 holds a non-finite element and is paged out. -/
def dirtyRun : StepRun := withRun 0 (fun t => { t with st := .steeped, dirty := [(0, 0)] })
def lostPage : Block := (running dirtyRun).modPart 0 (fun x => { x with
  pages := [{ tensor := 0, copy := true, page := 0, spilled := some 0, live := true, used := 0 }] })
theorem witness_StepFence :
    (running run0).mayIssue 0 = true ∧ (running run0).fenceReady run0 = true ∧ (running run0).ledgerFaults = [] ∧
    (running run0).cleanSteeped 0 run0 = (running run0, true) ∧ (∀ t ∈ run0.runs, t.dirty = []) ∧
    ((lostPage).cleanSteeped 0 dirtyRun).2 = false ∧
    (running { run0 with launches := [.tensor 0] }).fenceReady { run0 with launches := [.tensor 0] } = false ∧
    { running run0 with hcbFree := 24575 }.ledgerFaults = [(0x0702, .honeycomb 0, [0, 24575])] := by decide +kernel

/-! ### The management port -/

/-- `ready` with a session, at KT `t`. -/
def port (t : Nat) : Block := { ready with kettle := { ready.kettle with kt := t }, msp := { ready.msp with session := true } }
theorem witness_MspStatusAndSessionEnds : ready.mspOff = false ∧ (port 0).msp.session = true ∧
    ((port 250000000).msp.session = true ∧ (port 250000000).msp.lastUse + 250000000 ≤ (port 250000000).now) ∧
    ¬((port 249999999).msp.lastUse + 250000000 ≤ (port 249999999).now) := by decide +kernel
/-- A lockout that ends at KT 5; the password's digest, and fuses that hold another. -/
def locked (t : Nat) : Block := { port t with msp := { (port t).msp with lockUntil := 5 } }
theorem witness_MspLogin :
    (locked 4).mspOff = false ∧ (locked 4).mspBegin.now < (locked 4).mspBegin.msp.lockUntil ∧ (locked 5).mspBegin.msp.lockUntil ≤ (locked 5).mspBegin.now ∧
    (zeros 31).length ≠ 32 ∧ (zeros 32).length = 32 ∧ allZero Fuses.reset.pwd = true ∧ allZero (List.replicate 32 (1 : Byte)) = false ∧
    sha256 (zeros 32) ≠ List.replicate 32 1 := by decide +kernel
theorem witness_MspReadOneRegister :
    (0x000000 : BitVec 32) ≠ 0x700020 ∧ (0x000001 : BitVec 32).toNat % 4 ≠ 0 ∧ ready.readReg Fuses.reset 0xFFFFFFFC = none ∧
    (ready.readReg Fuses.reset 0x600000).isSome = true ∧ ready.mspBegin.msp.session = false ∧ openRead 0x600000 = false ∧
    (port 0).mspBegin.msp.session = true ∧ (ready.readReg Fuses.reset 0).isSome = true ∧ openRead 0 = true := by decide +kernel
theorem witness_RegisterWriteGate :
    ready.mspOff = false ∧ (0x000003 : BitVec 32).toNat % 4 ≠ 0 ∧ ready.mspBegin.readReg Fuses.reset 0xFFFFFFFC = none ∧
    (ready.mspBegin.readReg Fuses.reset 0x600000).isSome = true ∧ ready.mspBegin.msp.session = false ∧ (port 0).mspBegin.msp.session = true := by
  decide +kernel
theorem witness_FuseBurns :
    (port 0).managed = true ∧ Fuses.reset.pwdSet = false ∧ Fuses.reset.anchorSet = false ∧ Fuses.reset.busy = none ∧
    { Fuses.reset with pwdSet := true, anchorSet := true }.sound ∧
    { Fuses.reset with busy := some (0x0000A5D1, zeros 32) }.sound ∧ { Fuses.reset with busy := some (0x0000A5D2, zeros 48) }.busy.isSome = true := by
  refine ⟨by decide +kernel, by decide +kernel, by decide +kernel, by decide +kernel, ?_, ?_, by decide +kernel⟩ <;> simp [Fuses.sound, Fuses.reset]
/-- The bytes of a record that excludes value `v` of dimension 0. -/
def excl (gen v : Nat) : List Byte := RemapRec.bytes { gen := gen, kind := 3, dim := 0, value := v, logical := 0, physical := 0 }
/-- Excluding value 0 applies and value 7 does not; a record of each kind has its kind byte; a record whose byte 7 is not 0 breaks its checks. -/
theorem witness_RemapRecords :
    ready.mspBegin.msp.session = false ∧ (port 0).mspBegin.msp.session = true ∧ (port 0).mspBegin.boot.phase = .ready ∧
    State.reset.block.mspBegin.boot.phase ≠ .ready ∧ (excl 1 0).length = 16 ∧ field (excl 1 0) 4 1 = 3 ∧
    field ([1, 0, 0, 0, 1] ++ zeros 11) 4 1 = 1 ∧ field ([1, 0, 0, 0, 2] ++ zeros 11) 4 1 = 2 ∧
    RemapRec.parse ([1, 0, 0, 0, 3, 0, 0, 1] ++ zeros 8) = none ∧
    RemapRec.parse (excl 1 0) = some ⟨1, 3, 0, 0, 0, 0⟩ ∧ RemapRec.parse (excl 1 7) = some ⟨1, 3, 0, 7, 0, 0⟩ ∧
    (RemapRec.parse (excl 2 0)).map RemapRec.gen = some 2 ∧ 1 ≤ ({ Remap.reset with gen := 1 }).gen ∧ (port 0).remap.gen = 0 ∧ (port 0).remap.held = [] ∧
    ((port 0).remap.applied 0 ⟨1, 3, 0, 0, 0, 0⟩).isSome = true ∧ (port 0).remap.applied 0 ⟨1, 3, 0, 7, 0, 0⟩ = none ∧
    (((port 0).remapped (port 0).remap ⟨1, 3, 0, 0, 0, 0⟩).floodRecord ⟨1, 3, 0, 0, 0, 0⟩).remap.held = [] := by decide +kernel

/-- Comb 1 is made `f` of; link 0 is made `f` of. -/
def comb1 (f : Comb → Comb) : Block := (port 0).modComb 1 f
theorem witness_CombServiceRequests :
    (port 0).awake = true ∧ ((running run0).comb 0).svc = .running ∧ ((port 0).comb 1).svc = .idle ∧
    ((port 0).comb 1).ctrl.pend = false ∧ ((comb1 (fun x => { x with ctrl := ⟨1, 0, true⟩ })).comb 1).ctrl = ⟨1, 0, true⟩ ∧
    ((comb1 (fun x => { x with svc := .released })).comb 1).svc = .released ∧ ((comb1 (fun x => { x with svc := .released })).comb 1).waking = false ∧
    (port 0).serving = true := by decide +kernel
/-- A step of a group with two values in dimension 0, over the link to the partner with the other value. -/
def wide : VSet := #v[3, 1, 1, 1, 1, 1]
def runningWide : Block :=
  let b := running { run0 with group := wide }
  { b with boot := { b.boot with machine := 0x1 }, parts := b.parts.set 0 { part0 (some { run0 with group := wide }) with vset := wide } }
theorem witness_LinkServiceRequests : (port 0).awake = true ∧ (port 0).linkSteps 41 = [] ∧ (runningWide).linkSteps 0 ≠ [] ∧
    Link.reset.ctrl.pend = false ∧ ({ Link.reset with ctrl := ⟨1, 0, true⟩ }).ctrl.pend = true ∧ ([0].filter (· != (0 : PartId).val)) = [] := by decide +kernel
theorem witness_ValueRegisterWrites :
    (port 0).awake = true ∧ (port 0).managed = true ∧ (port 0).defined 0 = true ∧ (port 0).defined 127 = false ∧
    (1 : BitVec 32).toNat % 256 ≠ 0 ∧ (256 : BitVec 32).toNat % 256 = 0 ∧ 1250 ≤ (1250 : BitVec 32).toNat % 2 ^ 28 ∧
    (250000000 : BitVec 32).toNat % 2 ^ 28 ≤ 250000000 ∧ (1249 : BitVec 32).toNat % 2 ^ 28 < 1250 ∧
    250000000 < (250000001 : BitVec 32).toNat % 2 ^ 28 ∧
    (let h : Hbm := { Hbm.reset with scrubOn := true, scrubHours := 4 }
     ¬(h.passStart + h.scrubHours * 90000000000 ≤ 359999999999) ∧ h.passStart + h.scrubHours * 90000000000 ≤ 360000000000) ∧
    (port 0).nvm.refetchAt = (port 0).now := by decide +kernel
theorem witness_PowerRegisterWrites : (port 0).awake = true ∧ (3 : BitVec 32).toNat % 4 ≠ 0 ∧ (4 : BitVec 32).toNat % 4 = 0 ∧
    (port 9).kettle.rstAt = some (0, 1) ∧ 0 ≠ (port 9).now ∧ ({ ready.kettle with rstAt := some (0, 4) }).rstAt = some (ready.now, 4) ∧ (0x5EEE : BitVec 32) ≠ 0x5EED := by decide +kernel
theorem witness_EventLog :
    (port 0).managed = true ∧ (port 0).evl.entry 0 = none ∧
    (((port 0).log 0x0551 (.port 0) none [1, 0]).evl.entry 0).isSome = true ∧ (port 0).evl.entries.length < 2048 := by decide +kernel

/-! ### Host ports -/

/-- VFs 0 to 127 of port 0 are live; `ctx` are the contexts, `slots` the slots. -/
def host (ctxs : List Ctx) (slots : List SlotRec) : Block :=
  { ready with host := { HostSt.reset with
      ports := HostSt.reset.ports.set 0 { Port.reset with linkUp := true, vfEnable := true, numVfs := 128, width := 16, speed := 6 }
      ctxs := ctxs, slots := slots, sessFree := 4096 - ctxs.length, slotsFree := 65536 - slots.length } }
def hello0 : List Byte := leBytes 4 0x4F4C4548 ++ [1, 1, 6, 12] ++ zeros 16 ++ zeros 8 ++ zeros 8 ++ zeros 8 ++ zeros 8 ++ leBytes 2 63 ++ zeros 6
/-- A handshake of VF 0 at context 0, and the session it becomes with one descriptor in its ring. -/
def pend0 : Ctx := Ctx.ofHello 0 0 0 hello0 (zeros 16) 0
def ctx0 : Ctx := { pend0 with isOpen := true, token := 7, sqTail := 1 }
theorem witness_HelloAnswersWithChallenge :
    (host [] []).vfLive 1 0 = false ∧ (host [] []).vfLive 0 127 = true ∧ hello0.length = 64 ∧ field hello0 5 1 = 1 ∧ helloOk hello0 = true ∧
    helloOk (hello0.set 6 13) = false ∧ field (hello0.set 6 13) 5 1 = 1 ∧ (hello0.set 6 13).length = 64 ∧
    ({ Port.reset with lockouts := [(0, 5)] }).locked 0 4 = true ∧ ({ Port.reset with lockouts := [(0, 5)] }).locked 0 5 = false ∧
    (host [] []).boot.phase = .ready ∧ (host [] []).defined 0 = true ∧ (host [] []).defined 127 = false ∧ (host [] []).host.sessFree ≠ 0 ∧
    Boot.reset.phase ≠ .ready ∧ ({ HostSt.reset with sessFree := 0 }).sessFree = 0 := by decide +kernel
def prove0 (mac : List Byte) : List Byte := leBytes 4 0x564F5250 ++ [1, 3] ++ leBytes 2 0 ++ zeros 16 ++ mac ++ zeros 8
theorem witness_ProveOpensOrLocksOut :
    (host [pend0] []).vfLive 0 0 = true ∧ (prove0 (zeros 32)).length = 64 ∧ field (prove0 (zeros 32)) 5 1 = 3 ∧
    (host [] []).host.ctxs.find? (fun c => proveFits c 0 0 (prove0 (zeros 32)) 0) = none ∧
    (host [pend0] []).host.ctxs.find? (fun c => proveFits c 0 0 (prove0 (zeros 32)) 0) = some pend0 ∧
    field ((prove0 (zeros 32)).set 4 2) 4 1 ≠ 1 ∧ field (prove0 (zeros 32)) 0 4 = 0x564F5250 ∧ field (prove0 (zeros 32)) 4 1 = 1 ∧
    allZero (slice (prove0 (zeros 32)) 0x38 8) = true ∧ slice (prove0 (zeros 32)) 0x18 32 ≠ pend0.mac (zeros 32) ∧
    slice (prove0 (pend0.mac (zeros 32))) 0x18 32 = pend0.mac (zeros 32) ∧
    (host [pend0] []).ctx? pend0.id = some pend0 ∧ pend0.isOpen = false ∧
    ({ Port.reset with lockouts := [(0, 5)] }).lockouts.find? (fun q => q.1 == 0) = some (0, 5) := by decide +kernel
/-- The submission index may stand at 64 ahead of the head, and not at 65; it may not fall back. -/
theorem witness_DoorbellMovesTheIndices :
    (host [ctx0] []).vfLive 0 0 = true ∧ (host [ctx0] []).ctx? 1 = none ∧ (host [ctx0] []).ctx? 0 = some ctx0 ∧ ctx0.isOpen = true ∧ ctx0.token = 7 ∧
    ¬(2 ^ ctx0.sqLog < (64 + 65536 - ctx0.sqHead) % 65536) ∧ 2 ^ ctx0.sqLog < (65 + 65536 - ctx0.sqHead) % 65536 ∧
    ¬((1 + 65536 - ctx0.sqHead) % 65536 < (ctx0.sqTail + 65536 - ctx0.sqHead) % 65536) ∧
    (0 + 65536 - ctx0.sqHead) % 65536 < (ctx0.sqTail + 65536 - ctx0.sqHead) % 65536 ∧
    ¬((ctx0.cqTail + 65536 - ctx0.cqHead) % 65536 < (0 + 65536 - ctx0.cqHead) % 65536) := by decide +kernel

/-- A descriptor of 64 bytes. -/
def desc (ty req slot tensor role addr len arg0 arg1 : Nat) : List Byte :=
  [byteOf ty, 0, 0, 0] ++ leBytes 4 req ++ leBytes 4 slot ++ leBytes 2 tensor ++ [byteOf role, 0] ++ leBytes 8 addr ++ leBytes 8 len ++
  leBytes 8 arg0 ++ leBytes 8 arg1 ++ zeros 16
theorem witness_DescriptorReading :
    (host [ctx0] []).ctx? 0 = some ctx0 ∧ (host [ctx0] []).canTake ctx0 = true ∧ (host [pend0] []).canTake pend0 = false ∧
    (host [pend0] []).ctx? 0 = some pend0 ∧ (desc 1 1 0 0 0 0 0 0 0).length = 64 ∧ dType (desc 1 1 0 0 0 0 0 0 0) = 1 ∧
    dReq (desc 1 1 0 0 0 0 0 0 0) ≠ ctx0.expReq ∧ dReq (desc 9 0 0 0 0 0 0 0 0) = ctx0.expReq ∧ 8 < dType (desc 9 0 0 0 0 0 0 0 0) ∧
    dType (desc 0 0 0 0 0 0 0 0 0) = 0 ∧ dUnusedZero (desc 1 0 0 0 0 0 0 1 0) = false := by decide +kernel

/-- Slot 0 of context 0: role `role` of tensor 0. -/
def slot0 (role : Nat) (armed inUse : Option Nat) : SlotRec :=
  { id := 0, ctx := 0, part := 0, tensor := 0, role := role, addr := 0, len := 2048, cur := 0, armed := armed, inUse := inUse }
theorem reads_desc (slots : List SlotRec) (ty req slot tensor role addr len arg0 arg1 : Nat)
    (h : ((host [ctx0] slots).ctx? 0 == some ctx0 && (host [ctx0] slots).canTake ctx0 &&
      (desc ty req slot tensor role addr len arg0 arg1).length == 64 && dType (desc ty req slot tensor role addr len arg0 arg1) == ty &&
      dReq (desc ty req slot tensor role addr len arg0 arg1) == ctx0.expReq && dUnusedZero (desc ty req slot tensor role addr len arg0 arg1)) = true) :
    (host [ctx0] slots).reads 0 ty ctx0 (desc ty req slot tensor role addr len arg0 arg1) := by
  simp only [Bool.and_eq_true, beq_iff_eq] at h
  exact ⟨h.1.1.1.1.1, h.1.1.1.1.2, h.1.1.1.2, h.1.1.2, h.1.2, h.2⟩
/-- A claim of a tensor that is not there, one of a gradient slot, RELEASE, POST and CLOSE. -/
theorem witness_SlotDescriptors_read :
    (host [ctx0] []).reads 0 1 ctx0 (desc 1 0 0 5 0 0 0 0 0) ∧ (host [ctx0] []).reads 0 1 ctx0 (desc 1 0 0 0 0 64 2048 0 0) ∧
    (host [ctx0] [slot0 0 none none]).reads 0 2 ctx0 (desc 2 0 0 0 0 0 0 0 0) ∧
    (host [ctx0] [slot0 0 none none]).reads 0 3 ctx0 (desc 3 0 0 0 0 0 0 0 0) ∧ (host [ctx0] []).reads 0 8 ctx0 (desc 8 0 0 0 0 0 0 0 0) :=
  ⟨reads_desc _ _ _ _ _ _ _ _ _ _ (by decide +kernel), reads_desc _ _ _ _ _ _ _ _ _ _ (by decide +kernel),
   reads_desc _ _ _ _ _ _ _ _ _ _ (by decide +kernel), reads_desc _ _ _ _ _ _ _ _ _ _ (by decide +kernel),
   reads_desc _ _ _ _ _ _ _ _ _ _ (by decide +kernel)⟩
theorem witness_SlotDescriptors_cases :
    (let b := host [ctx0] []
     (b.image 0).tensors.length ≤ dTensor (desc 1 0 0 5 0 0 0 0 0) ∧ dTensor (desc 1 0 0 4 0 0 0 0 0) < (b.image 0).tensors.length ∧
     ((b.image 0).entry 0).hasRole 0 = true ∧ ((b.image 0).entry 0).hasRole 3 = false ∧ (b.part 0).run = none ∧ b.slotOf 0 0 0 = none ∧
     ((b.image 0).entry 0).spanOk 0 64 2048 = true ∧ ((b.image 0).entry 0).spanOk 0 64 2047 = false ∧ ((b.image 0).entry 0).spanOk 0 63 2048 = false ∧
     b.host.slotsFree ≠ 0 ∧ b.ownSlot ctx0 (desc 2 0 0 0 0 0 0 0 0) = none) ∧
    ((running run0).part 0).run.isSome = true ∧ ((host [ctx0] [slot0 0 none none]).slotOf 0 0 0).isSome = true ∧
    (host [ctx0] [slot0 0 none (some 0)]).ownSlot ctx0 (desc 2 0 0 0 0 0 0 0 0) = some (slot0 0 none (some 0)) ∧
    (host [ctx0] [slot0 0 (some 0) none]).ownSlot ctx0 (desc 3 0 0 0 0 0 0 0 0) = some (slot0 0 (some 0) none) ∧
    (host [ctx0] [slot0 1 none none]).ownSlot ctx0 (desc 3 0 0 0 0 0 0 0 0) = some (slot0 1 none none) ∧
    (host [ctx0] [slot0 2 none none]).ownSlot ctx0 (desc 3 0 0 0 0 0 0 0 0) = some (slot0 2 none none) ∧
    dAddr (desc 3 0 0 0 0 0 0 0 0) = 0 ∧ dAddr (desc 3 0 0 0 0 63 0 0 0) ≠ 0 ∧ img.tensors.length = 5 := by decide +kernel

/-- A codebook of 16 entries is 1,280 bytes; a record of spill space 16,448. -/
theorem witness_LoadAndSpillDescriptors_read :
    (host [ctx0] []).reads 0 5 ctx0 (desc 5 0 0 0 0 0 1280 0 3) ∧ (host [ctx0] []).reads 0 5 ctx0 (desc 5 0 0 0 0 0 1280 16 3) ∧
    (host [ctx0] []).reads 0 6 ctx0 (desc 6 0 0 0 0 64 16448 0 0) ∧ (host [ctx0] []).reads 0 7 ctx0 (desc 7 0 0 0 0 0 0 0 0) :=
  ⟨reads_desc _ _ _ _ _ _ _ _ _ _ (by decide +kernel), reads_desc _ _ _ _ _ _ _ _ _ _ (by decide +kernel),
   reads_desc _ _ _ _ _ _ _ _ _ _ (by decide +kernel), reads_desc _ _ _ _ _ _ _ _ _ _ (by decide +kernel)⟩
def cbk (st : CbSt) (owner : Option Nat) (written : Nat) : Codebook := { Codebook.reset with st := st, owner := owner, written := written }
def page0 : Page := { tensor := 0, copy := false, page := 0, spilled := none, live := true, used := 0 }
def spill0 : Spill := { addr := 0, recs := 1, port := 0, vf := 0, broken := false, kept := [], writing := none }
theorem witness_LoadAndSpillDescriptors_cases :
    (0 + 1280 ≤ 80 * img.cbE ∧ ¬(16 + 1280 ≤ 80 * img.cbE) ∧ img.cbE ≠ 0) ∧ (cbk .loading (some 1) 0).busy = true ∧
    (cbk .hashing (some 1) 0).busy = true ∧ (cbk .empty none 0).busy = false ∧ (cbk .loading (some 0) 0).owner = some 0 ∧
    (cbk .hashing (some 0) 1280).written = 80 * img.cbE ∧ (cbk .hashing (some 0) 1264).written ≠ 80 * img.cbE ∧
    sha384 (zeros 1280) ≠ img.cbDigest ∧ ({ img with cbDigest := sha384 (zeros 1280) }).cbDigest = sha384 (zeros 1280) ∧
    dLen (desc 6 0 0 0 0 64 16448 0 0) % 16448 = 0 ∧ dLen (desc 6 0 0 0 0 64 16447 0 0) % 16448 ≠ 0 ∧
    ({ Part.reset with spill := some spill0 }).spill.isSome = true ∧ Part.reset.spill = none ∧ spill0.writing = none ∧
    ({ img with share := img.demand - 1 }).share < ({ img with share := img.demand - 1 }).demand ∧
    ({ img with share := img.demand }).demand ≤ ({ img with share := img.demand }).share := by
  decide +kernel

/-- A parcel for this chip, for another and for one outside the group; a flit of a parcel that is not the next in turn. -/
theorem witness_Parcels_read : (host [ctx0] [slot0 2 none none]).reads 0 4 ctx0 (desc 4 0 0 0 0 0 0 1 0) :=
  reads_desc _ _ _ _ _ _ _ _ _ _ (by decide +kernel)
def move0 : ParcelMove := { id := 3, ctx := 0, desc := zeros 64, src := 0, dst := 1, part := 0, total := 64, bytes := [], since := 0 }
theorem witness_Parcels_cases :
    (host [ctx0] []).ownSlot ctx0 (desc 4 0 0 0 0 0 0 1 0) = none ∧
    (host [ctx0] [slot0 2 none none]).ownSlot ctx0 (desc 4 0 0 0 0 0 0 1 0) = some (slot0 2 none none) ∧
    (slot0 0 none none).role ≠ 2 ∧ dArg0 (desc 4 0 0 0 0 0 0 (2 ^ 18 - 1) 0) < 2 ^ 18 ∧ 2 ^ 18 ≤ dArg0 (desc 4 0 0 0 0 0 0 (2 ^ 18) 0) ∧
    (checkFrame [] (img.parcelExp 0 0 2048 [])).isSome = true ∧ inGroup img.vset 1 = false ∧ inGroup img.vset 0 = true ∧ inGroup wide 1 = true ∧
    (host [] []).logCoord = 0 ∧ (host [] []).inReset = false := by decide +kernel

/-- A whole frame of tensor 0, its elements 0; link 0 in service with what arrives on it. -/
def frame0 : List Byte := frameBytes
  { method := .dense, src := .s8, pay := .s8, sum := false, predicted := false, last := true, partition := 0, epoch := 0, tensor := 0, round := 0
    n := 512, p0 := 0, u := 2, uAll := 2, param := 0, source := 0 } [0] [] (zeros 512)
def inService (b : Block) : Block := b.modLink 0 (fun x => { x with st := .inService, pwr := .boil })
def rxMsg (seq : BitVec 12) (cls : Nat) (dst : Coord) (fields : List Byte) : RxMsg :=
  { seq := seq, skip := 0, failAt := none, fec := ⟨0, 0, 0⟩, head := headBytes cls 64 dst 1 0 0 false fields, body := zeros 64 }
theorem witness_Parcels_frame :
    checkFrame frame0 (img.parcelExp 0 0 2048 frame0) = none ∧
    ((inService (host [] [])).arriveSeq 0 3 (rxMsg 0 3 0 [])).2 = [((rxMsg 0 3 0 []).head, zeros 64)] ∧
    ((inService (host [] [])).arriveSeq 0 3 (rxMsg 1 3 0 [])).2 = [] ∧
    hdDst (rxMsg 0 3 0 []).head = 0 ∧ hdDst (rxMsg 0 3 1 []).head ≠ 0 ∧ (host [] []).boot.physCoord = 0 ∧
    (let b := (host [] []).modHost (fun x => { x with parcelsOut := [move0] })
     let b : Block := { b with heldFlits := [(0, headBytes 3 64 1 0 0 0 false (leBytes 4 3), [])] }
     b.host.parcelsOut.find? (fun m => m.ctx == 0 && b.heldFlits.any (fun h => b.ownParcel m.id h.2.1)) = some move0) := by decide +kernel
theorem witness_PortResetsAndLink :
    (port 9).kettle.rstAt = some (0, 1) ∧ 0 ≠ (port 9).now ∧ ({ ready.kettle with rstAt := some (ready.now, 5) }).rstAt = some (ready.now, 5) ∧
    ((host [] []).port 0).linkUp = true ∧ ((host [] []).port 1).linkUp = false ∧ (host [] []).inReset = false ∧ (host [] []).boot.phase ≠ .none ∧
    (host [] []).boot.phase ≠ .straps ∧ (128 : BitVec 16).toNat ≤ 128 := by decide +kernel

/-! ### Steps -/

/-- Partition 0 without tensors that ask for slots is due; comb 0 is free, or asleep; the group left out of this chip. -/
def bare : PartImage := { img with tensors := [] }
def due0 : Block := (ready.modPart 0 (fun x => { x with img := some bare })).scanReady
def left0 : Block := (ready.modPart 0 (fun x => { x with img := some bare, vset := #v[0, 1, 1, 1, 1, 1] })).modHost (fun x => { x with
  slots := [slot0 0 none none] })
theorem witness_StepStart :
    due0.scanReady.ready.head? = some 0 ∧ due0.leftGroup 0 = false ∧ due0.freeComb 0 = some 0 ∧ (due0.comb 0).pwr = .boil ∧
    (due0.comb 0).entering = none ∧ (due0.comb 0).waking = false ∧ Comb.reset.pwr ≠ .boil ∧ due0.scanReady.ready.head? ≠ some 1 ∧
    left0.scanReady.leftGroup 0 = true ∧ left0.scanReady.startConds 0 = true ∧ left0.scanReady.hasSlots 0 = true ∧ (due0.part 0).joining = false ∧
    4 ≤ (4 : SReg).val := by decide +kernel

/-- A capped buzz operation with its operands and result. -/
def capped (why : Purpose) (op : Nat) (cur : List Nat) : BuzzOp :=
  { opidx := 0, redo := 0, op := op, why := why, own := cur, split := 1, dims := [], cur := cur, got := [], sent := 0, token := false
    failed := false, resFail := false, counted := 0, shown := false, capped := true, since := 0 }
/-- The generations agree, or the digests' halves do not, or the generations do not. -/
def agree (x0 x1 y0 y1 : Nat) : StepRun := { run0 with agreed := false, buzz := [capped .membership 8 [x0 + 2 ^ 32 * x1, y0 + 2 ^ 32 * y1, 5]] }
def digestRun (cur : List Nat) : StepRun :=
  { (withRun 4 (fun t => { t with st := .exchanged, xissued := true, stage := 1 })) with launches := [.tensor 4], buzz := [capped (.digest 4) 8 cur] }
theorem witness_Agreements :
    (agree 3 7 (2 ^ 32 - 4) (2 ^ 32 - 8)).buzz.find? (fun o => o.why == .membership) =
      some (capped .membership 8 [3 + 2 ^ 32 * 7, 2 ^ 32 - 4 + 2 ^ 32 * (2 ^ 32 - 8), 5]) ∧
    (agree 3 7 (2 ^ 32 - 4) (2 ^ 32 - 8)).agreed = false ∧ (agree 3 7 (2 ^ 32 - 4) (2 ^ 32 - 8)).retryAt = none ∧
    (agree 3 7 (2 ^ 32 - 4) (2 ^ 32 - 8)).abort = none ∧ (running (agree 3 7 0 0)).run? 0 = some (agree 3 7 0 0) ∧
    (7 + (2 ^ 32 - 8) = 2 ^ 32 - 1 ∧ 3 + (2 ^ 32 - 4) = 2 ^ 32 - 1) ∧ (7 + (2 ^ 32 - 7) ≠ 2 ^ 32 - 1) ∧ 3 + (2 ^ 32 - 3) ≠ 2 ^ 32 - 1 ∧
    ((running run0).part 0).joining = false ∧ ((running run0).part 0).lastGroup = [] ∧ run0.progBad = false ∧
    ((running run0).part 0).progSt = .available ∧ (running run0).steepEnough 0 = true ∧ ({ run0 with retryAt := some 25 }).retryAt = some 25 ∧
    ((running run0).advanceTo 25).active 0 = true ∧ (left0.advanceTo 25).active 0 = false ∧
    (digestRun [5, 2 ^ 64 - 6, 0]).launches.head? = some (.tensor 4) ∧ (img.entry 4).method = .codebook ∧ ((digestRun []).trun 4).stage = 1 ∧
    (digestRun [5, 2 ^ 64 - 6, 0]).buzz.find? (fun o => match o.why with | .digest t => t == 4 | _ => false) =
      some (capped (.digest 4) 8 [5, 2 ^ 64 - 6, 0]) ∧
    (5 + (2 ^ 64 - 6) = 2 ^ 64 - 1) ∧ (5 + (2 ^ 64 - 5) ≠ 2 ^ 64 - 1) := by decide +kernel

theorem witness_ConfirmedSetIsTheTopBlocks : (2 ≤ ([4, 9, 4] : List Nat).length) ∧ confirmedSet [4, 9, 4] 2 = [0, 1] := by decide +kernel

/-- WAGGLE at its selection with both block scores capped; DENSE at its packing; LOWRANK at its orthogonalisation. -/
def selRun : StepRun :=
  { (withRun 1 (fun t => { t with st := .exchanged, xissued := true, stage := 4 })) with launches := [.tensor 1], buzz := [capped (.score 1) 3 [5, 9]] }
def packRun : StepRun :=
  { (withRun 0 (fun t => { t with st := .exchanged, xissued := true, stage := 1, w := List.replicate 512 f32Zero })) with
      launches := [.tensor 0], buzz := [capped (.scale 0 .main 0) 5 [0]] }
def orthRun : StepRun := { (withRun 2 (fun t => { t with st := .exchanged, xissued := true, stage := 2 })) with launches := [.tensor 2] }
theorem witness_StagesBeforeTheExchange :
    (running selRun).run? 0 = some selRun ∧ selRun.atHead 1 = true ∧ img.head 1 = 1 ∧ (img.entry 1).method = .waggle ∧ (selRun.trun 1).stage = 4 ∧
    selRun.scoresDone img 1 = some [5, 9] ∧ packRun.atHead 0 = true ∧ packKind (img.entry 0).method (packRun.trun 0).stage = some (.main, 2) ∧
    packRun.scaleDone 0 .main = some [0] ∧ packRun.packRuns 0 .main 2 = some [(0, 2)] ∧ img.kindUnits 0 .main = 2 ∧ (packRun.trun 0).left = none ∧
    ((running packRun).demand [] (fun _ => true)).2 = [] ∧ orthRun.atHead 2 = true ∧ (img.entry 2).method = .lowrank ∧ (orthRun.trun 2).stage = 2 ∧
    (orthRun.kindRounds 2 .factorP).all (fun o => o.st == .capped || o.st == .drained) = true ∧ ((running orthRun).tmem 0 2).opBad = false ∧
    (running orthRun).run? 0 = some orthRun := by decide +kernel

def round0 (kind : RKind) (st : RSt) (t : Nat) : Round :=
  { opidx := 1, redo := 0, tensor := t, rnd := 0, kind := kind, p0 := 0, u := 4, st := st, token := false, cells := 0, since := 0, scales := []
    blocks := [], own := [], ownSq := [], phases := [], cur := [], curSq := [], frames := [], parts := [], gathered := [], linkFail := false
    resFail := false, counted := 0, sat := 0 }
/-- A row whose round is complete and not yet capped. -/
def erun : StepRun :=
  { withRun 0 (fun t => { t with st := .exchanged, xissued := true, te := [(.main, [127])] }) with
    rounds := [{ round0 .main .done 0 with cur := List.replicate 512 0 }] }
theorem witness_EarlyRows :
    ((running erun).modComb 0 (fun x => { x with prods := [gprod] })).stepOf 0 = some (0, erun) ∧
    ((running erun).modComb 0 (fun x => { x with prods := [gprod] })).gatheredRow 0 erun gprod 1 = some ([f32Zero, f32Zero], [1]) := by decide +kernel
/-- A round that is discarded takes its rows with it (R134). -/
theorem test_discarded_round_drops_its_rows :
    ({ gprod with taken := [1, 0], early := [⟨1, [1], 0, 0, []⟩] }).dropRows 1 = gprod := by decide +kernel
/-- Tensor `t` exchanged with nothing left to launch and its rounds drained; CODEBOOK with its gather capped. -/
def doneRun (t : Nat) : StepRun :=
  { (withRun t (fun x => { x with st := .exchanged, xissued := true, stage := 2 })) with
      rounds := [round0 .main .drained t], buzz := [capped (.sigma t) 4 [0x3F800000]] }
def gatherRun (g : List (Coord × List Byte)) : StepRun :=
  { (withRun 4 (fun x => { x with st := .exchanged, xissued := true, stage := 2 })) with rounds := [{ round0 .gather .capped 4 with gathered := g }] }
theorem witness_StagesAfterTheExchange :
    ((running (doneRun 0)).run? 0 = some (doneRun 0) ∧ (doneRun 0).abort = none ∧ ((doneRun 0).trun 0).decoded = none ∧
      ((doneRun 0).trun 0).xissued = true ∧ ((doneRun 0).trun 0).pred = none ∧ (img.entry 0).method = .dense ∧ (doneRun 0).payloadDrained 0 .main = true ∧
      (img.entry 1).method = .waggle ∧ (doneRun 1).payloadDrained 1 .main = true ∧ (img.entry 3).method = .sign ∧
      (doneRun 3).sigmaDone 3 = some 0x3F800000 ∧ ({ doneRun 3 with buzz := [] }).sigmaDone 3 = none ∧ (img.entry 2).method = .lowrank ∧
      (doneRun 2).payloadDrained 2 .factorQ = true) ∧
    ((img.entry 4).method = .codebook ∧ (gatherRun []).kindRounds 4 .gather ≠ [] ∧
      ((gatherRun []).kindRounds 4 .gather).all (fun o => o.st == .capped) = true ∧
      (cbiFrame 4 (zeros 128 ++ List.replicate 64 0xFF)).1.any (fun w => decide (img.cbE ≤ w)) = true ∧
      (cbiFrame 4 (zeros 256)).1.any (fun w => decide (img.cbE ≤ w)) = false ∧ ({ Codebook.reset with poison := [0] }).poison.contains 0 = true) ∧
    ((xrun.trun 0).decoded.isSome = true ∧ (xrun.trun 0).residDone = false ∧ (imgN.entry 0).ef = false ∧ (img.entry 0).ef = true) ∧
    ((withRun 0 (fun t => { t with decoded := some [] })).trun 0).delivered = false := by decide +kernel

/-- A round that waits with 0, 1 and 256 tokens free; a round done, running and dropped; an operation that has not ended. -/
def waitRun (k : RKind) (st : RSt) (fail : Bool) : StepRun := { run0 with rounds := [{ round0 k st 0 with linkFail := fail }] }
def opRun (why : Purpose) (op : Nat) (agreed failed : Bool) : StepRun :=
  { run0 with agreed := agreed, buzz := [{ capped why op [0] with opidx := 1, capped := false, failed := failed }] }
def tokens (b : Block) (n : Nat) : Block := b.modComb 0 (fun x => { x with tokFree := n, tokUsed := 256 - n })
theorem witness_CollectiveProgress :
    ((waitRun .main .waiting false).firstWaiting = some (round0 .main .waiting 0) ∧ (round0 .main .waiting 0).opidx = (1 : BitVec 16).toNat ∧
      (waitRun .predicted .waiting false).firstWaiting = some (round0 .predicted .waiting 0) ∧ ((tokens (running run0) 31).comb 0).tokFree < 32 ∧
      ¬(((tokens (running run0) 32).comb 0).tokFree < 32) ∧ ((tokens (running run0) 0).comb 0).tokFree = 0 ∧
      (let r := waitRun .main .waiting false
       let o := round0 .main .waiting 0
       ((running r).comb r.comb).tokFree ≠ 0 ∧
       ((running r).part 0).cells - ((running r).part 0).credit o + img.cellsFor r.group 0 .main 4 ≤ img.quota ∧
       img.cellsFor r.group 0 .main 4 ≤ (running r).hcbFree + ((running r).part 0).credit o)) ∧
    ((opRun (.score 1) 3 true false).rounds.any (fun o => o.opidx == 1) = false ∧
      ((opRun (.score 1) 3 true false).buzz.find? (fun o => o.opidx == 1 && o.isSum && !o.token && !o.capped)).isSome = true) ∧
    ((waitRun .predicted .dropped false).rounds.find? (fun o => o.opidx == 1) = some (round0 .predicted .dropped 0) ∧
      (waitRun .main .done false).buzz.any (fun x => x.isReport && x.opidx == 1 && x.redo == 0) = false ∧
      (running (waitRun .main .done false)).unacked ((running run0).ownBulk 0 run0 (round0 .main .done 0)) = false ∧
      ((waitRun .main .running true).rounds.find? (fun o => o.opidx == 1)).map Round.linkFail = some true) ∧
    ((opRun (.score 1) 3 true true).rounds.find? (fun o => o.opidx == 1) = none ∧
      ((opRun (.score 1) 3 true true).buzz.find? (fun o => o.opidx == 1 && !o.isReport)).map BuzzOp.failed = some true ∧
      ((opRun .membership 8 false false).buzz.find? (fun o => o.opidx == 1 && !o.isReport)).map BuzzOp.why = some .membership) ∧
    ({ run0 with abort := some 0x101 }).abort = some 0x101 ∧
    (let o := capped (.sred 0 4 1) 2 [7]
     o.why = .sred 0 4 1 ∧ o.shown = false ∧ ({ o with shown := true }).shown = true ∧ o.isSum = true ∧ o.op ≠ 4 ∧
      (capped (.sred 0 4 1) 7 [7]).isSum = false) := by decide +kernel

/-! ### Fabric messages and links -/

/-- A buzz barrier message from chip 0 to chip `dst`, numbered `n`. -/
def barrier (dst : Coord) (n : BitVec 12) : BuzzRx :=
  { raw := true, ok := true, fec := ⟨0, 0, 0⟩, head := withBseq (headBytes 1 64 dst 1 0 0 false (BuzzHead.bytes ⟨1, 0, 0, 1⟩)) n (zeros 64), body := zeros 64
    strike := none }
def up0 : Link := { Link.reset with st := .inService, pwr := .boil }
/-- Numbers 0, 1 and 63, 64 and 4,031, and 4,032 ahead; the 17th message for which no credit is left; a head with a wrong class. -/
theorem witness_BuzzMessages :
    (inService ready).inReset = false ∧ headOk 1 (barrier 0 0).head = true ∧ (hdBuzz (barrier 0 0).head).op = 1 ∧
    (up0.arriveBuzz (barrier 0 0)).2.1 = .accept ∧ (up0.arriveBuzz (barrier 0 1)).2.1 = .discard ∧ (up0.arriveBuzz (barrier 0 63)).2.1 = .discard ∧
    (up0.arriveBuzz (barrier 0 64)).2.1 = .leave 0x0207 ∧ (up0.arriveBuzz (barrier 0 4031)).2.1 = .leave 0x0207 ∧
    (up0.arriveBuzz (barrier 0 4032)).2.1 = .discard ∧
    (up0.arriveBuzz { barrier 0 0 with raw := false, ok := false }).2.1 = .discard ∧ headOk 1 (zeros 64) = false ∧
    grants.buzz < ({ up0.rx with held := ⟨31, 0, 0, 0⟩ }).held.buzz + 2 ∧ ({ up0.rx with held := ⟨30, 0, 0, 0⟩ }).held.buzz + 2 ≤ grants.buzz ∧
    hdDst (barrier 0 0).head = ready.boot.physCoord ∧ hdDst (barrier 1 0).head ≠ ready.boot.physCoord ∧ ready.kettle.stopped = false ∧
    (ready.part 1).img = none ∧ (ready.part 0).img.isSome = true ∧ (running run0).agreeExempt 0 (barrier 0 0).head = false ∧
    (running run0).run? 0 = some run0 ∧ (running run0).epochDiff 0 0 = 0 ∧ (running run0).epochDiff 0 1 = 1 ∧ (running run0).epochDiff 0 2 = 2 ∧
    (running run0).epochDiff 0 255 = 255 ∧ ready.run? 0 = none ∧ ready.epochOpen 0 = false ∧
    (ready.modPart 0 (fun x => { x with joining := true })).epochOpen 0 = true := by decide +kernel
def bulk0 (dst : Coord) : RxMsg := rxMsg 0 2 dst (BulkHead.bytes ⟨0, 0, 0, 0, 0, 0⟩)
theorem witness_ConfirmAndBulk :
    ({ up0.rx with unconf := [⟨0, (barrier 0 0).head, zeros 64⟩] }).unconf = ⟨0, (barrier 0 0).head, zeros 64⟩ :: [] ∧ (1 : BitVec 12) ≠ 0 ∧
    ((inService (host [] [])).arriveSeq 0 2 (bulk0 0)).2 = [((bulk0 0).head, zeros 64)] ∧
    ((inService (host [] [])).arriveSeq 0 2 { bulk0 0 with failAt := some 0 }).2 = [] ∧
    (((inService (host [] [])).arriveSeq 0 2 (bulk0 0)).1.link 0).rx.waiting = [] ∧
    hdDst (bulk0 0).head = ready.boot.physCoord ∧ hdDst (bulk0 1).head ≠ ready.boot.physCoord :=
  ⟨rfl, by decide, by decide +kernel, by decide +kernel, by decide +kernel, by decide +kernel, by decide +kernel⟩
/-- A head flit alone, its body flit, a flit of no message, and numbers 1, 1,024 and 3,072 ahead; the 321st flit for which no credit is left. -/
theorem witness_ConfirmAndBulk_flits :
    (up0.rx.partOf 2 = none ∧ up0.rx.join 2 true (bulk0 0).head = .more ⟨2, (bulk0 0).head, []⟩ ∧ up0.rx.join 2 false (zeros 64) = .bad ∧
      ({ up0.rx with part := [⟨2, (bulk0 0).head, []⟩] }).join 2 false (zeros 64) = .whole (bulk0 0).head (zeros 64)) ∧
    (((1 : BitVec 12) - up0.rx.exp).toNat = 1 ∧ ((1024 : BitVec 12) - up0.rx.exp).toNat = 1024 ∧ ((3072 : BitVec 12) - up0.rx.exp).toNat = 3072) ∧
    up0.st = .inService ∧ up0.rx.held.get 2 + 1 ≤ grants.get 2 ∧
    grants.get 2 < ({ up0.rx with held := grants }).held.get 2 + 1 := by decide +kernel
theorem witness_Ingress : ((host [] []).ingress 0 (bulk0 1).head (zeros 64) .none).2 = true ∧
    ((ready.modPart 0 (fun x => { x with joining := true })).ingress 0 (bulk0 0).head (zeros 64) .none).2 = false :=
  ⟨by decide +kernel, by decide +kernel⟩
def control0 : List Byte := [1, 3] ++ zeros 62
def kept0 : Kept := ⟨0, Slot.idle, zeros 64⟩
theorem witness_LinkSlotsAndTimers :
    (inService ready).inReset = false ∧ ((inService ready).link 0).linked = true ∧ field control0 0 1 = 1 ∧ Link.reset.st = .cold ∧ up0.st = .inService ∧
    up0.pwr ≠ .simmer ∧ up0.tx.buzzBody = none ∧ up0.lc.overdue = false ∧ up0.buzzSlot = none ∧ up0.lc.due = false ∧ up0.resendSlot = none ∧
    ({ up0 with tx := { up0.tx with buzzBody := some (zeros 64) } }).tx.buzzBody = some (zeros 64) ∧
    (({ up0 with tx := { up0.tx with free := grants, qBuzz := [(zeros 64, zeros 64)] } }).buzzSlot).isSome = true ∧
    (({ up0 with tx := { up0.tx with resend := [kept0] } }).resendSlot).isSome = true ∧ (up0.classSlot 2 (fun _ => 1)) = none ∧
    (({ up0 with tx := { up0.tx with free := grants, qBulk := [⟨0, (bulk0 0).head, [zeros 64]⟩], visited := 0 } }).classSlot 2 (fun _ => 1)).isSome = true ∧
    (up0.classSlot 3 (fun _ => 1)).isSome = false ∧
    (({ up0 with tx := { up0.tx with free := grants, qParcel := [⟨0, zeros 64, [zeros 64]⟩] } }).classSlot 3 (fun _ => 1)).isSome = true ∧
    (({ up0 with tx := { up0.tx with free := grants, qTunnel := [⟨128, zeros 64, [zeros 64]⟩] } }).classSlot 4 (fun _ => 1)).isSome = true ∧
    (({ up0 with tx := { up0.tx with kept := [kept0] } }).tx.kept ≠ []) ∧ up0.rx.nakWait = false ∧ ({ up0.rx with nakWait := true }).nakWait = true ∧
    up0.tx.slotPos = 0 ∧ ({ up0.tx with slotPos := 5 }).slotPos ≠ 0 ∧ up0.tx.resendFrom = none ∧ ({ up0.tx with resendFrom := some 0 }).resendFrom = some 0 ∧
    (zeros 67).length = 67 ∧ (List.replicate 48 (zeros 67)).length = 48 := by decide +kernel
def report0 (seq : BitVec 12) (dst : Coord) : RxMsg :=
  { seq := seq, skip := 0, failAt := none, fec := ⟨0, 0, 0⟩, head := headBytes 4 4 dst 1 0 0 false [2], body := zeros 64 }
theorem witness_LinkDeparturesAndReports :
    up0.rx.peerPwr = .boil ∧ ({ up0.rx with peerPwr := .warm }).peerPwr ≠ .boil ∧ ({ up0.lc with shown := .warm }).shown ≠ .boil ∧ 16 ≤ ({ up0.tx with stuck := 16, bstuck := 16 }).stuck ∧ ({ up0.tx with stuck := 16, bstuck := 16 }).bstuck = 16 ∧
    up0.linked = true ∧ ({ Link.reset with st := .detect }).training = true ∧ Link.reset.linked = false ∧ headOk 4 (report0 0 0).head = true ∧
    field (report0 0 0).head 0x10 1 = 2 ∧ ((inService ready).arriveSeq 0 4 (report0 0 0)).2 = [((report0 0 0).head, zeros 4)] ∧
    ((inService ready).arriveSeq 0 4 (report0 1 0)).2 = [] ∧ ((inService ready).flitHead 0 4 (report0 0 0)) = (report0 0 0).head ∧ hdDst (report0 0 1).head ≠ ready.boot.physCoord ∧
    hdDst (report0 0 0).head = ready.boot.physCoord := by decide +kernel
/-- A training flit of phase `ph` from the partner on link 0 of chip 0, which is chip 1 on its link 0; its return clock values make the delay 0. -/
def train (ph : Byte) (machine : Nat) (g : List Byte) : List Byte := [2, ph, 0, 0xB0] ++ leBytes 4 1 ++ leBytes 4 machine ++ zeros 12 ++ g ++ zeros 32
theorem witness_LinkTraining :
    ready.inReset = false ∧ Link.reset.tr.pauseUntil = 0 ∧ ({ Link.reset.tr with lockRun := 7 }).lockRun = 7 ∧ Link.reset.tr.lockRun < 7 ∧
    trainingOk (zeros 64) = false ∧ trainingOk (train 2 0 (zeros 8)) = true ∧ 2 ≤ field (train 2 0 (zeros 8)) 1 1 ∧
    (field (train 2 0 (zeros 8)) 3 1 = 0xB0 ∧ field (train 2 0 (zeros 8)) 4 4 = (partnerCoord 0 0).toNat ∧
      field (train 2 0 (zeros 8)) 2 1 = partnerLink 0 0) ∧
    field (train 2 0 (zeros 8)) 8 4 = ready.boot.machine ∧ field (train 2 5 (zeros 8)) 8 4 ≠ ready.boot.machine ∧ field (train 2 0 (zeros 8)) 4 4 ≠ 2 ∧
    wireDelayOf (train 2 0 (zeros 8)) 1000 = 500 ∧ wireDelayOf (train 2 0 (zeros 8)) 1001 = 501 ∧
    trainingOk (train 3 0 (leBytes 2 32 ++ leBytes 2 320 ++ leBytes 2 128 ++ leBytes 2 32)) = true ∧
    slice (train 3 0 (leBytes 2 32 ++ leBytes 2 320 ++ leBytes 2 128 ++ leBytes 2 32)) 0x18 8 =
      leBytes 2 grants.buzz ++ leBytes 2 grants.bulk ++ leBytes 2 grants.parcel ++ leBytes 2 grants.tunnel ∧
    trainingOk (train 3 0 (zeros 8)) = true ∧ ({ Link.reset.tr with ready := true, peerReady := true }).ready = true := by decide +kernel

/-! ### Power -/

/-- `ready` with comb 0 at `s` and its group 0 asking for `rq`, floors at `fl`, warm timer `w` and cold timer `c`. -/
def sleepy (s rq : Pwr) (fl w c : Nat) : Block :=
  let b := ready.modComb 0 (fun x => { x with pwr := s })
  { b with pwr := { b.pwr with combCfg := b.pwr.combCfg.set 0 ⟨Ctl.at fl, Ctl.at w, Ctl.at c⟩, lnkCfg := b.pwr.lnkCfg.set 0 ⟨Ctl.at fl, Ctl.at w, Ctl.at c⟩
                               groups := b.pwr.groups.set 0 { Group.reset with request := rq } } }
theorem witness_IdleEntryAndWake :
    ((sleepy .boil .boil 2 5 0).comb 0).svc = .idle ∧ ((sleepy .boil .boil 2 5 0).comb 0).entering = none ∧ ((sleepy .boil .boil 2 5 0).comb 0).waking = false ∧
    2 ≤ ((sleepy .simmer .simmer 2 5 0).pwr.combCfg[0]).floor.eff ∧ ((sleepy .simmer .simmer 2 5 0).pwr.combCfg[0]).warm.eff ≠ 0 ∧
    ((sleepy .simmer .simmer 3 5 5).pwr.combCfg[0]).warm.eff ≤ ((sleepy .simmer .simmer 3 5 5).pwr.combCfg[0]).cold.eff ∧
    ((sleepy .simmer .simmer 3 5 4).pwr.combCfg[0]).cold.eff < ((sleepy .simmer .simmer 3 5 4).pwr.combCfg[0]).warm.eff ∧
    3 ≤ ((sleepy .warm .warm 3 5 4).pwr.combCfg[0]).floor.eff ∧ ((sleepy .simmer .simmer 1 5 4).pwr.combCfg[0]).floor.eff < 2 ∧
    (sleepy .boil .boil 2 5 0).serving = true ∧ (groupLinks 0).all (fun l => ((sleepy .boil .boil 2 5 0).link l).tx.quiet) = true ∧
    (sleepy .boil .boil 2 5 0).mustSimmer 0 = false ∧
    ((sleepy .boil .boil 2 5 0).modGroup 0 (fun g => { g with holdUntil := some 9 })).mustSimmer 0 = true ∧ (Group.reset).waking = false ∧
    ({ Comb.reset with entering := some .simmer }).entering = some .simmer ∧ ({ Group.reset with entering := some .warm }).entering = some .warm ∧
    ({ Comb.reset with waking := true, svc := .idle }).waking = true ∧
    ({ Group.reset with request := .boil }).sinks 0 0 0 = [(.simmer, 7)] ∧ ({ Group.reset with request := .cold }).sinks 3 5 5 = [] ∧
    (let b := (sleepy .boil .boil 2 5 0).modLink 0 (fun x => { x with parked := true, pwr := .warm })
     (b.link 0).parked = true ∧ (b.link 0).entering = none ∧ (b.link 0).pwr.code < Pwr.cold.code) ∧
    ({ up0 with pwr := .simmer }).st = .inService := by decide +kernel
theorem witness_LinkPower :
    (let x : Link := { up0 with lc := { up0.lc with shown := .warm }, rx := { up0.rx with peerPwr := .warm } }
     x.st = .inService ∧ x.pwr = .boil ∧ x.lc.shown ≠ .boil ∧ x.rx.peerPwr ≠ .boil ∧ x.tx.quiet = true ∧ 2 ≤ x.lc.shown.code ∧ 2 ≤ x.rx.peerPwr.code ∧
      x.rx.unconf = [] ∧ x.rx.waiting = [] ∧ x.lc.due = false ∧ x.tx.slotPos = 0) ∧
    ((sleepy .boil .warm 2 5 0).pwr.groups[0]).request ≠ .boil ∧ 2 ≤ ((sleepy .boil .warm 2 5 0).pwr.groups[0]).request.code ∧ up0.lc.shown = .boil ∧
    ({ Link.reset with parked := true }).parked = true ∧ Link.reset.entering = none ∧ ({ Group.reset with holdUntil := some 9 }).holdUntil = some 9 := by
  decide +kernel
theorem witness_CombFailuresAndClocks :
    (ready.comb 0).svc = .idle ∧ ((running run0).comb 0).svc = .running ∧ (running run0).stuckInside 0 = true ∧ (running xrun).stuckInside 0 = false ∧ ({ Comb.reset with waking := true }).svc = .released ∧ ready.serving = true ∧
    ready.inReset = false ∧ ready.kettle.stopped = false := by decide +kernel

/-! ### Resets, start-up, memory service -/

/-- A header of an image without partitions, and the image: its key is the base point, its nonce 1 and its private key 1. -/
def header0 : List Byte :=
  leBytes 4 0x4C4E4547 ++ [1, 0xB0, 0, 0] ++ leBytes 4 256 ++ leBytes 4 512 ++ leBytes 4 0 ++ leBytes 4 0x400 ++ leBytes 2 24 ++ zeros 230
def image0 : List Byte :=
  header0 ++ beBytes 48 gx384 ++ beBytes 48 gy384 ++ beBytes 48 gx384 ++ beBytes 48 ((beNat (sha384 header0) + gx384) % n384) ++ zeros 64
theorem witness_StartUp_signature : checkSignature Fuses.reset image0 256 = none := by decide +kernel
theorem witness_ResetsAndScan : Kettle.reset.rstLow = false ∧ ({ Kettle.reset with rstLow := true }).rstLow = true ∧ Fuses.reset.busy = none ∧
    Tap.reset.ir = .bypass ∧ (port 9).resetNow = none ∧ ({ ready with kettle := { ready.kettle with rstAt := some (0, 2) } }).resetNow = some 2 ∧
    ({ ready with kettle := { ready.kettle with rstAt := some (0, 4) } }).resetNow = some 4 := by decide
theorem witness_StartUp :
    (Block.reset.boot.phase = .none ∧ Block.reset.kettle.rstLow = false ∧ Block.reset.mspOff = false ∧ Block.reset.releaseTrip.kettle.thermTrip = false ∧
      ({ Block.reset with kettle := { Block.reset.kettle with thermTrip := true, ending := false } }).kettle.thermTrip = true) ∧
    (header0.length = 256 ∧ checkHeader header0 = none ∧ checkHeader (zeros 256) = some 0x0501 ∧ Boot.reset.hdrDone = false ∧ Boot.reset.coreDone = false) ∧
    (List.finRange 4).find? (fun (i : StackId) => (#v[false, true, true, false])[i]) = some 1 ∧ (∀ i : StackId, (Vector.replicate 4 false)[i] = false) ∧
    256 + (zeros 256).length = 512 ∧ (checkSignature Fuses.reset (zeros 512) 256).isSome = true ∧
    checkContent image0 0 = none ∧ checkContent (image0.set 19 1) 0 = some (0x0506, 0) ∧ checkContent image0 1 = some (0x0540, 0) ∧
    (let n : Nvm := { Nvm.reset with due := [0] }
     n.due.contains 0 = true ∧ n.mayFetch 0 = true ∧ ({ n with refetchEn := false }).mayFetch 0 = true ∧ ({ n with refetchEn := false }).mayFetch 1 = false) ∧
    (Part.reset.fetchTries < 2 ∧ 2 ≤ ({ Part.reset with fetchTries := 2 }).fetchTries ∧ sha384 [] ≠ img.progDigest ∧ img.prog = []) := by decide +kernel
theorem witness_MemoryService :
    ({ Hbm.reset with scrubOn := true }).scrubOn = true ∧ ready.inReset = false ∧ 3221225470 + 1 < 3221225472 ∧ 3221225472 ≤ 3221225471 + 1 ∧
    ({ Stack.reset with st := 1 }).st ≠ 0 ∧ (∀ t ∈ (Vector.replicate 8 (114 : Int)).toList, t < 115) ∧
    (#v[0, 0, 115, 200, 0, 0, 0, 0] : Vector Int 8).toList.find? (fun t => decide (115 ≤ t)) = some 115 ∧ ({ Kettle.reset with thermTrip := true }).thermTrip = true ∧
    64 ≤ ({ Stack.reset with ueAt := (List.range 64).map (fun k => (k, 0)) }).ueSectors ∧
    (⟨0, 0, some 1, false⟩ : Mirror).diffAt = some 1 ∧ (⟨0, 0, some 1, false⟩ : Mirror).val ≠ 1 ∧ 250000 < 1 + 250000 ∧ 1 + 250000 ≤ 250001 := by decide +kernel

/-- Partition 0 with a live page and spill space of one record; the share is one frame. -/
def paged (y : Spill) (qs : List Page) (r : Option StepRun) : Block :=
  { ready with parts := ready.parts.set 0 { part0 r with img := some { img with share := 1 }, pages := qs, spill := some y } }
/-- Tensor 1 is at its first block, whose pages have no frame. -/
def left1 : StepRun := withRun 1 (fun t => { t with st := .steeped, left := some 0 })
/-- Page 0 is paged out and asked for. -/
def away0 : Page := { page0 with spilled := some 0 }
def asked (y : Spill) : Block := (paged y [away0] none).modPart 0 (fun x => { x with pageQ := [(0, false, 0)] })
theorem witness_Paging :
    ((paged spill0 [page0] (some left1)).part 0).spill = some spill0 ∧ spill0.broken = false ∧ spill0.writing = none ∧
    ((paged spill0 [page0] (some left1)).image 0).share ≤ ((paged spill0 [page0] (some left1)).part 0).frames ∧
    ((paged spill0 [page0] (some left1)).part 0).deadPage = none ∧ (paged spill0 [page0] (some left1)).wantsPage 0 = true ∧
    (paged spill0 [page0] (some left1)).victim 0 = some page0 ∧ lowestFree (spill0.kept.map SpillRec.num) spill0.recs 0 < spill0.recs ∧
    (let y : Spill := { spill0 with kept := [⟨0, zeros 64, []⟩] }
     y.recs ≤ lowestFree (y.kept.map SpillRec.num) y.recs 0) ∧
    (let w : Spill := { spill0 with writing := some ({ page0 with spilled := some 0 }, zeros 64) }
     let x := (paged w [page0] none).part 0
     x.spill = some w ∧ x.pages.any (fun z => z.is 0 false 0 && z.spilled.isNone && z.live && z.used == 0) = true ∧
     ((paged w [] none).part 0).pages.any (fun z => z.is 0 false 0 && z.spilled.isNone && z.live && z.used == 0) = false) ∧
    (asked spill0).kettle.stopped = false ∧ (asked spill0).pageWant 0 = some away0 ∧ ((asked spill0).part 0).away (0, false, 0) = true ∧
    (((asked spill0).part 0).makeRoom 1).isSome = true ∧ ({ ready.kettle with stopped := true }).stopped = true := by decide +kernel

/-! ### Ill-formed commands -/

theorem wf_refuses_opcode : (Instr.mspInvalidOpcode 0x4F).wf = false ∧ (Instr.mspInvalidOpcode 0x50).wf = true := by decide
theorem wf_refuses_lengths :
    (Instr.remapAssume (.msp (zeros 15))).wf = false ∧ (Instr.remapRelease (.msp (zeros 17))).wf = false ∧ (Instr.remapExclude (.msp [])).wf = false ∧
    (Instr.hello 0 0 (zeros 63)).wf = false ∧ (Instr.prove 0 0 (zeros 65)).wf = false ∧ (Instr.linkControlFlit 0 (zeros 63) ⟨0, 0, 0⟩).wf = false ∧
    (Instr.trainingIdentifyFlit 0 [] 0 ⟨0, 0, 0⟩).wf = false ∧ (Instr.trainingGrantFlit 0 (zeros 32) ⟨0, 0, 0⟩).wf = false ∧
    (Instr.trainingLockFlit 0 true (zeros 65) ⟨0, 0, 0⟩).wf = false ∧ (Instr.mspRead 0 0 1 0 [0, 0] .none).wf = false ∧
    (Instr.mspRead 0 0 1 0 [3] .none).wf = false ∧ (Instr.headerReadDone (zeros 255)).wf = false := by
  decide +kernel
theorem wf_refuses_contexts :
    (Instr.handshakeExpiry 4096).wf = false ∧ (Instr.doorbell 0 0 4096 8 0).wf = false ∧ (Instr.doorbell 0 0 0 3 0).wf = false ∧
    (Instr.claim 4096 .failed).wf = false ∧ (Instr.release 0 (.ok [])).wf = false ∧ (Instr.post 0 (.ok (zeros 63))).wf = false ∧
    (Instr.parcel 4096 .failed .failed).wf = false ∧ (Instr.parcelNoRouteTimeout 4096).wf = false ∧ (Instr.cbload 0 (.ok []) .failed).wf = false ∧
    (Instr.spillAdd 4096 .failed).wf = false ∧ (Instr.spillRemove 0 (.ok []) [] []).wf = false ∧ (Instr.close 4096 .failed).wf = false := by decide +kernel
theorem wf_refuses_messages :
    (Instr.parcelReceive 0 { rxMsg 0 3 0 [] with head := [] }).wf = false ∧ (Instr.bulkMessage 0 { rxMsg 0 2 0 [] with skip := 65 } .none).wf = false ∧
    (Instr.tunnelGenerationReport 0 { rxMsg 0 4 0 [] with body := zeros 4097 }).wf = false ∧
    (Instr.buzzBarrier 0 { barrier 0 0 with head := [] }).wf = false ∧ (Instr.buzzSumW32 0 { barrier 0 0 with body := [] }).wf = false ∧
    (Instr.buzzSumW64 0 { barrier 0 0 with body := zeros 63 }).wf = false ∧ (Instr.buzzSumF32 0 { barrier 0 0 with head := zeros 63 }).wf = false ∧
    (Instr.buzzMax8 0 { barrier 0 0 with head := [] }).wf = false ∧ (Instr.buzzMax16 0 { barrier 0 0 with head := [] }).wf = false ∧
    (Instr.buzzMax32 0 { barrier 0 0 with head := [] }).wf = false ∧ (Instr.buzzMax64 0 { barrier 0 0 with head := [] }).wf = false ∧
    (Instr.buzzCapReport 0 { barrier 0 0 with head := [] }).wf = false ∧ (Instr.buzzAbort 0 { barrier 0 0 with head := [] }).wf = false := by decide +kernel
theorem wf_refuses_ranges :
    (Instr.vfEnable 0 true 129).wf = false ∧ (Instr.pcieLinkUp 0 3 1 false).wf = false ∧ (Instr.pcieLinkUp 0 4 0 false).wf = false ∧
    (Instr.pcieLinkUp 0 4 7 false).wf = false ∧ (Instr.nop 0 on).wf = true := by decide
end Sys2Proof.Tests
end

/-! PROOF. The confirmed set (R104): sorting by insertion permutes a list and, under a transitive and trichotomous order, sorts it; so the
blocks in score order split into the K that are kept and those that all come after them. -/
section
namespace Sys2Proof.Machine
open Sys2Proof

/-! ### Sorting by insertion -/

section
variable {α : Type} {lt : α → α → Bool}

theorem insertBy_perm (x : α) (l : List α) : (insertBy lt x l).Perm (x :: l) := by
  induction l with
  | nil => exact List.Perm.refl _
  | cons y t ih =>
    by_cases h : lt x y
    · rw [insertBy, if_pos h]
    · rw [insertBy, if_neg h]
      exact (ih.cons y).trans (List.Perm.swap x y t)

theorem sortBy_perm (l : List α) : (sortBy lt l).Perm l := by
  induction l with
  | nil => exact List.Perm.refl _
  | cons x t ih => exact (insertBy_perm x (sortBy lt t)).trans (ih.cons x)

@[simp] theorem mem_sortBy {x : α} {l : List α} : x ∈ sortBy lt l ↔ x ∈ l := (sortBy_perm l).mem_iff

@[simp] theorem length_sortBy (l : List α) : (sortBy lt l).length = l.length := (sortBy_perm l).length_eq

theorem insertBy_pairwise (trans : ∀ a b c, lt a b → lt b c → lt a c) {x : α} {l : List α} (hx : ∀ y ∈ l, lt x y ∨ lt y x)
    (hl : l.Pairwise (fun a b => lt a b)) : (insertBy lt x l).Pairwise (fun a b => lt a b) := by
  induction l with
  | nil => simp [insertBy]
  | cons y t ih =>
    obtain ⟨hxy, hxt⟩ := List.forall_mem_cons.1 hx
    obtain ⟨hyt, ht⟩ := List.pairwise_cons.1 hl
    by_cases h : lt x y
    · rw [insertBy, if_pos h]
      exact List.pairwise_cons.2 ⟨List.forall_mem_cons.2 ⟨h, fun z hz => trans x y z h (hyt z hz)⟩, hl⟩
    · have hall : ∀ z ∈ insertBy lt x t, lt y z := by
        intro z hz
        obtain rfl | hz := List.mem_cons.1 ((insertBy_perm x t).mem_iff.1 hz)
        · exact hxy.resolve_left h
        · exact hyt z hz
      rw [insertBy, if_neg h]
      exact List.pairwise_cons.2 ⟨hall, ih hxt ht⟩

theorem sortBy_pairwise (trans : ∀ a b c, lt a b → lt b c → lt a c) (tri : ∀ a b, a ≠ b → lt a b ∨ lt b a) {l : List α} (hl : l.Nodup) :
    (sortBy lt l).Pairwise (fun a b => lt a b) := by
  induction l with
  | nil => exact List.Pairwise.nil
  | cons x t ih =>
    obtain ⟨hxt, ht⟩ := List.nodup_cons.1 hl
    exact insertBy_pairwise trans (fun y hy => tri x y (by rintro rfl; exact hxt (mem_sortBy.1 hy))) (ih ht)

end

/-! ### The blocks in score order -/

theorem scoreBefore_iff {x y : Nat × Nat} : scoreBefore x y ↔ y.1 < x.1 ∨ (x.1 = y.1 ∧ x.2 < y.2) := by
  simp [scoreBefore]

theorem scoreBefore_trans (x y z : Nat × Nat) (hxy : scoreBefore x y) (hyz : scoreBefore y z) : scoreBefore x z := by
  rw [scoreBefore_iff] at *
  omega

theorem scoreBefore_trichotomous (x y : Nat × Nat) (h : x ≠ y) : scoreBefore x y ∨ scoreBefore y x := by
  rw [Ne, Prod.ext_iff] at h
  simp only [scoreBefore_iff]
  omega

/-- All blocks as (group score, block number), in score order: the confirmed set is taken from its front. -/
def rankedBlocks (scores : List Nat) : List (Nat × Nat) := sortBy scoreBefore scores.zipIdx

theorem confirmedSet_eq (scores : List Nat) (k : Nat) :
    confirmedSet scores k = sortBy (fun a b => decide (a < b)) (((rankedBlocks scores).take k).map Prod.snd) := rfl

@[simp] theorem length_rankedBlocks (scores : List Nat) : (rankedBlocks scores).length = scores.length := by
  simp [rankedBlocks]

theorem mem_rankedBlocks {scores : List Nat} {q : Nat × Nat} : q ∈ rankedBlocks scores ↔ q.2 < scores.length ∧ q.1 = scores.getD q.2 0 := by
  rw [rankedBlocks, mem_sortBy, List.mem_zipIdx_iff_getElem?, List.getElem?_eq_some_iff]
  constructor
  · rintro ⟨hlt, hq⟩
    exact ⟨hlt, by simp [hlt, hq]⟩
  · rintro ⟨hlt, hq⟩
    exact ⟨hlt, by simp [hlt, hq]⟩

theorem nodup_zipIdx_snd (scores : List Nat) : (scores.zipIdx.map Prod.snd).Nodup := by
  rw [List.zipIdx_map_snd]
  exact List.nodup_range'

theorem nodup_rankedBlocks_snd (scores : List Nat) : ((rankedBlocks scores).map Prod.snd).Nodup :=
  ((sortBy_perm _).map Prod.snd).nodup_iff.2 (nodup_zipIdx_snd scores)

theorem rankedBlocks_pairwise (scores : List Nat) : (rankedBlocks scores).Pairwise (fun a b => scoreBefore a b) :=
  sortBy_pairwise scoreBefore_trans scoreBefore_trichotomous (List.Pairwise.of_map Prod.snd (fun _ _ => mt (congrArg Prod.snd)) (nodup_zipIdx_snd scores))

/-- A block kept by the cut at `k` comes before each block that the cut leaves out. -/
theorem scoreBefore_of_mem_take_of_notMem_take {scores : List Nat} {k : Nat} {p q : Nat × Nat} (hp : p ∈ (rankedBlocks scores).take k)
    (hq : q ∈ rankedBlocks scores) (hqk : q ∉ (rankedBlocks scores).take k) : scoreBefore p q := by
  have hsorted := rankedBlocks_pairwise scores
  rw [← List.take_append_drop k (rankedBlocks scores)] at hsorted hq
  have hdrop : q ∈ (rankedBlocks scores).drop k := (List.mem_append.1 hq).resolve_left hqk
  exact (List.pairwise_append.1 hsorted).2.2 p hp q hdrop

/-! ### The confirmed set -/

theorem length_confirmedSet {scores : List Nat} {k : Nat} (hk : k ≤ scores.length) : (confirmedSet scores k).length = k := by
  simp [confirmedSet_eq, hk]

theorem confirmedSet_ascending (scores : List Nat) (k : Nat) : (confirmedSet scores k).Pairwise (· < ·) := by
  have hnodup : (((rankedBlocks scores).take k).map Prod.snd).Nodup :=
    (nodup_rankedBlocks_snd scores).sublist ((List.take_sublist k _).map Prod.snd)
  have hsorted := sortBy_pairwise (lt := fun a b => decide (a < b)) (fun a b c => by simpa only [decide_eq_true_eq] using Nat.lt_trans)
    (fun a b => by simpa only [decide_eq_true_eq] using Nat.lt_or_gt_of_ne) hnodup
  simpa only [confirmedSet_eq, decide_eq_true_eq] using hsorted

theorem mem_confirmedSet {scores : List Nat} {k x : Nat} : x ∈ confirmedSet scores k ↔ (scores.getD x 0, x) ∈ (rankedBlocks scores).take k := by
  rw [confirmedSet_eq, mem_sortBy, List.mem_map]
  constructor
  · rintro ⟨⟨s, b⟩, hq, rfl⟩
    obtain ⟨-, rfl⟩ : b < scores.length ∧ s = scores.getD b 0 := mem_rankedBlocks.1 (List.mem_of_mem_take hq)
    exact hq
  · intro h
    exact ⟨_, h, rfl⟩

theorem lt_length_of_mem_confirmedSet {scores : List Nat} {k x : Nat} (h : x ∈ confirmedSet scores k) : x < scores.length :=
  (mem_rankedBlocks.1 (List.mem_of_mem_take (mem_confirmedSet.1 h))).1

theorem confirmedSet_before_left_out {scores : List Nat} {k x y : Nat} (hx : x ∈ confirmedSet scores k) (hy : y < scores.length)
    (hyk : y ∉ confirmedSet scores k) : scores.getD y 0 < scores.getD x 0 ∨ (scores.getD y 0 = scores.getD x 0 ∧ x < y) := by
  rw [mem_confirmedSet] at hx hyk
  have hbefore := scoreBefore_of_mem_take_of_notMem_take hx (mem_rankedBlocks.2 ⟨hy, rfl⟩) hyk
  rw [scoreBefore_iff] at hbefore
  exact hbefore.imp_right (And.imp_left Eq.symm)

/-- Settles O45: the cut of the blocks in score order after K gives the members, the second sort their order (R104). -/
theorem confirmedSetIsTheTopBlocks : Obligations.ConfirmedSetIsTheTopBlocks := by
  unfold Obligations.ConfirmedSetIsTheTopBlocks
  intro scores k hk
  exact ⟨length_confirmedSet hk, confirmedSet_ascending scores k, fun _ => lt_length_of_mem_confirmedSet,
    fun _ hx _ => confirmedSet_before_left_out hx⟩

end Sys2Proof.Machine
end

/-! PROOF. The issue of a predicated instruction (R264, R270): each of them goes through one of three shapes of issue, and each shape moves the
pc alone on a false predicate and waits on an uncapped one. -/
section
namespace Sys2Proof.Machine
open Sys2Proof

/-! ### The shapes of an issue -/

/-- What an instruction of comb `c` under the predicate `p` answers in `s`: it falls through, runs or queues an operation that may write the comb
buffer, or branches. -/
inductive IssueShape (c : CombId) (p : Pr) (s : State) : Out → Prop
  | falls (w : Seqr → Bool) (f : Block → Block) : IssueShape c p s (s.act (fun b => b.issue c p w f))
  | operates (w : Seqr → Bool) (op : Seqr → InfOp) : IssueShape c p s (s.actBuf c (fun b m => b.issueOp m c p w op))
  | branches (target : BitVec 15) : IssueShape c p s (execBr c p target s)

/-- Every predicated instruction has one of the three shapes: the products, copies and statistics operate, BR branches, all others fall through. -/
theorem exec_issueShape {i : Instr} {c : CombId} {p : Pr} (h : i.predicated = some (c, p)) (s : State) : IssueShape c p s (exec i s) := by
  cases i <;> cases h
  case br target => exact .branches target
  case tcopy | orth | mma | mmag | xstat => exact .operates _ _
  all_goals exact .falls _ _

/-! ### A predicate that is false, and one that is uncapped -/

theorem Block.mayTake_eq_false_of_not_sure {b : Block} {c : CombId} {p : Pr} (h : (b.seq c).sure p.q = false) : b.mayTake c p = false := by
  simp [Block.mayTake, h]

theorem Block.issueOp_idle {b : Block} {c : CombId} {p : Pr} (m : Mem) (w : Seqr → Bool) (op : Seqr → InfOp) (h : b.mayTake c p = false) :
    b.issueOp m c p w op = (b, m) := by simp [Block.issueOp, h]

theorem Block.issueOp_skip {b : Block} {c : CombId} {p : Pr} (m : Mem) (w : Seqr → Bool) (op : Seqr → InfOp) (h : b.mayTake c p = true)
    (hp : (b.seq c).takes p = false) : b.issueOp m c p w op = (b.modIssue c Seqr.next, m) := by simp [Block.issueOp, h, hp]

/-- Where the comb may not issue under its predicate, no shape changes the state. -/
theorem IssueShape.eq_self {c : CombId} {p : Pr} {s : State} {o : Out} (hs : IssueShape c p s o) (h : s.block.mayTake c p = false) :
    o = .next s := by
  cases hs with
  | falls w f => simp [Block.issue_idle _ _ _ _ _ h]
  | operates w op => simp [State.actBuf, Block.issueOp_idle _ _ _ h]
  | branches target => simp [execBr, h]

/-- On a false predicate every shape moves the pc alone (R270). -/
theorem IssueShape.eq_skip {c : CombId} {p : Pr} {s : State} {o : Out} (hs : IssueShape c p s o) (h : s.block.mayTake c p = true)
    (hp : (s.block.seq c).takes p = false) : o = .next (s.seqAfter c Seqr.next) := by
  cases hs with
  | falls w f => simp [Block.issue_skip _ _ _ _ _ h hp, State.seqAfter]
  | operates w op => simp [State.actBuf, Block.issueOp_skip _ _ _ h hp, State.seqAfter]
  | branches target =>
    have hbr : s.block.modIssue c (fun q => if q.takes p then { q with pc := target } else q.next) = s.block.modIssue c Seqr.next :=
      modIssue_congr _ _ _ _ (by simp [hp])
    simp [execBr, h, hbr, State.seqAfter]

/-! ### The predicate -/

theorem Seqr.takes_eq_xor (q : Seqr) (p : Pr) : q.takes p = (q.pred p.q ^^ p.neg) := by
  simp [Seqr.takes]

theorem Block.issues_eq (b : Block) (c : CombId) (p : Pr) :
    b.issues c p = (b.mayIssue c && (b.seq c).sure p.q && ((b.seq c).pred p.q ^^ p.neg)) := by
  simp [Block.issues, Block.mayTake, Seqr.takes_eq_xor]

@[simp] theorem Seqr.pred_zero (q : Seqr) : q.pred 0 = true := rfl
@[simp] theorem Seqr.sure_zero (q : Seqr) : q.sure 0 = true := rfl
theorem Seqr.sure_of_ne_zero (q : Seqr) {r : QReg} (h : r ≠ 0) : q.sure r = (q.qx[r]).isNone := by simp [Seqr.sure, h]

/-- Settles O8: each predicated instruction has one of three shapes of issue, and none of them goes past the test of its predicate (R264, R270). -/
theorem failedPredicateOnlyMovesThePc : Obligations.FailedPredicateOnlyMovesThePc := by
  unfold Obligations.FailedPredicateOnlyMovesThePc
  refine ⟨fun i c p s hi hmay hsure hp => ?_, fun i c p s hi hsure => ?_, fun c p s => s.block.issues_eq c p, fun q => ?_, fun _ _ _ => ⟨rfl, rfl⟩⟩
  · exact (exec_issueShape hi s).eq_skip (by simp [Block.mayTake, hmay, hsure]) (by rw [Seqr.takes_eq_xor, hp])
  · exact (exec_issueShape hi s).eq_self (Block.mayTake_eq_false_of_not_sure hsure)
  · exact ⟨by simp [Seqr.takes_eq_xor], q.sure_zero, fun _ hr => q.sure_of_ne_zero hr⟩

end Sys2Proof.Machine
end

/-! PROOF. SCMP and PLOG (R291): the conditions in the order of the integers and of F32, the bit of the truth table, and the one predicate that
is written. -/
section
namespace Sys2Proof.Machine
open Sys2Proof

/-! ### The order of F32 values -/

/-- Signed magnitudes are equal where sign and magnitude are, and between the zeros. -/
theorem toInt_eq_toInt_iff (a b : Bool) (m n : Nat) : toInt a m = toInt b n ↔ (a = b ∧ m = n) ∨ (m = 0 ∧ n = 0) := by
  cases a <;> cases b <;> simp [toInt] <;> omega

/-- Below, equal or both zero: the order of `FVal.ltB` is total where neither value is NaN. -/
theorem FVal.ltB_or_eq_or_zeros {x y : FVal} (hx : x ≠ .nan) (hy : y ≠ .nan) :
    (x.ltB y || (x == y && x != .nan) || (x.isZero && y.isZero)) = !(y.ltB x) := by
  cases x with
  | nan => exact absurd rfl hx
  | inf a =>
    cases y with
    | nan => exact absurd rfl hy
    | inf b => cases a <;> cases b <;> decide
    | fin b n => simp [FVal.ltB, FVal.isZero]
  | fin a m =>
    cases y with
    | nan => exact absurd rfl hy
    | inf b => simp [FVal.ltB, FVal.isZero]
    | fin b n =>
      have htotal : toInt a m ≤ toInt b n ↔ toInt a m < toInt b n ∨ (a = b ∧ m = n) ∨ (m = 0 ∧ n = 0) := by
        rw [← toInt_eq_toInt_iff]; exact Int.le_iff_lt_or_eq
      rw [Bool.eq_iff_iff]
      simp [FVal.ltB, FVal.isZero, htotal, or_assoc]

@[simp] theorem FVal.ltB_nan_right (x : FVal) : x.ltB .nan = false := by cases x <;> rfl

/-! ### The conditions -/

theorem low32_eq_setWidth (x : DWord) : low32 x = BitVec.setWidth 32 x := rfl

theorem condHolds_ne (a b : DWord) : condHolds .ne a b = decide (a ≠ b) := by
  rw [Bool.eq_iff_iff]
  simp [condHolds]

theorem condHolds_flt (a b : DWord) : condHolds .flt a b = (f32Val (BitVec.setWidth 32 a)).ltB (f32Val (BitVec.setWidth 32 b)) := rfl

/-- FLE is the converse of FLT, but on NaN. -/
theorem condHolds_fle (a b : DWord) : condHolds .fle a b = (match f32Val (BitVec.setWidth 32 a), f32Val (BitVec.setWidth 32 b) with
    | .nan, _ | _, .nan => false
    | x, y => !(y.ltB x)) := by
  simp only [condHolds, low32_eq_setWidth]
  generalize f32Val (BitVec.setWidth 32 a) = x, f32Val (BitVec.setWidth 32 b) = y
  split
  case h_1 => simp [FVal.ltB, FVal.isZero]
  case h_2 => simp [FVal.isZero]
  case h_3 hx hy => exact FVal.ltB_or_eq_or_zeros hx hy

/-! ### The predicate written -/

@[simp] theorem SFn.eval_cmp_ne_zero (k : Cond) (a b : DWord) : ((SFn.cmp k).eval a b != 0#64) = condHolds k a b := by
  cases h : condHolds k a b <;> simp [SFn.eval, h]

@[simp] theorem SFn.eval_log_ne_zero (t : BitVec 4) (a b : DWord) : ((SFn.log t).eval a b != 0#64) = plogBit t (a != 0#64) (b != 0#64) := by
  cases h : plogBit t (a != 0#64) (b != 0#64) <;> simp [SFn.eval, h]

@[simp] theorem Seqr.predS_v_ne_zero (q : Seqr) (r : QReg) : ((q.predS r).v != 0#64) = q.pred r := by
  cases h : q.pred r <;> simp [Seqr.predS, h]

theorem plogBit_eq_getLsbD (t : BitVec 4) (a b : Bool) : plogBit t a b = t.getLsbD (2 * a.toNat + b.toNat) := by
  cases a <;> cases b <;> simp [plogBit, bitAt, b2n, BitVec.getLsbD, Nat.testBit]

theorem Seqr.predS_ex_eq_none_iff (q : Seqr) (r : QReg) : (q.predS r).ex = none ↔ q.sure r = true := by
  by_cases h : r = 0 <;> simp [Seqr.predS, Seqr.sure, h]

/-- A predicate written and the pc moved on: Q0 and its marking stay (R254, R269). -/
theorem Seqr.next_setQ (q : Seqr) (r : QReg) (v : Bool) (ex : Option SExpr) : (q.setQ r v ex).next =
    { q with q := if r = 0 then q.q else q.q.set r v, qx := if r = 0 then q.qx else q.qx.set r ex, pc := q.pc + 1 } := by
  by_cases h : r = 0 <;> simp [Seqr.setQ, Seqr.next, h]

/-- An instruction of the sequencer alone that issues and need not wait has its effect there, and the pc moves on. -/
theorem State.issueSeq_of_issues {s : State} {c : CombId} {p : Pr} {w : Seqr → Bool} {f : Seqr → Seqr} (h : s.block.issues c p = true)
    (hw : w (s.block.seq c) = false) : s.issueSeq c p w f = .next (s.seqAfter c (fun q => (f q).next)) := by
  simp [State.issueSeq, State.seqAfter, Block.issue_of_issues _ _ _ _ _ h hw, modSeq_modIssue]

theorem exec_scmp_of_issues {c : CombId} {p : Pr} (qd : QReg) {sa sb : SReg} (k : Cond) {s : State} (h : s.block.issues c p = true)
    (ha : (s.block.seq c).pend sa = false) (hb : (s.block.seq c).pend sb = false) :
    exec (.scmp c p qd sa sb k) s = .next (s.seqAfter c (fun q =>
      (q.setQ qd (condHolds k (q.s[sa]).v (q.s[sb]).v) (Scal.exWith (.cmp k) q.s[sa] q.s[sb])).next)) := by
  simp [exec, execScmp, State.issueSeq_of_issues h, ha, hb]

theorem exec_plog_of_issues {c : CombId} {p : Pr} (qd qa qb : QReg) (table : BitVec 4) {s : State} (h : s.block.issues c p = true) :
    exec (.plog c p qd qa qb table) s = .next (s.seqAfter c (fun q =>
      (q.setQ qd (table.getLsbD (2 * (q.pred qa).toNat + (q.pred qb).toNat)) (Scal.exWith (.log table) (q.predS qa) (q.predS qb))).next)) := by
  simp [exec, execPlog, State.issueSeq_of_issues h, plogBit_eq_getLsbD]

/-- Settles O12: the conditions one by one; SCMP and PLOG as a write of the predicate named, which passes over Q0 (R291). -/
theorem predicateResults : Obligations.PredicateResults := by
  unfold Obligations.PredicateResults
  refine ⟨fun a b => ⟨rfl, condHolds_ne a b, rfl, rfl, rfl, rfl, condHolds_flt a b, condHolds_fle a b⟩,
    fun c p qd s h => ⟨fun sa sb k ha hb => ?_, fun qa qb table => ?_⟩, Seqr.predS_ex_eq_none_iff⟩
  · simp only [exec_scmp_of_issues qd k h ha hb, Seqr.next_setQ]
  · simp only [exec_plog_of_issues qd qa qb table h, Seqr.next_setQ]

end Sys2Proof.Machine
end

/-! PROOF. A doorbell (R309): the three fields of the doubleword that is written, the doorbells that break the rule, and what is done with each. -/
section
namespace Sys2Proof.Machine
open Sys2Proof

/-! ### The doubleword -/

theorem doorbellWord_toNat (tok : BitVec 32) (cq sq : BitVec 16) :
    (tok ++ cq ++ sq).toNat = (tok.toNat * 2 ^ 16 + cq.toNat) * 2 ^ 16 + sq.toNat := by
  rw [BitVec.toNat_append, BitVec.toNat_append, ← Nat.shiftLeft_add_eq_or_of_lt sq.isLt, ← Nat.shiftLeft_add_eq_or_of_lt cq.isLt,
    Nat.shiftLeft_eq, Nat.shiftLeft_eq]

theorem doorbellWord_token (tok : BitVec 32) (cq sq : BitVec 16) : BitVec.ofNat 32 ((tok ++ cq ++ sq).toNat / 2 ^ 32) = tok := by
  have hdiv : (tok ++ cq ++ sq).toNat / 2 ^ 32 = tok.toNat := by
    rw [doorbellWord_toNat]
    omega
  rw [hdiv, BitVec.ofNat_toNat, BitVec.setWidth_eq]

theorem doorbellWord_cqHead (tok : BitVec 32) (cq sq : BitVec 16) : (tok ++ cq ++ sq).toNat / 2 ^ 16 % 2 ^ 16 = cq.toNat := by
  rw [doorbellWord_toNat]
  omega

theorem doorbellWord_sqTail (tok : BitVec 32) (cq sq : BitVec 16) : (tok ++ cq ++ sq).toNat % 2 ^ 16 = sq.toNat := by
  rw [doorbellWord_toNat]
  omega

/-! ### The two outcomes -/

/-- The token and the three bounds on the indices, as the reasons to ignore a doorbell. -/
theorem Ctx.doorbellOk_eq_false_iff (c : Ctx) (tok : BitVec 32) (cq sq : Nat) :
    c.doorbellOk tok cq sq = false ↔ c.token ≠ tok ∨ 2 ^ c.sqLog < idxDiff sq c.sqHead ∨
      idxDiff sq c.sqHead < idxDiff c.sqTail c.sqHead ∨ idxDiff c.cqTail c.cqHead < idxDiff cq c.cqHead := by
  simp only [Ctx.doorbellOk, Bool.and_eq_false_iff, beq_eq_false_iff_ne, decide_eq_false_iff_not, Nat.not_le, or_assoc]

section
variable {b : Block} {h : PortId} {vf : VfId} {id : Nat} (hlive : b.vfLive h vf = true)
include hlive

theorem Block.doorbell_of_no_ctx (width : Nat) (v : BitVec 64) (hc : b.ctx? id = none) :
    b.doorbell h vf id width v = b.modHost (fun x => { x with dbBad := wrapAdd x.dbBad 1 }) := by
  simp only [Block.doorbell, hlive, hc, Bool.not_true, Bool.false_eq_true, if_false]

/-- At a context, a doorbell is counted for the six reasons of R309 and sets the indices otherwise. -/
theorem Block.doorbell_of_ctx {c : Ctx} (width : Nat) (tok : BitVec 32) (cq sq : BitVec 16) (hc : b.ctx? id = some c) :
    b.doorbell h vf id width (tok ++ cq ++ sq) =
      if width ≠ 8 ∨ c.isOpen = false ∨ c.port ≠ h ∨ c.vf ≠ vf ∨ c.doorbellOk tok cq.toNat sq.toNat = false then
        b.modHost (fun x => { x with dbBad := wrapAdd x.dbBad 1 })
      else (b.modCtx id (fun c => { c with cqHead := cq.toNat, sqTail := sq.toNat })).scanReady := by
  simp only [Block.doorbell, hlive, hc, doorbellWord_token, doorbellWord_cqHead, doorbellWord_sqTail, Bool.not_true, Bool.false_eq_true, if_false,
    Bool.not_eq_true']

end

theorem exec_doorbell (h : PortId) (vf : VfId) (id width : Nat) (v : BitVec 64) (s : State) :
    exec (.doorbell h vf id width v) s = .next (s.onBlock (s.block.doorbell h vf id width v)) := rfl

/-- Settles O37: the doubleword falls into its fields, and the model's check of them fails for just the reasons of R309. -/
theorem doorbellMovesTheIndices : Obligations.DoorbellMovesTheIndices := by
  unfold Obligations.DoorbellMovesTheIndices
  intro h vf id width tok cq sq s hlive
  simp only [exec_doorbell]
  refine ⟨fun hc => ?_, fun c hc => ?_⟩
  · rw [Block.doorbell_of_no_ctx hlive _ _ hc]
  · have hreasons := c.doorbellOk_eq_false_iff tok cq.toNat sq.toNat
    rw [Block.doorbell_of_ctx hlive width tok cq sq hc]
    exact ⟨fun hwrong => by rw [if_pos (by rw [hreasons]; exact hwrong)], fun hright => by rw [if_neg (by rw [hreasons]; exact hright)]⟩

end Sys2Proof.Machine
end

/-! PROOF. The mirrors (R376, R418): every command answers in one of three shapes, each of which ends in `finish`; the state registers stand at the
first address of their units, or last in their group of the PWR block; and `finish` pushes each mirror by itself. -/
section
namespace Sys2Proof.Machine
open Sys2Proof

/-! ### The shapes of a meaning -/

/-- What a command answers in `s`: it changes the block alone, the comb buffers too, or the fuses too; and the block is what `finish` leaves of the
command's effect `n`. -/
inductive ExecShape (s : State) : Out → Prop
  | block (n : Block) : ExecShape s (.next { s with block := finish s.block n })
  | bufs (n : Block) (ms : Vector Mem 4) : ExecShape s (.next { s with block := finish s.block n, bufs := ms })
  | fuses (n : Block) (fz : Fuses) : ExecShape s (.next { s with block := finish s.block n, fuses := fz })

/-- Every command has one of the three shapes: the register writes, burns and Kettle resets touch the fuses, `bufWriter` names those of the buffers. -/
theorem exec_execShape (c : Instr) (s : State) : ExecShape s (exec c s) := by
  cases c
  case ctrlRequestWithdraw t => cases t <;> exact .fuses _ _
  case mspWrite | registerWrite | fuseBurnPassword | fuseBurnAnchor | fuseBurnComplete | cmbReleaseRequest | cmbReturnRequest | lnkTakeOutRequest |
      lnkBringBackRequest | prtLinkWeightWrite | prtCollTimeoutWrite | pwrCombCfgWrite | pwrLnkCfgWrite | pwrRstReq | evlAckWrite | evlSelWrite |
      nvmCtrlWrite | hbmScrubHoursWrite | lnkRelayWeightWrite | kettlePowerOn | kettleSelfWatchdog =>
    exact .fuses _ _
  case tcopy | orth | mma | mmag | xstat | gatheredRowTake | stepStart | powerEntryComplete | combFailure | combWatchdog | combReturnWakeDone |
      wakeComplete | unpackDequantise | writeResidual | deliverResult | codebookDecode | pageOutReadback | pageInComplete =>
    exact .bufs _ _
  all_goals exact .block _

theorem ExecShape.block_eq_finish {s : State} {o : Out} (h : ExecShape s o) : ∃ n t, o = .next t ∧ t.block = finish s.block n := by
  cases h with
  | block n | bufs n _ | fuses n _ => exact ⟨n, _, rfl, rfl⟩

/-! ### The state registers (R415) -/

section
variable (b : Block) (f : Fuses)

theorem Block.readReg_cmbAddr (c : CombId) {o : Nat} (ho : o < 0x40000) : b.readReg f (cmbAddr c o) = b.readCmb c o := by
  have hunit : Fin.ofNat 4 ((0x100000 + c.val * 0x40000 + o - 0x100000) / 0x40000) = c := Fin.ext (by rw [Fin.val_ofNat]; omega)
  have hoff : (0x100000 + c.val * 0x40000 + o - 0x100000) % 0x40000 = o := by omega
  simp (disch := omega) only [Block.readReg, cmbAddr, if_neg, if_pos, hunit, hoff]

theorem Block.readReg_lnkAddr (l : LinkId) {o : Nat} (ho : o < 0x1000) : b.readReg f (lnkAddr l o) = b.readLnk l o := by
  have hunit : Fin.ofNat 42 ((0x300000 + l.val * 0x1000 + o - 0x300000) / 0x1000) = l := Fin.ext (by rw [Fin.val_ofNat]; omega)
  have hoff : (0x300000 + l.val * 0x1000 + o - 0x300000) % 0x1000 = o := by omega
  simp (disch := omega) only [Block.readReg, lnkAddr, if_neg, if_pos, hunit, hoff]

theorem Block.readReg_prtAddr (p : PartId) {o : Nat} (ho : o < 0x400) : b.readReg f (prtAddr p o) = b.readPrt p o := by
  have hunit : Fin.ofNat 128 ((0x400000 + p.val * 0x400 + o - 0x400000) / 0x400) = p := Fin.ext (by rw [Fin.val_ofNat]; omega)
  have hoff : (0x400000 + p.val * 0x400 + o - 0x400000) % 0x400 = o := by omega
  simp (disch := omega) only [Block.readReg, prtAddr, if_neg, if_pos, hunit, hoff]

theorem Block.readReg_hbm {o : Nat} (ho : o < 0x200) : b.readReg f (0x600000 + o) = b.readHbm o := by
  simp (disch := omega) only [Block.readReg, if_neg, if_pos, Nat.add_sub_cancel_left]

theorem Block.readReg_pwr {o : Nat} (ho : o < 0xE0) : b.readReg f (0x800000 + o) = b.readPwr o := by
  simp (disch := omega) only [Block.readReg, if_neg, if_pos, Nat.add_sub_cancel_left]

/-- CMB_STATE (R425). -/
theorem Block.readReg_cmbState (c : CombId) : b.readReg f (0x100000 + 0x40000 * c.val) = some (b.mirrors.comb[c]).read := by
  have haddr : 0x100000 + 0x40000 * c.val = cmbAddr c 0 := by rw [cmbAddr]; omega
  rw [haddr, b.readReg_cmbAddr f c (by decide)]
  rfl

/-- LNK_STATE (R428). -/
theorem Block.readReg_lnkState (l : LinkId) : b.readReg f (0x300000 + 0x1000 * l.val) = some (b.mirrors.link[l]).read := by
  have haddr : 0x300000 + 0x1000 * l.val = lnkAddr l 0 := by rw [lnkAddr]; omega
  rw [haddr, b.readReg_lnkAddr f l (by decide)]
  rfl

/-- PRT_STATE of a defined partition (R430). -/
theorem Block.readReg_prtState {p : PartId} (h : (b.part p).img.isSome = true) :
    b.readReg f (0x400000 + 0x400 * p.val) = some (b.mirrors.part[p]).read := by
  obtain ⟨i, hi⟩ := Option.isSome_iff_exists.1 h
  have haddr : 0x400000 + 0x400 * p.val = prtAddr p 0 := by rw [prtAddr]; omega
  rw [haddr, b.readReg_prtAddr f p (by decide)]
  simp [Block.readPrt, hi]

/-- HBM_STACK_STATE (R432). -/
theorem Block.readReg_hbmStackState (k : StackId) : b.readReg f (0x600000 + 4 * k.val) = some (b.mirrors.stack[k]).read := by
  have hunit : Fin.ofNat 4 (4 * k.val / 4) = k := Fin.ext (by rw [Fin.val_ofNat]; omega)
  rw [b.readReg_hbm f (by omega)]
  simp (disch := omega) only [Block.readHbm, if_pos, hunit]

/-- PWR_COMB_STATE (R435). -/
theorem Block.readReg_pwrCombState (c : CombId) : b.readReg f (0x80001C + 16 * c.val) = some (b.mirrors.pcomb[c]).read := by
  have hunit : Fin.ofNat 4 ((0x1C + 16 * c.val - 0x10) / 16) = c := Fin.ext (by rw [Fin.val_ofNat]; omega)
  have hfield : (0x1C + 16 * c.val - 0x10) % 16 = 12 := by omega
  have haddr : 0x80001C + 16 * c.val = 0x800000 + (0x1C + 16 * c.val) := by omega
  rw [haddr, b.readReg_pwr f (by omega)]
  simp (disch := omega) only [Block.readPwr, if_neg, if_pos, hunit, hfield]

/-- PWR_LNK_STATE (R435). -/
theorem Block.readReg_pwrLnkState (d : DimId) : b.readReg f (0x80008C + 16 * d.val) = some (b.mirrors.plink[d]).read := by
  have hunit : Fin.ofNat 6 ((0x8C + 16 * d.val - 0x80) / 16) = d := Fin.ext (by rw [Fin.val_ofNat]; omega)
  have hfield : (0x8C + 16 * d.val - 0x80) % 16 = 12 := by omega
  have haddr : 0x80008C + 16 * d.val = 0x800000 + (0x8C + 16 * d.val) := by omega
  rw [haddr, b.readReg_pwr f (by omega)]
  simp (disch := omega) only [Block.readPwr, if_neg, if_pos, hunit, hfield]

end

/-- A mirror reads mseq in bits [31:24], above the fields (R418). -/
theorem Mirror.read_eq_append (m : Mirror) : BitVec.ofNat 32 m.read = m.mseq ++ m.val := by
  apply BitVec.eq_of_toNat_eq
  rw [BitVec.toNat_append, ← Nat.shiftLeft_add_eq_or_of_lt m.val.isLt, Nat.shiftLeft_eq, BitVec.toNat_ofNat, Mirror.read]
  omega

/-! ### The pushes (R376) -/

theorem finish_mirrors_of_resets_eq {o n : Block} (h : n.resets = o.resets) : (finish o n).mirrors = pushMirrors o n n.mirrors := if_pos h

/-- A mirror is pushed where its unit's view changes, unless its pushes are held up (log entry 66). -/
theorem Mirror.push_eq_ite (m : Mirror) (old new : BitVec 24) :
    m.push old new = if new = old ∨ m.held = true then m else { m with val := new, mseq := m.mseq + 1 } := by
  simp only [Mirror.push, eq_comm (a := old)]

section
variable (o n : Block) (m : Mirrors)

theorem pushMirrors_comb (c : CombId) : (pushMirrors o n m).comb[c] = (m.comb[c]).push (combView (o.comb c)) (combView (n.comb c)) := by
  simp [pushMirrors]
theorem pushMirrors_link (l : LinkId) : (pushMirrors o n m).link[l] = (m.link[l]).push (linkView (o.link l)) (linkView (n.link l)) := by
  simp [pushMirrors]
theorem pushMirrors_part (p : PartId) : (pushMirrors o n m).part[p] = (m.part[p]).push (o.partView p) (n.partView p) := by
  simp [pushMirrors]
theorem pushMirrors_stack (k : StackId) :
    (pushMirrors o n m).stack[k] = (m.stack[k]).push (stackView o.hbm.stackOf[k]) (stackView n.hbm.stackOf[k]) := by
  simp [pushMirrors]
theorem pushMirrors_pcomb (c : CombId) : (pushMirrors o n m).pcomb[c] = (m.pcomb[c]).push (pcombView (o.comb c)) (pcombView (n.comb c)) := by
  simp [pushMirrors]
theorem pushMirrors_plink (d : DimId) : (pushMirrors o n m).plink[d] = (m.plink[d]).push (o.plinkView d) (n.plinkView d) := by
  simp [pushMirrors]

end

/-- Settles O7: each shape of a meaning ends in `finish`, the state registers read at their addresses, and `finish` pushes mirror by mirror
(R376, R418). That one command counts one change is deduced (log entry 56), and that a push may come late the model's choice (entry 66). -/
theorem mirrorsFollowTheDataPath : Obligations.MirrorsFollowTheDataPath := by
  unfold Obligations.MirrorsFollowTheDataPath
  refine ⟨fun c s => (exec_execShape c s).block_eq_finish, fun b f => ?_, Mirror.read_eq_append, fun o n h => ⟨⟨(finish o n).mirrors, rfl⟩, ?_⟩⟩
  · exact ⟨b.readReg_cmbState f, b.readReg_lnkState f, fun _ => b.readReg_prtState f, b.readReg_hbmStackState f, b.readReg_pwrCombState f,
      b.readReg_pwrLnkState f⟩
  · simp only [finish_mirrors_of_resets_eq h, ← Mirror.push_eq_ite]
    exact ⟨pushMirrors_comb o n _, pushMirrors_link o n _, pushMirrors_part o n _, pushMirrors_stack o n _, pushMirrors_pcomb o n _,
      pushMirrors_plink o n _⟩

end Sys2Proof.Machine
end

/-! PROOF. The comb buffers (R276): whatever an operation of the Infuser writes into a buffer is a run of elements, which keeps the canonical
form; every other command leaves a buffer, empties it, or lets issued operations write it. -/
section
namespace Sys2Proof.Machine
open Sys2Proof

/-! ### What the operations write -/

section
variable {m : Mem} (hm : Memory.wf (some 0) m = true)
include hm

theorem Block.putConvs_wf (b : Block) (c : CombId) (p : PartId) (d : Td) (o : Nat) (cs : List Conv) :
    Memory.wf (some 0) (b.putConvs m c p d o cs).2 = true := by
  simp only [Block.putConvs]
  split
  · exact Memory.wf_setWords _ _ _ hm
  split
  · exact hm
  · exact hm

theorem Block.putRow_wf (b : Block) (c : CombId) (p : PartId) (g : GProd) (k : Nat) (v : List FVal) :
    Memory.wf (some 0) (b.putRow m c p g k v).2 = true :=
  Block.putConvs_wf hm _ _ _ _ _ _

theorem Block.earlyRow_wf (b : Block) (p : PartId) (g : GProd) (row : Nat) (v : List FVal × Nat) (uses : List Nat) :
    Memory.wf (some 0) (b.earlyRow m p g row v uses).2 = true := by
  simp only [Block.earlyRow]
  split
  · exact Memory.wf_setWords _ _ _ hm
  · exact hm

theorem Block.rowTake_wf (b : Block) (c : CombId) (p : PartId) (r : StepRun) (row : Nat) :
    Memory.wf (some 0) (b.rowTake m c p r row).2 = true := by
  unfold Block.rowTake
  split
  case h_1 => exact hm
  case h_2 g gs _ =>
    split
    · exact hm
    · split
      case h_1 => exact hm
      case h_2 l uses _ =>
        dsimp only
        split
        · exact Block.putRow_wf hm _ _ _ _ _ _
        · exact Block.earlyRow_wf hm _ _ _ _ _ uses

theorem Block.tcopy_wf (b : Block) (c : CombId) (p : PartId) (r : StepRun) (dst src : Td) (rd : HostRead) (errs : List MemErr) :
    Memory.wf (some 0) (b.tcopy m c p r dst src rd errs).2 = true := by
  have hcopy : ∀ (n k : Nat) (m : Mem), Memory.wf (some 0) m = true → Memory.wf (some 0) (copyAscending m src.base dst.base n k) = true := by
    intro n
    induction n with
    | zero => exact fun _ _ h => h
    | succ n ih => exact fun k m h => ih (k + 1) _ (Memory.wf_setWord _ _ _ h)
  simp only [Block.tcopy]
  split
  · exact hm
  split
  · exact hm
  split
  · exact hcopy _ _ _ hm
  split
  · exact Block.putConvs_wf hm _ _ _ _ _ _
  · exact Block.putConvs_wf hm _ _ _ _ _ _

theorem Block.orth_wf (b : Block) (c : CombId) (p : PartId) (r : StepRun) (dst src : Td) (rd : HostRead) (errs : List MemErr) :
    Memory.wf (some 0) (b.orth m c p r dst src rd errs).2 = true := by
  simp only [Block.orth]
  split
  · exact hm
  split
  · exact hm
  · exact Block.putConvs_wf hm _ _ _ _ _ _

theorem Block.xstat_wf (b : Block) (c : CombId) (p : PartId) (r : StepRun) (dst src : Td) (mode : Nat) (errs : List MemErr) :
    Memory.wf (some 0) (b.xstat m c p r dst src mode errs).2 = true := by
  simp only [Block.xstat]
  split
  · exact hm
  split
  · exact hm
  split
  · exact Block.putConvs_wf hm _ _ _ _ _ _
  · exact Block.putConvs_wf hm _ _ _ _ _ _

/-- A run of steps each of which keeps the form keeps it. -/
theorem wf_foldl_rows (f : Block × Mem → Nat → Block × Mem)
    (hf : ∀ w k, Memory.wf (some 0) w.2 = true → Memory.wf (some 0) (f w k).2 = true) (rows : List Nat) (b : Block) :
    Memory.wf (some 0) (rows.foldl f (b, m)).2 = true := by
  suffices h : ∀ w : Block × Mem, Memory.wf (some 0) w.2 = true → Memory.wf (some 0) (rows.foldl f w).2 = true from h _ hm
  induction rows with
  | nil => exact fun _ h => h
  | cons k ks ih => exact fun w h => ih _ (hf w k h)

theorem Block.mma_wf (b : Block) (c : CombId) (p : PartId) (r : StepRun) (dst stream weights : Td) (cvt : Fmt) (o : OutSet) (rd : MmaReads)
    (errs : List MemErr) (gathered : Bool) : Memory.wf (some 0) (b.mma m c p r dst stream weights cvt o rd errs gathered).2 = true := by
  simp only [Block.mma]
  split
  · exact hm
  · split
    · exact hm
    · split
      · split
        · exact hm
        · exact wf_foldl_rows hm _ (fun _ _ h => Block.rowTake_wf h _ _ _ _ _) _ _
      · exact wf_foldl_rows hm _ (fun _ _ h => Block.putRow_wf h _ _ _ _ _ _) _ _

theorem Block.runOp_wf (b : Block) (c : CombId) (p : PartId) (r : StepRun) (x : InfOp) : Memory.wf (some 0) (b.runOp m c p r x).2 = true := by
  cases x with
  | copy => exact Block.tcopy_wf hm _ _ _ _ _ _ _ _
  | orth => exact Block.orth_wf hm _ _ _ _ _ _ _ _
  | mma => exact Block.mma_wf hm _ _ _ _ _ _ _ _ _ _ _ _
  | stat => exact Block.xstat_wf hm _ _ _ _ _ _ _ _

theorem Block.issueOp_wf (b : Block) (c : CombId) (p : Pr) (w : Seqr → Bool) (op : Seqr → InfOp) :
    Memory.wf (some 0) (b.issueOp m c p w op).2 = true := by
  simp only [Block.issueOp, Block.onStep]
  split
  · exact hm
  split
  · exact hm
  split
  · exact hm
  · split
    · split
      · exact Block.runOp_wf hm _ _ _ _ _
      · exact hm
    · exact hm

end

theorem Block.runOps_wf (c : CombId) (n : Nat) (w : Block × Mem) (hw : Memory.wf (some 0) w.2 = true) :
    Memory.wf (some 0) (Block.runOps c n w).2 = true := by
  induction n generalizing w with
  | zero => exact hw
  | succ n ih =>
    simp only [Block.runOps, Block.onStep]
    split
    · exact hw
    · split
      · split
        · exact hw
        split
        · exact hw
        · exact ih _ (Block.runOp_wf hw _ _ _ _ _)
      · exact hw

/-! ### The four buffers -/

/-- Every comb buffer has its canonical form. -/
def CanonicalBufs (ms : Vector Mem 4) : Prop := ∀ c : CombId, Memory.wf (some 0) ms[c] = true

theorem CanonicalBufs.set {ms : Vector Mem 4} (h : CanonicalBufs ms) (c : CombId) {m : Mem} (hm : Memory.wf (some 0) m = true) :
    CanonicalBufs (ms.set c m) := by
  intro k
  by_cases hk : c.val = k.val
  · simpa [hk] using hm
  · simpa [hk] using h k

theorem CanonicalBufs.clear {ms : Vector Mem 4} (h : CanonicalBufs ms) (c : CombId) : CanonicalBufs (ms.set c []) := h.set c rfl

theorem CanonicalBufs.keptBufs {ms : Vector Mem 4} (h : CanonicalBufs ms) (b : Block) : CanonicalBufs (b.keptBufs ms) := by
  intro c
  by_cases hc : (b.comb c).pwr = .cold
  · simp [Block.keptBufs, hc, Memory.wf]
  · simpa [Block.keptBufs, hc] using h c

theorem CanonicalBufs.wokenBufs {ms : Vector Mem 4} (h : CanonicalBufs ms) (b : Block) (u : PwrUnit) : CanonicalBufs (b.wokenBufs u ms) := by
  cases u with
  | comb c =>
    simp only [Block.wokenBufs]
    split
    · exact h.clear c
    · exact h
  | group => exact h

theorem CanonicalBufs.stepStart {ms : Vector Mem 4} (h : CanonicalBufs ms) (b : Block) (p : PartId) (errs : List MemErr) :
    CanonicalBufs (b.stepStart ms p errs).2 := by
  simp only [Block.stepStart]
  split
  · exact h
  split
  · exact h
  · split
    · exact h
    · split
      · exact h
      · exact h.clear _

/-! ### Commands and idle steps -/

/-- The outcome, where it is a next state, has canonical buffers. -/
def KeepsBufs (o : Out) : Prop := ∀ t, o = .next t → CanonicalBufs t.bufs

theorem KeepsBufs.actBufs {s : State} {f : Block → Vector Mem 4 → Block × Vector Mem 4} (hf : CanonicalBufs (f s.block s.bufs).2) :
    KeepsBufs (s.actBufs f) := by
  intro t ht
  cases ht
  exact hf

section
variable {s : State} (h : CanonicalBufs s.bufs)
include h

theorem KeepsBufs.actBuf (c : CombId) (f : Block → Mem → Block × Mem)
    (hf : ∀ b m, Memory.wf (some 0) m = true → Memory.wf (some 0) (f b m).2 = true) : KeepsBufs (s.actBuf c f) :=
  KeepsBufs.actBufs (h.set c (hf _ _ (h c)))

theorem KeepsBufs.issueOp (c : CombId) (p : Pr) (w : Block → Seqr → Bool) (op : Seqr → InfOp) :
    KeepsBufs (s.actBuf c (fun b m => b.issueOp m c p (w b) op)) :=
  KeepsBufs.actBuf h c _ (fun _ _ hm => Block.issueOp_wf hm _ _ _ _ _)

theorem KeepsBufs.goOps (p : PartId) (f : Block → Block) : KeepsBufs (s.goOps p f) := by
  refine KeepsBufs.actBufs ?_
  dsimp only
  split
  · exact h
  · exact h.set _ (Block.runOps_wf _ _ _ (h _))

theorem KeepsBufs.gatheredRowTake (c : CombId) (row : Nat) : KeepsBufs (execGatheredRowTake c row s) := by
  refine KeepsBufs.actBuf h c _ (fun b m hm => ?_)
  simp only [Block.onStep]
  split
  · exact Block.runOps_wf _ _ _ (Block.rowTake_wf hm _ _ _ _ _)
  · exact hm

theorem KeepsBufs.combReturnWakeDone (c : CombId) (ok : Bool) : KeepsBufs (execCombReturnWakeDone c ok s) := by
  refine KeepsBufs.actBufs ?_
  dsimp only
  split
  · exact h
  · exact h.clear c

theorem KeepsBufs.combFailure (c : CombId) (cause : CombCause) : KeepsBufs (execCombFailure c cause s) :=
  KeepsBufs.actBufs (h.keptBufs _)

/-- Every command keeps the form: the writers of a buffer one by one, the others because they leave the buffers. -/
theorem KeepsBufs.exec (i : Instr) : KeepsBufs (exec i s) := by
  cases i
  case tcopy | orth | mma | mmag | xstat =>
    simp only [Machine.exec, execTcopy, execOrth, execMma, execMmag, execXstat]
    exact KeepsBufs.issueOp h _ _ _ _
  case unpackDequantise | writeResidual | deliverResult | codebookDecode | pageOutReadback | pageInComplete =>
    simp only [Machine.exec, execUnpackDequantise, execWriteResidual, execDeliverResult, execCodebookDecode, execPageOutReadback,
      execPageInComplete]
    exact KeepsBufs.goOps h _ _
  case gatheredRowTake c row => exact KeepsBufs.gatheredRowTake h c row
  case combReturnWakeDone c ok => exact KeepsBufs.combReturnWakeDone h c ok
  case stepStart p errs => exact KeepsBufs.actBufs (f := fun b ms => b.stepStart ms p errs) (h.stepStart _ p errs)
  case powerEntryComplete u => exact KeepsBufs.actBufs (f := fun b m => (b.entryDone u, (b.entryDone u).keptBufs m)) (h.keptBufs _)
  case combWatchdog c => exact KeepsBufs.actBufs (f := fun b m => (b.watchdogEnds c, (b.watchdogEnds c).keptBufs m)) (h.keptBufs _)
  case combFailure c cause => exact KeepsBufs.combFailure h c cause
  case wakeComplete u => exact KeepsBufs.actBufs (f := fun b m => (b.wakeDone u, b.wokenBufs u m)) (h.wokenBufs _ u)
  all_goals
    intro t ht
    rw [exec_bufs _ s t rfl ht]
    exact h

theorem CanonicalBufs.fire (d : Due) : CanonicalBufs (s.fire d).bufs := by
  cases d <;> simp only [State.fire]
  case combCtrl | entry | watchdog | settle => exact h.keptBufs _
  case wake u => exact h.wokenBufs _ u
  case ops c => exact h.set c (Block.runOps_wf _ _ _ (h c))
  all_goals exact h

end

theorem CanonicalBufs.fires {t : State} (h : CanonicalBufs t.bufs) (ds : List Due) :
    CanonicalBufs (ds.foldl (fun (x : State) d => if x.isDue d then x.fire d else x) t).bufs := by
  induction ds generalizing t with
  | nil => exact h
  | cons d ds ih =>
    rw [List.foldl_cons]
    split
    · exact ih (h.fire d)
    · exact ih h

theorem CanonicalBufs.idle {s : State} (h : CanonicalBufs s.bufs) : CanonicalBufs s.idle.bufs := by
  simp only [State.idle, State.clock]
  exact CanonicalBufs.fires (t := { s with block := s.block.tick }) h _

/-- Settles O4: every command and every thing that a KT brings keeps the form of the buffers that it writes (R276). -/
theorem combBuffersStayCanonical : Obligations.CombBuffersStayCanonical := by
  unfold Obligations.CombBuffersStayCanonical
  intro s t hs hstep
  cases hq : s.pending with
  | nil =>
    rw [step_nil s hq, Host.Outcome.next.injEq] at hstep
    rw [← hstep]
    exact CanonicalBufs.idle hs
  | cons c rest =>
    rw [step_cons s c rest hq] at hstep
    have hrest : CanonicalBufs (s.withPending rest).bufs := by rw [State.withPending_bufs]; exact hs
    exact KeepsBufs.exec hrest c t hstep

end Sys2Proof.Machine
end

/-! PROOF. The fuses (R371, R372, R395): a burn starts only on a bank that is not set, so that neither its end nor a Kettle reset that cuts it short
touches a bank that is. -/
section
namespace Sys2Proof.Machine
open Sys2Proof

/-! ### A change of the fuses that keeps what is set -/

/-- The fuses go from `f` to `g`: `g` is sound, and a bank set in `f` has its bits and its flag still. -/
structure Fuses.Keeps (f g : Fuses) : Prop where
  sound : g.sound
  pwd : f.pwdSet = true → g.pwdSet = true ∧ g.pwd = f.pwd
  anchor : f.anchorSet = true → g.anchorSet = true ∧ g.anchor = f.anchor

theorem Fuses.Keeps.refl {f : Fuses} (h : f.sound) : f.Keeps f := ⟨h, fun h => ⟨h, rfl⟩, fun h => ⟨h, rfl⟩⟩

theorem Fuses.Keeps.trans {f g k : Fuses} (hfg : f.Keeps g) (hgk : g.Keeps k) : f.Keeps k where
  sound := hgk.sound
  pwd hf := by
    obtain ⟨hg, hgf⟩ := hfg.pwd hf
    obtain ⟨hk, hkg⟩ := hgk.pwd hg
    exact ⟨hk, hkg.trans hgf⟩
  anchor hf := by
    obtain ⟨hg, hgf⟩ := hfg.anchor hf
    obtain ⟨hk, hkg⟩ := hgk.anchor hg
    exact ⟨hk, hkg.trans hgf⟩

theorem Fuses.sound_of_idle {f : Fuses} (h : f.busy = none) : f.sound := by simp [Fuses.sound, h]

/-- The bank under burn is not set: the one that its code names. -/
theorem Fuses.sound_of_busy {f : Fuses} (h : f.sound) {code : BitVec 32} {bs : List Byte} (hb : f.busy = some (code, bs)) :
    (code = 0x0000A5D1#32 ∧ f.pwdSet = false) ∨ (code ≠ 0x0000A5D1#32 ∧ f.anchorSet = false) := by
  simp only [Fuses.sound, hb] at h
  exact h.imp_right (And.imp_left (by rintro rfl; decide))

section
variable {f : Fuses} (h : f.sound)
include h

theorem Fuses.burnt_keeps : f.Keeps f.burnt := by
  unfold Fuses.burnt
  split
  case h_1 => exact .refl h
  case h_2 code bs hb =>
    obtain ⟨hcode, hset⟩ | ⟨hcode, hset⟩ := Fuses.sound_of_busy h hb
    · simp only [hcode, if_true]
      exact ⟨Fuses.sound_of_idle rfl, fun hp => absurd hp (by simp [hset]), fun ha => ⟨ha, rfl⟩⟩
    · simp only [hcode, if_false]
      exact ⟨Fuses.sound_of_idle rfl, fun hp => ⟨hp, rfl⟩, fun ha => absurd ha (by simp [hset])⟩

theorem Fuses.cut_keeps (n : Nat) : f.Keeps (f.cut n) := by
  unfold Fuses.cut
  split
  case h_1 hb => exact ⟨Fuses.sound_of_idle hb, fun hp => ⟨hp, rfl⟩, fun ha => ⟨ha, rfl⟩⟩
  case h_2 code bs hb =>
    obtain ⟨hcode, hset⟩ | ⟨hcode, hset⟩ := Fuses.sound_of_busy h hb
    · simp only [hcode, if_true]
      exact ⟨Fuses.sound_of_idle rfl, fun hp => absurd hp (by simp [hset]), fun ha => ⟨ha, rfl⟩⟩
    · simp only [hcode, if_false]
      exact ⟨Fuses.sound_of_idle rfl, fun hp => ⟨hp, rfl⟩, fun ha => absurd ha (by simp [hset])⟩

theorem Fuses.program_keeps (v now : Nat) : f.Keeps (f.program v now).1 := by
  have hset : ∀ x : Bool, ¬(x = true ∨ f.busy.isSome = true) → x = false := by simp
  unfold Fuses.program
  split
  · split
    case isTrue => exact .refl h
    case isFalse hp => exact ⟨Or.inl ⟨rfl, hset _ hp⟩, fun hp => ⟨hp, rfl⟩, fun ha => ⟨ha, rfl⟩⟩
  · split
    · split
      case isTrue => exact .refl h
      case isFalse ha => exact ⟨Or.inr ⟨rfl, hset _ ha⟩, fun hp => ⟨hp, rfl⟩, fun ha => ⟨ha, rfl⟩⟩
    · exact .refl h

/-! ### Writes through the management port -/

theorem Fuses.writeReg_keeps (b : Block) (a v : Nat) : f.Keeps (b.writeReg f a v).2.1 := by
  unfold Block.writeReg
  split
  · exact Fuses.program_keeps h v b.now
  split
  · exact ⟨h, fun hp => ⟨hp, rfl⟩, fun ha => ⟨ha, rfl⟩⟩
  split
  · exact .refl h
  split
  · exact .refl h
  · exact .refl h

end

theorem WBurst.one_keeps {w : WBurst} (h : w.fz.sound) (a v : Nat) : w.fz.Keeps (w.one a v).fz := by
  unfold WBurst.one
  split
  · exact .refl h
  · split
    · exact .refl h
    · exact Fuses.writeReg_keeps h w.blk a v

/-- A burst keeps what is set, register by register. -/
theorem WBurst.burst_keeps (data : List Byte) (qs : List (Nat × Nat)) {w : WBurst} (h : w.fz.sound) :
    w.fz.Keeps (qs.foldl (fun w q => w.one q.1 (field data (4 * q.2) 4)) w).fz := by
  induction qs generalizing w with
  | nil => exact .refl h
  | cons q qs ih =>
    have hq := WBurst.one_keeps h q.1 (field data (4 * q.2) 4)
    exact hq.trans (ih hq.sound)

theorem Fuses.mspWrite_keeps {f : Fuses} (h : f.sound) (b : Block) (a : Nat) (data : List Byte) (early : Bool) :
    f.Keeps (b.mspWrite f a data early).2 := by
  simp only [Block.mspWrite]
  split
  · exact .refl h
  split
  · exact .refl h
  split
  · split
    · exact .refl h
    · exact .refl h
  · exact WBurst.burst_keeps data _ (w := ⟨b.mspBegin, f, 0⟩) h

/-! ### Commands and idle steps -/

/-- The outcome, where it is a next state, keeps what is set in the fuses of `s`. -/
def KeepsFuses (s : State) (o : Out) : Prop := ∀ t, o = .next t → s.fuses.Keeps t.fuses

theorem KeepsFuses.actFuses {s : State} {f : Block → Fuses → Block × Fuses} (hf : s.fuses.Keeps (f s.block s.fuses).2) :
    KeepsFuses s (s.actFuses f) := by
  intro t ht
  cases ht
  exact hf

section
variable {s : State} (h : s.fuses.sound)
include h

theorem KeepsFuses.mspWrite (a : Nat) (data : List Byte) (early : Bool) : KeepsFuses s (s.mspWrite a data early) := by
  refine KeepsFuses.actFuses ?_
  split
  · exact .refl h
  · exact Fuses.mspWrite_keeps h _ a data early

theorem KeepsFuses.kettleReset (powerOn : Bool) : KeepsFuses s (s.kettleReset powerOn) := KeepsFuses.actFuses (Fuses.cut_keeps h _)

theorem KeepsFuses.fuseBurnComplete : KeepsFuses s (execFuseBurnComplete s) := KeepsFuses.actFuses (Fuses.burnt_keeps h)

/-- Every command keeps what is set: the register writes, the end of a burn and the Kettle resets, and the others because they leave the fuses. -/
theorem KeepsFuses.exec (i : Instr) : KeepsFuses s (exec i s) := by
  cases i
  case ctrlRequestWithdraw t => cases t <;> exact KeepsFuses.mspWrite h _ _ _
  case mspWrite | registerWrite | fuseBurnPassword | fuseBurnAnchor | cmbReleaseRequest | cmbReturnRequest | lnkTakeOutRequest |
      lnkBringBackRequest | prtLinkWeightWrite | prtCollTimeoutWrite | pwrCombCfgWrite | pwrLnkCfgWrite | pwrRstReq | evlAckWrite | evlSelWrite |
      nvmCtrlWrite | hbmScrubHoursWrite | lnkRelayWeightWrite =>
    simp only [Machine.exec, execMspWrite, execRegisterWrite, execFuseBurnPassword, execFuseBurnAnchor, execCmbReleaseRequest,
      execCmbReturnRequest, execLnkTakeOutRequest, execLnkBringBackRequest, execPrtLinkWeightWrite, execPrtCollTimeoutWrite, execPwrCombCfgWrite,
      execPwrLnkCfgWrite, execPwrRstReq, execEvlAckWrite, execEvlSelWrite, execNvmCtrlWrite, execHbmScrubHoursWrite, execLnkRelayWeightWrite,
      State.regWrite]
    exact KeepsFuses.mspWrite h _ _ _
  case kettlePowerOn | kettleSelfWatchdog =>
    simp only [Machine.exec, execKettlePowerOn, execKettleSelfWatchdog]
    exact KeepsFuses.kettleReset h _
  case fuseBurnComplete => exact KeepsFuses.fuseBurnComplete h
  all_goals
    intro t ht
    rw [exec_fuses _ s t rfl ht]
    exact .refl h

theorem Fuses.fire_keeps (d : Due) : s.fuses.Keeps (s.fire d).fuses := by
  cases d <;> simp only [State.fire]
  case burn => exact Fuses.burnt_keeps h
  all_goals exact .refl h

end

theorem Fuses.fires_keep {t : State} (h : t.fuses.sound) (ds : List Due) :
    t.fuses.Keeps (ds.foldl (fun (x : State) d => if x.isDue d then x.fire d else x) t).fuses := by
  induction ds generalizing t with
  | nil => exact .refl h
  | cons d ds ih =>
    rw [List.foldl_cons]
    split
    · have hd := Fuses.fire_keeps h d
      exact hd.trans (ih hd.sound)
    · exact ih h

theorem Fuses.idle_keeps {s : State} (h : s.fuses.sound) : s.fuses.Keeps s.idle.fuses := by
  simp only [State.idle, State.clock]
  exact Fuses.fires_keep (t := { s with block := s.block.tick }) h _

/-- Settles O5: every command and every thing that a KT brings keeps the fuses sound and what is set in them (R371, R372, R395). -/
theorem setFusesNeverChange : Obligations.SetFusesNeverChange := by
  unfold Obligations.SetFusesNeverChange
  intro s t hs hstep
  have hkeeps : s.fuses.Keeps t.fuses := by
    cases hq : s.pending with
    | nil =>
      rw [step_nil s hq, Host.Outcome.next.injEq] at hstep
      rw [← hstep]
      exact Fuses.idle_keeps hs
    | cons c rest =>
      rw [step_cons s c rest hq] at hstep
      have hrest : (s.withPending rest).fuses.sound := by rw [State.withPending_fuses]; exact hs
      exact KeepsFuses.exec hrest c t hstep
  obtain ⟨hsound, hpwd, hanchor⟩ := hkeeps
  exact ⟨hsound, hpwd, hanchor⟩

end Sys2Proof.Machine
end

/-! PROOF. The queue and the whole machine: the front command, every command's answer, reset, and the idle KT. -/
section
namespace Sys2Proof.Machine
open Sys2Proof

/-- Settles O1: the step is by the front of the queue. -/
theorem stepRunsFrontCommand : Obligations.StepRunsFrontCommand := by
  unfold Obligations.StepRunsFrontCommand
  exact fun s c rest h => step_cons s c rest h

theorem ExecShape.keeps_pending {s : State} {o : Out} (h : ExecShape s o) : ∃ t, o = .next t ∧ t.pending = s.pending := by
  cases h <;> exact ⟨_, rfl, rfl⟩

/-- Settles O3: each of the three shapes of a meaning is a next state with the queue of the state before. -/
theorem everyCommandAnswersAndKeepsTheQueue : Obligations.EveryCommandAnswersAndKeepsTheQueue := by
  unfold Obligations.EveryCommandAnswersAndKeepsTheQueue
  exact fun c s => (exec_execShape c s).keeps_pending

/-! ### Reset -/

theorem State.reset_bufs (c : CombId) : State.reset.bufs[c] = [] := by simp [State.reset]

/-- Settles O6: each value as the reset state lists it, the same for every comb, link and dimension. -/
theorem resetState : Obligations.ResetState := by
  unfold Obligations.ResetState
  refine ⟨rfl, Fuses.sound_of_idle rfl, State.reset_bufs, fun c => ?_, rfl, rfl, rfl, ?_, ?_, ?_, ?_, ?_⟩
  · rw [State.reset_bufs]; rfl
  · intro c; simp [State.reset, Block.reset, Mirrors.reset]; decide
  · intro c; simp [State.reset, Block.reset, Mirrors.reset]; decide
  · intro c; simp [State.reset, Block.reset, Mirrors.reset]; decide
  · intro c; simp [State.reset, Block.reset, Block.link]; rfl
  · intro c; rfl

/-! ### The idle KT -/

/-- An open session that was used in KT 0, at KT 0. -/
def State.openedAtReset : State := { State.reset with block := { State.reset.block with msp := { State.reset.block.msp with session := true } } }

/-- Refutes O2: its clause about the session's end holds where the end is due, but is stated for every state; in a state whose open session still
has idle time left, the end that `State.fire` makes happen also moves the KT counter on to the end of that time. -/
theorem not_idleStepPassesOneKt : ¬ Obligations.IdleStepPassesOneKt := by
  unfold Obligations.IdleStepPassesOneKt
  rintro ⟨-, h⟩
  obtain ⟨-, -, ⟨-, -, hfire⟩, -⟩ := h State.openedAtReset
  have hkt : (State.openedAtReset.fire .session).block.kettle.kt = 250000000 := rfl
  rw [hfire] at hkt
  exact absurd (show (0 : Nat) = 250000000 from hkt) (by decide)

end Sys2Proof.Machine
end

/-! PROOF. Instructions of the sequencer alone (R265, R275, R277, R290): one that issues and need not wait changes the registers named and the pc;
none issues once the step has met an abort. -/
section
namespace Sys2Proof.Machine
open Sys2Proof

/-! ### Abort (R265) -/

theorem Block.mayIssue_eq_false_of_abort {b : Block} {c : CombId} {p : PartId} {r : StepRun} (hs : b.stepOf c = some (p, r))
    (ha : r.abort.isSome = true) : b.mayIssue c = false := by
  have hnone : r.abort.isNone = false := by rw [← Option.not_isSome, ha]; rfl
  simp [Block.mayIssue, hs, hnone]

theorem exec_fence_of_not_mayIssue {c : CombId} {s : State} (h : s.block.mayIssue c = false) : exec (.fence c) s = .next s := by
  simp [exec, execFence, h]

theorem exec_loop_of_not_mayIssue {c : CombId} (k : LReg) (target : BitVec 15) {s : State} (h : s.block.mayIssue c = false) :
    exec (.loop c k target) s = .next s := by
  simp [exec, execLoop, h]

theorem exec_predicated_of_not_mayIssue {i : Instr} {c : CombId} {s : State} (hi : i.predicated.map Prod.fst = some c)
    (h : s.block.mayIssue c = false) : exec i s = .next s := by
  obtain ⟨⟨c', p⟩, hp, rfl⟩ := Option.map_eq_some_iff.1 hi
  exact (exec_issueShape hp s).eq_self (by simp [Block.mayTake, h])

/-- Settles O9: an abort met stops the issue, and no Brew instruction has an effect without it (R265). -/
theorem abortedStepIssuesNothing : Obligations.AbortedStepIssuesNothing := by
  unfold Obligations.AbortedStepIssuesNothing
  intro i c p r s hi hs ha
  have hmay := Block.mayIssue_eq_false_of_abort hs ha
  cases i
  case fence => cases hi; exact exec_fence_of_not_mayIssue hmay
  case loop => cases hi; exact exec_loop_of_not_mayIssue _ _ hmay
  all_goals exact exec_predicated_of_not_mayIssue hi hmay

/-! ### Scalars (R290) -/

theorem Scal.exWith_eq_none_iff (f : SFn) (a b : Scal) : Scal.exWith f a b = none ↔ a.ex = none ∧ b.ex = none := by
  unfold Scal.exWith
  split
  case isTrue h => simpa using h
  case isFalse h => simpa using h

section
variable {s : State} {c : CombId} {p : Pr} {sd sa : SReg} {x : SrcB} (h : s.block.issues c p = true) (hsa : (s.block.seq c).pend sa = false)
  (hsd : (s.block.seq c).pend sd = false)
include h hsa hsd

theorem State.scalarInt_of_issues (f : SFn) (hx : (s.block.seq c).srcPend x = false) :
    s.scalarInt c p sd sa x f = .next (s.seqAfter c (fun q => { q with
      s := q.s.set sd ⟨f.eval (q.s[sa]).v (q.srcInt x).v, false, Scal.exWith f q.s[sa] (q.srcInt x)⟩, pc := q.pc + 1 })) :=
  State.issueSeq_of_issues h (by simp [hsa, hx, hsd])

theorem State.scalarF32_of_issues (f : SFn) (hx : (s.block.seq c).srcPend x = false) :
    s.scalarF32 c p sd sa x f = .next (s.seqAfter c (fun q => { q with
      s := q.s.set sd ⟨f.eval (q.s[sa]).v (q.srcF32 x).v, false, Scal.exWith f q.s[sa] (q.srcF32 x)⟩, pc := q.pc + 1 })) :=
  State.issueSeq_of_issues h (by simp [hsa, hx, hsd])

theorem State.scalar1_of_issues (f : SFn) :
    s.scalar1 c p sd sa f = .next (s.seqAfter c (fun q => { q with
      s := q.s.set sd ⟨f.eval (q.s[sa]).v 0, false, Scal.exWith f q.s[sa] ⟨0, false, none⟩⟩, pc := q.pc + 1 })) :=
  State.issueSeq_of_issues h (by simp [hsa, hsd])

end

theorem SFn.eval_high (imm : BitVec 32) (a b : DWord) : (SFn.high imm).eval a b = imm ++ BitVec.setWidth 32 a := by
  apply BitVec.eq_of_toNat_eq
  rw [BitVec.toNat_append, BitVec.toNat_setWidth, ← Nat.shiftLeft_add_eq_or_of_lt (Nat.mod_lt _ (by decide)), Nat.shiftLeft_eq]
  simp only [SFn.eval, BitVec.toNat_ofNat]
  omega

/-- Settles O10: each instruction is one of the shapes of a scalar instruction with the function named (R290). -/
theorem integerScalarResults : Obligations.IntegerScalarResults := by
  unfold Obligations.IntegerScalarResults
  refine ⟨fun q r v => ⟨rfl, rfl⟩, Scal.exWith_eq_none_iff, ?_, ?_, ?_⟩
  · simp only [List.forall_mem_cons, List.not_mem_nil, false_implies, implies_true, and_true]
    refine ⟨?_, ?_, ?_, ?_, ?_, ?_, ?_, ?_, ?_, ?_⟩
    all_goals exact fun c p sd sa x s h hsa hx hsd => State.scalarInt_of_issues h hsa hsd _ hx
  · exact fun c p sd sa s h hsa hsd => State.scalar1_of_issues h hsa hsd .mov
  · intro c p sd imm s h hsd
    refine ⟨State.issueSeq_of_issues h hsd, ?_⟩
    refine (State.scalar1_of_issues h hsd hsd (.high imm)).trans ?_
    simp only [SFn.eval_high]

/-! ### Floats (R290) -/

theorem ofF32_eq_append (w : Word) : ofF32 w = 0#32 ++ w := (BitVec.setWidth_eq_append (by decide)).trans rfl

theorem onF32_eq_append (f : Word → Word → Word) (a b : DWord) : onF32 f a b = 0#32 ++ f (BitVec.setWidth 32 a) (BitVec.setWidth 32 b) := by
  rw [onF32, ofF32_eq_append, low32_eq_setWidth, low32_eq_setWidth]

theorem ofNat_codeOf (i : Int) : BitVec.ofNat 64 (codeOf 64 i) = BitVec.ofInt 64 i := by
  apply BitVec.eq_of_toNat_eq
  rw [BitVec.toNat_ofNat, BitVec.toNat_ofInt, codeOf]
  omega

/-- FCVTI: rounded to nearest even, saturated symmetrically, NaN as 0. -/
theorem ofNat_toIntCode (v : FVal) : BitVec.ofNat 64 (toIntCode 64 0 v).code = BitVec.ofInt 64 (match v with
    | .nan => 0
    | .inf n => if n then -(2 ^ 63 - 1) else 2 ^ 63 - 1
    | .fin n m => if n then -(Nat.min (rne m (2 ^ 149)) (2 ^ 63 - 1)) else Nat.min (rne m (2 ^ 149)) (2 ^ 63 - 1)) := by
  cases v with
  | nan => rfl
  | inf n => cases n <;> decide
  | fin n m =>
    rw [← ofNat_codeOf]
    cases n <;> rfl

theorem SFn.eval_fcvti (a b : DWord) : SFn.fcvti.eval a b = BitVec.ofInt 64 (match f32Val (BitVec.setWidth 32 a) with
    | .nan => 0
    | .inf n => if n then -(2 ^ 63 - 1) else 2 ^ 63 - 1
    | .fin n m => if n then -(Nat.min (rne m (2 ^ 149)) (2 ^ 63 - 1)) else Nat.min (rne m (2 ^ 149)) (2 ^ 63 - 1)) :=
  ofNat_toIntCode _

theorem Seqr.srcF32_imm (q : Seqr) (v : BitVec 32) : q.srcF32 (.imm v) = ⟨0#32 ++ v, false, none⟩ := by
  simp only [Seqr.srcF32, Scal.capped, ofF32_eq_append]

/-- Settles O11: each instruction is one of the shapes of a scalar instruction, its function on bits [31:0] (R290). -/
theorem floatScalarResults : Obligations.FloatScalarResults := by
  unfold Obligations.FloatScalarResults
  refine ⟨fun q r v => ⟨rfl, q.srcF32_imm v⟩, ?_, fun c p sd sa s h hsa hsd => ⟨?_, ?_, ?_⟩⟩
  · simp only [List.forall_mem_cons, List.not_mem_nil, false_implies, implies_true, and_true, ← onF32_eq_append]
    refine ⟨?_, ?_, ?_, ?_, ?_, ?_⟩
    all_goals exact fun c p sd sa x s h hsa hx hsd => State.scalarF32_of_issues h hsa hsd _ hx
  · simp only [← ofF32_eq_append]
    exact State.scalar1_of_issues h hsa hsd .fsqrt
  · simp only [← ofF32_eq_append]
    exact State.scalar1_of_issues h hsa hsd .icvtf
  · refine (State.scalar1_of_issues h hsa hsd .fcvti).trans ?_
    simp only [SFn.eval_fcvti] <;> rfl

/-! ### Control flow (R275) -/

/-- BR goes to its target. -/
theorem exec_br_of_issues {c : CombId} {p : Pr} (target : BitVec 15) {s : State} (h : s.block.issues c p = true) :
    exec (.br c p target) s = .next (s.seqAfter c (fun q => { q with pc := target })) := by
  simp only [Block.issues, Bool.and_eq_true] at h
  obtain ⟨htake, htakes⟩ := h
  have hbr : s.block.modIssue c (fun q => if q.takes p then { q with pc := target } else q.next) =
      s.block.modIssue c (fun q => { q with pc := target }) := modIssue_congr _ _ _ _ (by simp [htakes])
  simp [exec, execBr, htake, hbr, State.seqAfter]

section
variable {c : CombId} (k : LReg) (target : BitVec 15) {s : State} (h : s.block.mayIssue c = true)
include h

/-- LOOP above 1 goes back and counts down. -/
theorem exec_loop_back (hl : 1 < ((s.block.seq c).l[k]).toNat) :
    exec (.loop c k target) s = .next (s.seqAfter c (fun q => { q with l := q.l.set k (q.l[k] - 1), pc := target })) := by
  simp only [exec, execLoop, State.act_next, h, if_true, finish_modIssue, State.seqAfter]
  rw [modIssue_congr _ _ _ (fun q => { q with l := q.l.set k (q.l[k] - 1), pc := target })]
  exact if_pos hl

/-- LOOP at 1 or 0 falls through with 0. -/
theorem exec_loop_through (hl : ((s.block.seq c).l[k]).toNat ≤ 1) :
    exec (.loop c k target) s = .next (s.seqAfter c (fun q => { q with l := q.l.set k 0, pc := q.pc + 1 })) := by
  simp only [exec, execLoop, State.act_next, h, if_true, finish_modIssue, State.seqAfter]
  rw [modIssue_congr _ _ _ (fun q => { q with l := q.l.set k 0, pc := q.pc + 1 })]
  exact if_neg (by omega)

end

/-- Settles O13: the words by their fields; NOP, LSET and BR as instructions that issue; LOOP by its register (R269 to R272, R275). -/
theorem controlFlow : Obligations.ControlFlow := by
  unfold Obligations.ControlFlow
  refine ⟨fun c x => ⟨rfl, rfl, rfl, rfl⟩, fun c s => ⟨fun p h => ⟨?_, fun t => exec_br_of_issues t h, fun k v => ?_, fun k r hp hx => ?_⟩,
    fun k t h => ⟨exec_loop_back k t h, exec_loop_through k t h⟩⟩⟩
  · exact State.issueSeq_of_issues h rfl
  · exact State.issueSeq_of_issues h rfl
  · have hopen : (s.block.seq c).isOpen r = false := by rw [Seqr.isOpen, hp, hx]; rfl
    exact State.issueSeq_of_issues h hopen

/-! ### Descriptors (R255, R276, R277) -/

theorem PartImage.tdOf_eq_ite (i : PartImage) (t : Nat) : i.tdOf t = if t < i.tensors.length then
    { rowlen := if (i.entry t).method = .lowrank then (i.entry t).b else 0, region := 0, view := false, method := (i.entry t).method.code
      rfmt := (i.entry t).rfmt.code, xfmt := (i.entry t).xfmt.code, tensor := t, base := 0, n := (i.entry t).n } else Td.null := by
  by_cases h : t < i.tensors.length
  · rw [if_pos h]
    exact if_neg (Nat.not_le.mpr h)
  · rw [if_neg h]
    exact if_pos (Nat.not_lt.mp h)

theorem PartImage.tview_of_null (i : PartImage) (q : Seqr) {d : Td} (h : d.region = 15) (m : TviewMode) : i.tview q d m = Td.null := by
  simp [PartImage.tview, Td.isNull, h]

section
variable (i : PartImage) (q : Seqr) {d : Td} (h : d.region ≠ 15)
include h

theorem PartImage.tview_rowlen (v : BitVec 16) : i.tview q d (.rowlen v) = { d with rowlen := v.toNat } := by
  simp [PartImage.tview, Td.isNull, h]

theorem PartImage.tview_region (g : BitVec 4) {x : Nat} (hx : (i.entry d.tensor).extentOf g.toNat = some x) :
    i.tview q d (.region g) = { d with region := g.toNat, base := 0, n := x, view := false } := by
  simp [PartImage.tview, Td.isNull, h, hx]

theorem PartImage.tview_region_unavailable (g : BitVec 4) (hx : (i.entry d.tensor).extentOf g.toNat = none) :
    i.tview q d (.region g) = Td.null := by
  simp [PartImage.tview, Td.isNull, h, hx]

theorem PartImage.tview_range (r : SReg) (n : BitVec 32) {x : Nat} (hx : (i.entry d.tensor).extentOf d.region = some x) :
    i.tview q d (.range r n) = if (q.s[r]).v.toNat % 2 ^ 32 % 256 = 0 ∧ (q.s[r]).v.toNat % 2 ^ 32 < x ∧ n ≠ 0 then
      { d with base := (q.s[r]).v.toNat % 2 ^ 32, n := Nat.min n.toNat (x - (q.s[r]).v.toNat % 2 ^ 32), view := true } else Td.null := by
  have hn : n.toNat = 0 ↔ n = 0 := BitVec.toNat_eq (y := 0).symm
  have hcond : ((q.s[r]).v.toNat % 2 ^ 32 % 256 = 0 ∧ (q.s[r]).v.toNat % 2 ^ 32 < x ∧ n ≠ 0) ↔
      ¬((q.s[r]).v.toNat % 2 ^ 32 % 256 ≠ 0 ∨ x ≤ (q.s[r]).v.toNat % 2 ^ 32 ∨ n.toNat = 0) := by
    simp only [not_or, Classical.not_not, Nat.not_le, hn, ne_eq]
  simp only [PartImage.tview, Td.isNull, beq_iff_eq, h, if_false, hx, Seqr.sreg]
  exact (ite_not _ _ _).symm.trans (ite_congr (propext hcond.symm) (fun _ => rfl) (fun _ => rfl))

end

/-- An instruction that reads the block for what it does to the sequencer, and issues and need not wait. -/
theorem State.act_issue_of_issues {s : State} {c : CombId} {p : Pr} {w : Seqr → Bool} (f : Block → Seqr → Seqr) (h : s.block.issues c p = true)
    (hw : w (s.block.seq c) = false) :
    s.act (fun b => b.issue c p w (fun b => b.modSeq c (f b))) = .next (s.seqAfter c (fun q => (f s.block q).next)) := by
  simp [State.seqAfter, Block.issue_of_issues _ _ _ _ _ h hw, modSeq_modIssue]

/-- Settles O14: the four as instructions of the sequencer alone; the descriptors they make case by case (R276, R277). -/
theorem descriptorInstructions : Obligations.DescriptorInstructions := by
  unfold Obligations.DescriptorInstructions
  refine ⟨fun c p s h => ⟨fun td idx => ?_, fun td sb hsb => ?_, fun td src m hm => ?_, fun sd td sel hsd => ?_⟩, fun _ _ => rfl,
    PartImage.tdOf_eq_ite, fun i q d => ⟨fun h m => i.tview_of_null q h m, fun h v => i.tview_rowlen q h v, fun h g x hx => i.tview_region q h g hx,
    fun h g hx => i.tview_region_unavailable q h g hx,
    fun h r n x hx => i.tview_range q h r n hx⟩, fun i d h => ?_, fun i d sel h => ?_⟩
  · exact State.act_issue_of_issues (fun b q => q.setTd td ((b.imageOf c).tdOf idx.toNat)) h rfl
  · exact State.act_issue_of_issues (fun b q => q.setTd td ((b.imageOf c).tdOf (q.sreg sb).toNat)) h hsb
  · refine State.act_issue_of_issues (fun b q => q.setTd td ((b.imageOf c).tview q (q.tdr src) m)) h ?_
    cases m with
    | range r n => exact hm r n rfl
    | rowlen => rfl
    | region => rfl
  · exact State.act_issue_of_issues (fun b q => q.setS sd (BitVec.ofNat 64 ((b.imageOf c).tinfo (q.tdr td) sel))) h hsd
  · simp [PartImage.tinfo, Td.isNull, h]
  · exact (if_pos (beq_iff_eq.mpr h)).trans (ite_congr (propext (Fin.ext_iff (b := 7)).symm) (fun _ => rfl) (fun _ => rfl))

end Sys2Proof.Machine
end

/-! PROOF. Elements of a comb buffer (R276): four bytes each, in the byte order of R7; stored elements read back, and a store leaves every byte outside
them. Then what a destination view receives (R276, R283, R289). -/
section
namespace Sys2Proof.Machine
open Sys2Proof

/-! ### Byte order (R7) -/

theorem leNat_leBytes (k n : Nat) : leNat (leBytes k n) = n % 256 ^ k := by
  induction k generalizing n with
  | zero => simp [leBytes, leNat, Nat.mod_one]
  | succ k ih =>
    have hsplit : n % 256 ^ (k + 1) = n % 256 + 256 * (n / 256 % 256 ^ k) := by rw [Nat.pow_succ, Nat.mul_comm, Nat.mod_mul]
    rw [leBytes, leNat, ih, byteOf, BitVec.toNat_ofNat, hsplit]

@[simp] theorem length_leBytes (k n : Nat) : (leBytes k n).length = k := by
  induction k generalizing n with
  | zero => rfl
  | succ k ih => simp [leBytes, ih]

/-! ### Bytes and elements -/

section
variable {m : Mem} (hm : Memory.wf (some 0) m = true)
include hm

theorem Mem.bytes_store_same (a : Nat) (vs : List Byte) : Mem.bytes (some 0) (Mem.store (some 0) m a vs) a vs.length = vs := by
  apply List.ext_getElem
  · simp [Mem.bytes]
  · intro i _ hi
    simp only [Mem.bytes, List.getElem_map, List.getElem_range]
    rw [Mem.read_store_in (some 0) i vs m a hm hi, Option.getD_some]

theorem Mem.word_setWord_same (i : Nat) (v : Word) : (m.setWord i v).word i = v := by
  have hlen : (leBytes 4 v.toNat).length = 4 := length_leBytes 4 v.toNat
  have hbytes := Mem.bytes_store_same hm (4 * i) (leBytes 4 v.toNat)
  rw [hlen] at hbytes
  apply BitVec.eq_of_toNat_eq
  rw [Mem.word, Mem.setWord, hbytes, leNat_leBytes, BitVec.toNat_ofNat]
  have hv := v.isLt
  omega

theorem Mem.read_setWord_out (i : Nat) (v : Word) {a : Nat} (ha : a < 4 * i ∨ 4 * (i + 1) ≤ a) :
    Mem.read (some 0) (m.setWord i v) a = Mem.read (some 0) m a :=
  Mem.read_store_out (some 0) a _ m (4 * i) hm (by rw [length_leBytes]; omega)

end

theorem Mem.read_setWords_out (ws : List Word) {m : Mem} (hm : Memory.wf (some 0) m = true) (i : Nat) {a : Nat}
    (ha : a < 4 * i ∨ 4 * (i + ws.length) ≤ a) : Mem.read (some 0) (m.setWords i ws) a = Mem.read (some 0) m a := by
  induction ws generalizing m i with
  | nil => rfl
  | cons w ws ih =>
    rw [List.length_cons] at ha
    rw [Mem.setWords, ih (Memory.wf_setWord m i w hm) (i + 1) (by omega), Mem.read_setWord_out hm i w (by omega)]

/-- An element is by its four bytes. -/
theorem Mem.word_congr {m n : Mem} (i : Nat) (h : ∀ k, k < 4 → Mem.read (some 0) m (4 * i + k) = Mem.read (some 0) n (4 * i + k)) :
    m.word i = n.word i := by
  have hbytes : Mem.bytes (some 0) m (4 * i) 4 = Mem.bytes (some 0) n (4 * i) 4 :=
    List.map_congr_left (fun k hk => by rw [h k (List.mem_range.1 hk)])
  rw [Mem.word, Mem.word, hbytes]

theorem Mem.word_setWords (ws : List Word) {m : Mem} (hm : Memory.wf (some 0) m = true) (i k : Nat) (hk : k < ws.length) :
    (m.setWords i ws).word (i + k) = ws[k] := by
  induction ws generalizing m i k with
  | nil => exact absurd hk (Nat.not_lt_zero k)
  | cons w ws ih =>
    have hw := Memory.wf_setWord m i w hm
    cases k with
    | zero =>
      have hfirst : ((m.setWord i w).setWords (i + 1) ws).word i = (m.setWord i w).word i :=
        Mem.word_congr i (fun j hj => Mem.read_setWords_out ws hw (i + 1) (by omega))
      exact hfirst.trans (Mem.word_setWord_same hm i w)
    | succ k =>
      have hlt : k < ws.length := Nat.lt_of_succ_lt_succ hk
      have hrest := ih hw (i + 1) k hlt
      rw [show i + 1 + k = i + (k + 1) by omega] at hrest
      exact hrest

/-- Settles O15: the elements stored read back one by one, and a store of elements touches their bytes alone (R276). -/
theorem combBufferElementStores : Obligations.CombBufferElementStores := by
  unfold Obligations.CombBufferElementStores
  exact fun m i ws hm => ⟨fun k hk => Mem.word_setWords ws hm i k hk, fun a ha => Mem.read_setWords_out ws hm i ha⟩

/-! ### Destination views -/

/-- Settles O16: the three cases of `Block.putConvs`, each after the saturations are counted (R276, R283, R289). -/
theorem destinationViewWrites : Obligations.DestinationViewWrites := by
  unfold Obligations.DestinationViewWrites
  intro b m c p d o cs
  refine ⟨fun h => ?_, fun h hr => ?_, fun h hr => ?_⟩
  · simp only [Block.putConvs, h, if_true]; rfl
  · have hr' : (((b.count c (fun x => { x with qntSat := wrapAdd x.qntSat (cs.filter Conv.sat).length })).image p).entry d.tensor).rRole = true := hr
    simp only [Block.putConvs, h, hr']; rfl
  · have hr' : (((b.count c (fun x => { x with qntSat := wrapAdd x.qntSat (cs.filter Conv.sat).length })).image p).entry d.tensor).rRole = false := hr
    simp only [Block.putConvs, h, hr']; rfl

end Sys2Proof.Machine
end

/-! PROOF. The operations of the Infuser (R276, R282 to R289): one that issues behind no other and waits for nothing runs at once, so that the state after
it is what the operation makes of the block and the buffer. -/
section
namespace Sys2Proof.Machine
open Sys2Proof

/-! ### An operation that runs at once -/

theorem Block.infFull_eq_false {b : Block} {c : CombId} (ho : (b.comb c).ops = []) (hp : (b.comb c).prods = []) : b.infFull c = false := by
  simp [Block.infFull, ho, hp]

section
variable {s : State} {c : CombId} {p : Pr} {w : Block → Seqr → Bool} {op : Seqr → InfOp} {pt : PartId} {r : StepRun}
  (h : s.block.issues c p = true) (hw : w s.block (s.block.seq c) = false) (hs : s.block.stepOf c = some (pt, r)) (ho : (s.block.comb c).ops = [])
  (hr : s.block.opWaits c pt r (op (s.block.seq c)) = false)
include h hw hs ho hr

theorem State.actBuf_issueOp_runs {w' : Block × Mem} (hop : s.block.runOp s.bufs[c] c pt r (op (s.block.seq c)) = w') :
    s.actBuf c (fun b m => b.issueOp m c p (w b) op) = .next ((s.afterInstr c w'.1).withBuf c w'.2) := by
  subst hop
  simp only [State.actBuf, State.actBufs_next, Block.issueOp_runs _ _ _ _ _ _ pt r h hw hs ho hr]
  rfl

end

theorem State.afterInstr_withBuf_self (s : State) (c : CombId) (b : Block) : (s.afterInstr c b).withBuf c s.bufs[c] = s.afterInstr c b := by
  simp [State.withBuf, State.afterInstr, State.onBlock]

theorem State.afterInstr_self (s : State) (c : CombId) : s.afterInstr c s.block = s.seqAfter c (fun q => { q with pc := q.pc + 1 }) := by
  simp [State.afterInstr, State.onBlock, State.seqAfter]

section
variable {s : State} {c : CombId} {p : Pr} {w : Block → Seqr → Bool} {op : Seqr → InfOp} {pt : PartId} {r : StepRun}
  (h : s.block.issues c p = true) (hw : w s.block (s.block.seq c) = false) (hs : s.block.stepOf c = some (pt, r)) (ho : (s.block.comb c).ops = [])
  (hr : s.block.opWaits c pt r (op (s.block.seq c)) = false)
include h hw hs ho hr

/-- An operation that leaves block and buffer moves the pc alone. -/
theorem State.actBuf_issueOp_retires (hop : s.block.runOp s.bufs[c] c pt r (op (s.block.seq c)) = (s.block, s.bufs[c])) :
    s.actBuf c (fun b m => b.issueOp m c p (w b) op) = .next (s.seqAfter c (fun q => { q with pc := q.pc + 1 })) := by
  rw [State.actBuf_issueOp_runs h hw hs ho hr hop, State.afterInstr_withBuf_self, State.afterInstr_self]

/-- An operation that leaves the buffer. -/
theorem State.actBuf_issueOp_block {b1 : Block} (hop : s.block.runOp s.bufs[c] c pt r (op (s.block.seq c)) = (b1, s.bufs[c])) :
    s.actBuf c (fun b m => b.issueOp m c p (w b) op) = .next (s.afterInstr c b1) := by
  rw [State.actBuf_issueOp_runs h hw hs ho hr hop, State.afterInstr_withBuf_self]

end

/-! ### TCOPY and ORTH (R288, R289) -/

theorem Td.writable_iff (d : Td) : d.writable = true ↔ d.region = 1 ∨ d.region = 4 := by simp [Td.writable]

section
variable {b : Block} {m : Mem} {c : CombId} {pt : PartId} {r : StepRun} {dst src : Td} {rd : HostRead} {errs : List MemErr}

theorem Block.tcopy_of_retires (h : src.region = 15 ∨ (dst.region ≠ 1 ∧ dst.region ≠ 4) ∨ (b.viewFmt pt src = .s8 ∧ b.viewFmt pt dst ≠ .s8)) :
    b.tcopy m c pt r dst src rd errs = (b, m) := by
  have hret : src.isNull = true ∨ (!dst.writable) = true ∨ (b.viewFmt pt src = .s8 ∧ b.viewFmt pt dst ≠ .s8) := by
    simpa [Td.isNull, Td.writable] using h
  simp only [Block.tcopy, if_pos hret]

theorem Block.orth_of_retires (h : src.region = 15 ∨ (dst.region ≠ 1 ∧ dst.region ≠ 4) ∨ src.rowlen = 0 ∨ 64 < src.rowlen) :
    b.orth m c pt r dst src rd errs = (b, m) := by
  have hret : src.isNull = true ∨ (!dst.writable) = true ∨ src.rowlen = 0 ∨ 64 < src.rowlen := by
    simpa [Td.isNull, Td.writable] using h
  simp only [Block.orth, if_pos hret]

section
variable (hsrc : src.region ≠ 15) (hdst : dst.region = 1 ∨ dst.region = 4)
include hsrc hdst

section
variable (hfmt : ¬(b.viewFmt pt src = .s8 ∧ b.viewFmt pt dst ≠ .s8))
include hfmt

theorem Block.not_tcopyRetires : ¬(src.isNull = true ∨ (!dst.writable) = true ∨ (b.viewFmt pt src = .s8 ∧ b.viewFmt pt dst ≠ .s8)) := by
  have hw := (Td.writable_iff dst).2 hdst
  simpa [Td.isNull, hsrc, hw] using hfmt

theorem Block.tcopy_of_failed {b1 : Block} (ha : b.readAll pt r [(src, rd)] errs = (b1, false)) :
    b.tcopy m c pt r dst src rd errs = (b1, m) := by
  simp only [Block.tcopy, if_neg (Block.not_tcopyRetires hsrc hdst hfmt), ha, Bool.not_false, if_true]

theorem Block.tcopy_of_read {b1 : Block} (ha : b.readAll pt r [(src, rd)] errs = (b1, true)) :
    b.tcopy m c pt r dst src rd errs =
      if src.region = 4 ∧ dst.region = 4 then (b1, copyAscending m src.base dst.base (Nat.min src.n dst.n) 0)
      else b1.putConvs m c pt dst 0 (((b1.viewVals m pt r src rd).take (Nat.min src.n dst.n)).map (fun x =>
        if b.viewFmt pt src = .s8 then ⟨(toIntCode 9 0 (f32Val x)).code % 256, false⟩ else toResult (b.viewFmt pt dst) (f32Val x))) := by
  simp only [Block.tcopy, if_neg (Block.not_tcopyRetires hsrc hdst hfmt), ha, Bool.not_true, Bool.false_eq_true, if_false]

end

section
variable (h1 : 1 ≤ src.rowlen) (h64 : src.rowlen ≤ 64)
include h1 h64

theorem Block.not_orthRetires : ¬(src.isNull = true ∨ (!dst.writable) = true ∨ src.rowlen = 0 ∨ 64 < src.rowlen) := by
  have hw := (Td.writable_iff dst).2 hdst
  simp only [Td.isNull, hw, beq_iff_eq, hsrc, Bool.not_true, Bool.false_eq_true, false_or]
  omega

theorem Block.orth_of_failed {b1 : Block} (ha : b.readAll pt r [(src, rd)] errs = (b1, false)) :
    b.orth m c pt r dst src rd errs = (b1, m) := by
  simp only [Block.orth, if_neg (Block.not_orthRetires hsrc hdst h1 h64), ha, Bool.not_false, if_true]

theorem Block.orth_of_read {b1 : Block} (ha : b.readAll pt r [(src, rd)] errs = (b1, true)) :
    b.orth m c pt r dst src rd errs = b1.putConvs m c pt dst 0
      (((orthogonalise (src.n / src.rowlen) src.rowlen ((b1.viewVals m pt r src rd).take (src.n / src.rowlen * src.rowlen))).take dst.n).map
        (fun x => toResult (b1.viewFmt pt dst) (f32Val x))) := by
  simp only [Block.orth, if_neg (Block.not_orthRetires hsrc hdst h1 h64), ha, Bool.not_true, Bool.false_eq_true, if_false]

end
end
end

/-! ### The record of a step -/

theorem Block.part_modRun (b : Block) (p : PartId) (f : StepRun → StepRun) (k : PartId) :
    (b.modRun p f).part k = { b.part k with run := if k = p then (b.part k).run.map f else (b.part k).run } := by
  by_cases h : k = p
  · subst h
    simp only [Block.modRun, Block.part_modPart_self, if_true]
  · simp only [Block.modRun, Block.part_modPart_ne _ _ _ _ h, h, if_false]

@[simp] theorem Block.tmem_modRun (b : Block) (p : PartId) (f : StepRun → StepRun) (k : PartId) (t : Nat) :
    (b.modRun p f).tmem k t = b.tmem k t := by
  simp only [Block.tmem, Block.part_modRun]

@[simp] theorem Block.image_modRun (b : Block) (p : PartId) (f : StepRun → StepRun) (k : PartId) : (b.modRun p f).image k = b.image k := by
  simp only [Block.image, Block.part_modRun]

/-! ### Reads without an error -/

theorem Block.readAll_nil {b : Block} {pt : PartId} {r : StepRun} {ops : List (Td × HostRead)}
    (hhost : ∀ o ∈ ops, (b.image pt).readsHost o.1 = true → o.2 ≠ .failed)
    (hop : ∀ o ∈ ops, o.1.region = 3 → (b.tmem pt o.1.tensor).opBad = false)
    (hq : ∀ o ∈ ops, o.1.region = 5 → (b.tmem pt o.1.tensor).qBad = false) :
    b.readAll pt r ops [] = (b.modRun pt (fun r => { r with wants := [], seen := [] }), true) := by
  have hopBad : (ops.any fun o => o.1.region == 3 && (b.tmem pt o.1.tensor).opBad) = false := by
    simpa [List.any_eq_false] using hop
  have hqBad : (ops.any fun o => o.1.region == 5 && (b.tmem pt o.1.tensor).qBad) = false := by
    simpa [List.any_eq_false] using hq
  have hfind : ops.find? (fun o => (b.image pt).readsHost o.1 && o.2 == .failed) = none := by
    simpa [List.find?_eq_none] using hhost
  simp only [Block.readAll, Block.demand_nil, List.any_nil, List.foldl_nil, Bool.false_or, hfind, hopBad, hqBad,
    Bool.false_eq_true, if_false, Bool.not_false, Bool.and_self, Option.isNone_none]

/-- Settles O17: TCOPY and ORTH are operations that run at once; each retires on its conditions, or writes what it read (R276, R288, R289). -/
theorem copyAndOrthonormalise : Obligations.CopyAndOrthonormalise := by
  unfold Obligations.CopyAndOrthonormalise
  refine ⟨?_, fun b pt r ops => Block.readAll_nil⟩
  intro c p dst src rd errs s pt r b1 b D S h hs hprods hops hview hdst
  have hfull : b.infFull c = false := Block.infFull_eq_false hops hprods
  have hcopy : b.opWaits c pt r (.copy D S rd errs) = false := by
    simp [Block.opWaits, Block.opViews, hprods, hview, hdst]
  have horth : b.opWaits c pt r (.orth D S rd errs) = false := by
    simp [Block.opWaits, Block.opViews, hprods, hview, hdst]
  simp only [exec, execTcopy, execOrth]
  refine ⟨fun hret => ?_, fun hret => ?_, fun hS hD hfmt ha => ?_, fun hS hD hfmt h4 ha => ?_, fun hS hD h1 h64 ha => ?_,
    fun hS hD ha => ⟨fun hfmt => ?_, fun h1 h64 => ?_⟩⟩
  · exact State.actBuf_issueOp_retires (w := fun b _ => b.infFull c) h hfull hs hops hcopy (Block.tcopy_of_retires hret)
  · exact State.actBuf_issueOp_retires (w := fun b _ => b.infFull c) h hfull hs hops horth (Block.orth_of_retires hret)
  · have hrun := Block.tcopy_of_read (m := s.bufs[c]) (c := c) (by rw [hS]; decide) (Or.inr hD) (fun hs8 => hfmt hs8.1) ha
    rw [if_pos ⟨hS, hD⟩] at hrun
    exact State.actBuf_issueOp_runs (w := fun b _ => b.infFull c) (op := fun q => .copy (q.tdr dst) (q.tdr src) rd errs) h hfull hs hops hcopy hrun
  · have hrun := Block.tcopy_of_read (m := s.bufs[c]) (c := c) hS hD hfmt ha
    rw [if_neg h4] at hrun
    exact State.actBuf_issueOp_runs (w := fun b _ => b.infFull c) h hfull hs hops hcopy hrun
  · exact State.actBuf_issueOp_runs (w := fun b _ => b.infFull c) h hfull hs hops horth (Block.orth_of_read hS hD h1 h64 ha)
  · exact State.actBuf_issueOp_block (w := fun b _ => b.infFull c) h hfull hs hops hcopy (Block.tcopy_of_failed hS hD hfmt ha)
  · exact State.actBuf_issueOp_block (w := fun b _ => b.infFull c) h hfull hs hops horth (Block.orth_of_failed hS hD h1 h64 ha)

end Sys2Proof.Machine
end

/-! PROOF. The matrix products (R132 to R134, R282 to R286): MMA and MMAG as operations that run at once, on a stream as it stands or on the sum of an
exchange under way; a row of it taken; and the operations behind it. -/
section
namespace Sys2Proof.Machine
open Sys2Proof

theorem Block.prods_of_not_opWaits {b : Block} {c : CombId} {pt : PartId} {r : StepRun} {x : InfOp} (h : b.opWaits c pt r x = false) :
    (b.comb c).prods = [] := by
  simp only [Block.opWaits, Bool.or_eq_false_iff, Bool.not_eq_false', List.isEmpty_iff] at h
  exact h.1.1

/-- The operation that MMA, or MMAG where `late`, issues. -/
def mmaOp (dst stream weights : TdReg) (cvt : Cvt) (o : OutCfg) (rd : MmaReads) (errs : List MemErr) (late : Bool) (q : Seqr) : InfOp :=
  .mma (q.tdr dst) (q.tdr stream) (q.tdr weights) (cvtFmt cvt) (outSet o q) rd errs late

/-- MMA and MMAG where they may issue, stand behind no other operation and wait for nothing: the product is formed at once. -/
theorem exec_mma_of_issues {c : CombId} {p : Pr} {dst stream weights : TdReg} {cvt : Cvt} {o : OutCfg} {rd : MmaReads} {errs : List MemErr}
    {s : State} {pt : PartId} {r : StepRun} {late : Bool} (h : s.block.issues c p = true) (hs : s.block.stepOf c = some (pt, r))
    (hops : (s.block.comb c).ops = []) (hpend : cfgPend o (s.block.seq c) = false)
    (hwait : s.block.opWaits c pt r (mmaOp dst stream weights cvt o rd errs late (s.block.seq c)) = false) {w : Block × Mem}
    (hw : s.block.mma s.bufs[c] c pt r ((s.block.seq c).tdr dst) ((s.block.seq c).tdr stream) ((s.block.seq c).tdr weights) (cvtFmt cvt)
      (outSet o (s.block.seq c)) rd errs late = w) :
    exec (if late then .mmag c p dst stream weights cvt o rd errs else .mma c p dst stream weights cvt o rd errs) s =
      .next ((s.afterInstr c w.1).withBuf c w.2) := by
  have hfull : s.block.infFull c = false := Block.infFull_eq_false hops (Block.prods_of_not_opWaits hwait)
  have hexec : exec (if late then .mmag c p dst stream weights cvt o rd errs else .mma c p dst stream weights cvt o rd errs) s =
      s.actBuf c (fun b m => b.issueOp m c p (fun q => cfgPend o q || b.infFull c) (mmaOp dst stream weights cvt o rd errs late)) := by
    cases late <;> rfl
  rw [hexec]
  exact State.actBuf_issueOp_runs (w := fun b q => cfgPend o q || b.infFull c) h (by rw [hpend, hfull]; rfl) hs hops hwait hw

/-! ### The effect of a product -/

section
variable {b b1 : Block} {m : Mem} {c : CombId} {pt : PartId} {r : StepRun} {D S X : Td} {k : Fmt} {o : OutSet} {rd : MmaReads} {errs : List MemErr}

theorem Block.mma_of_retires (late : Bool) (h : b.mmaRetires pt D S X o = true) : b.mma m c pt r D S X k o rd errs late = (b, m) := by
  simp only [Block.mma, h, if_true]

section
variable (h : b.mmaRetires pt D S X o = false)
include h

theorem Block.mma_of_failed (late : Bool) (ha : b.readAll pt r (mmaOperands o S X rd (b.gathers pt r S)) errs = (b1, false)) :
    b.mma m c pt r D S X k o rd errs late = (b1, m) := by
  simp only [Block.mma, h, ha, Bool.false_eq_true, if_false, Bool.not_false, if_true]

/-- On a stream that is not gathered the rows are formed one after the other. -/
theorem Block.mma_of_stream (late : Bool) (hg : b.gathers pt r S = false) (ha : b.readAll pt r (mmaOperands o S X rd false) errs = (b1, true)) :
    b.mma m c pt r D S X k o rd errs late =
      let g := b1.product m pt r D S X k o rd
      let b2 := b1.satIn c g.2
      let v := enterVals (b2.viewFmt pt S) k ((b2.viewVals m pt r S rd.stream).take (g.1.rows * g.1.inner))
      (List.range g.1.rows).foldl (fun st k => st.1.putRow st.2 c pt g.1 k (matRow g.1.inner v.1 k)) (b2.satIn c v.2, m) := by
  simp only [Block.mma, h, hg, ha, Bool.false_eq_true, if_false, Bool.not_true]

/-- The block once a product has joined those that take rows of an exchange under way. -/
theorem Block.mma_of_gathered (late : Bool) (hg : b.gathers pt r S = true) (ha : b.readAll pt r (mmaOperands o S X rd true) errs = (b1, true)) :
    b.mma m c pt r D S X k o rd errs late =
      let g := b1.product m pt r D S X k o rd
      let b2 := if g.1.rows = 0 then b1.satIn c g.2 else (b1.satIn c g.2).modComb c (fun x => { x with prods := x.prods ++ [g.1] })
      if late = true then (b2, m) else (List.range g.1.rows).foldl (fun st k => st.1.rowTake st.2 c pt r k) (b2, m) := by
  simp only [Block.mma, h, hg, ha, Bool.false_eq_true, if_false, Bool.not_true, if_true]

end
end

/-- Settles O18: MMA and MMAG are operations that run at once; each retires on its conditions, or forms its rows from what it read (R282 to R286). -/
theorem matrixProducts : Obligations.MatrixProducts := by
  unfold Obligations.MatrixProducts
  refine ⟨?_, ?_, ?_⟩
  · intro c p dst stream weights cvt o rd errs s pt r b1 late i b q D S X hi h hs hops hpend hwait
    have hruns := fun w hw => exec_mma_of_issues (w := w) h hs hops hpend hwait hw
    rw [hi]
    refine ⟨fun hret => ?_, fun hret hg ha => hruns _ (Block.mma_of_stream hret late hg ha), fun hret hg ha => ?_⟩
    · rw [hruns _ (Block.mma_of_retires late hret), State.afterInstr_withBuf_self, State.afterInstr_self]
    · rw [hruns _ (Block.mma_of_failed hret late (by rw [hg]; exact ha)), State.afterInstr_withBuf_self]
  · exact fun b m pt r D S X k o rd => ⟨rfl, rfl, rfl, rfl, rfl, rfl, rfl, rfl, rfl, rfl, rfl, rfl, rfl, rfl, rfl, rfl, rfl⟩
  · exact fun o q => ⟨rfl, rfl, rfl, rfl, rfl⟩

/-! ### A gathered row (R133, R134) -/

section
variable {b : Block} {m : Mem} {c : CombId} {pt : PartId} {r : StepRun} {row : Nat}

theorem Block.rowTake_of_no_product (h : (b.comb c).prods = []) : b.rowTake m c pt r row = (b, m) := by
  simp only [Block.rowTake, h]

variable {g : GProd} {gs : List GProd} (hp : (b.comb c).prods = g :: gs)
include hp

theorem Block.rowTake_of_not_takable (h : r.abort.isSome = true ∨ g.rows ≤ row ∨ g.taken.contains row = true ∨ b.gatheredRow pt r g row = none) :
    b.rowTake m c pt r row = (b, m) := by
  have hnot (hskip : ¬(r.abort.isSome = true ∨ g.rows ≤ row ∨ g.taken.contains row = true)) : b.gatheredRow pt r g row = none := by
    obtain hab | hrow | htk | hnone := h
    · exact absurd (.inl hab) hskip
    · exact absurd (.inr (.inl hrow)) hskip
    · exact absurd (.inr (.inr htk)) hskip
    · exact hnone
  by_cases hskip : r.abort.isSome = true ∨ g.rows ≤ row ∨ g.taken.contains row = true
  · simp only [Block.rowTake, hp, if_pos hskip]
  · simp only [Block.rowTake, hp, if_neg hskip, hnot hskip]

variable {l : List Word} {uses : List Nat} (ha : r.abort = none) (hrow : row < g.rows) (htaken : g.taken.contains row = false)
  (hl : b.gatheredRow pt r g row = some (l, uses))
include ha hrow htaken hl

theorem Block.rowTake_of_available : b.rowTake m c pt r row =
    (let v := enterVals .f32 g.cvt l
     if uses.isEmpty = true then
       let w := (b.satIn c v.2).putRow m c pt g row v.1
       (w.1.modComb c (fun x => { x with prods := liveProds ({ g with taken := row :: g.taken } :: gs) }), w.2)
     else
       let w := b.earlyRow m pt g row v uses
       (b.modComb c (fun x => { x with prods := w.1 :: gs }), w.2)) := by
  have hgo : ¬(r.abort.isSome = true ∨ g.rows ≤ row ∨ g.taken.contains row = true) := by simpa [ha, hrow] using htaken
  simp only [Block.rowTake, hp, if_neg hgo, hl]

end

/-- A product that has taken a further row stays, unless that was its last and no row of it waits for capping. -/
theorem liveProds_cons (g : GProd) (gs : List GProd) (row : Nat) : liveProds ({ g with taken := row :: g.taken } :: gs) =
    (if g.taken.length + 1 = g.rows ∧ g.early = [] then [] else [{ g with taken := row :: g.taken }]) ++ liveProds gs := by
  by_cases h : g.taken.length + 1 = g.rows ∧ g.early = []
  · simp [liveProds, h]
  · have hlive : (!((row :: g.taken).length == g.rows && g.early.isEmpty)) = true :=
      (Bool.not_eq_true' _).mpr (Bool.eq_false_iff.mpr (fun hn => h (by simpa using hn)))
    rw [if_neg h, liveProds, List.filter_cons, if_pos hlive]
    rfl

/-! ### The operations behind it -/

theorem Block.runOps_of_none {c : CombId} {b : Block} (m : Mem) (h : (b.comb c).ops = []) (n : Nat) : Block.runOps c n (b, m) = (b, m) := by
  cases n with
  | zero => rfl
  | succ n => simp only [Block.runOps, h]

theorem State.onBlock_withBuf_self (s : State) (c : CombId) : (s.onBlock s.block).withBuf c s.bufs[c] = s := by
  simp [State.onBlock, State.withBuf]

theorem exec_gatheredRowTake_of_no_step {c : CombId} (row : Nat) {s : State} (h : s.block.stepOf c = none) :
    exec (.gatheredRowTake c row) s = .next s := by
  simp [exec, execGatheredRowTake, State.actBuf, Block.onStep, h]

theorem exec_gatheredRowTake_of_step {c : CombId} (row : Nat) {s : State} {pt : PartId} {r : StepRun} (h : s.block.stepOf c = some (pt, r)) :
    exec (.gatheredRowTake c row) s = .next ((s.onBlock (Block.runOps c (s.block.comb c).ops.length (s.block.rowTake s.bufs[c] c pt r row)).1).withBuf
      c (Block.runOps c (s.block.comb c).ops.length (s.block.rowTake s.bufs[c] c pt r row)).2) := by
  simp only [exec, execGatheredRowTake, State.actBuf, State.actBufs_next, Block.onStep, h]
  rfl

/-- Settles O19: MMAG and MMA on a gathered stream as operations that run at once; a row taken capped or uncapped; the operations behind it
(R132 to R134, R284, R285). -/
theorem gatheredProducts : Obligations.GatheredProducts := by
  unfold Obligations.GatheredProducts
  refine ⟨?_, fun c row s => ⟨exec_gatheredRowTake_of_no_step row, fun pt r h => exec_gatheredRowTake_of_step row h⟩, ?_,
    fun c n b m h => Block.runOps_of_none m h n⟩
  · intro c p dst stream weights cvt o rd errs s pt r b1 b q D S X g b2 h hs hops hpend hret hg ha
    refine ⟨fun hwait => ?_, fun hwait => ?_⟩
    · have hruns := fun w hw => exec_mma_of_issues (w := w) (late := true) h hs hops hpend hwait hw
      exact (hruns _ (Block.mma_of_gathered hret true hg ha)).trans (congrArg Host.Outcome.next (State.afterInstr_withBuf_self s c b2))
    · have hruns := fun w hw => exec_mma_of_issues (w := w) (late := false) h hs hops hpend hwait hw
      exact hruns _ (Block.mma_of_gathered hret false hg ha)
  · intro b m c row pt r g gs l uses
    refine ⟨Block.rowTake_of_no_product, fun hp hno => Block.rowTake_of_not_takable hp hno, fun hp habort hrow htaken hl => ?_⟩
    have htake := Block.rowTake_of_available (m := m) hp habort hrow htaken hl
    refine ⟨fun hu => ?_, fun hu => ?_⟩
    · rw [htake, hu]
      simp only [List.isEmpty_nil, if_true, liveProds_cons]
    · have hne : ¬uses.isEmpty = true := by simpa using hu
      rw [htake]
      simp only [if_neg hne]
      exact ⟨⟨row, uses, _, _, _⟩, rfl, rfl, rfl, rfl, rfl⟩

end Sys2Proof.Machine
end

/-! PROOF. What the exchange instructions read back (R279 to R281): XSTAT as an operation that runs at once, SCORE, BSEL and CBQ as instructions that issue. -/
section
namespace Sys2Proof.Machine
open Sys2Proof

/-! ### Instructions with an effect on the block -/

/-- An instruction that issues and need not wait has its effect, and the pc moves on. -/
theorem State.act_issue_onStep {s : State} {c : CombId} {p : Pr} {w : Block → Seqr → Bool} (f : Block → PartId → StepRun → Block) {pt : PartId}
    {r : StepRun} (h : s.block.issues c p = true) (hw : w s.block (s.block.seq c) = false) (hs : s.block.stepOf c = some (pt, r)) :
    s.act (fun b => b.issue c p (w b) (fun b => b.onStep c b (f b))) = .next (s.afterInstr c (f s.block pt r)) := by
  simp only [State.act_next, Block.issue_of_issues _ _ _ _ _ h hw, Block.onStep_of _ _ _ _ pt r hs]
  rfl

/-- The block after an instruction whose effect lies in the sequencer alone. -/
theorem State.afterInstr_modSeq {s : State} {c : CombId} {f g : Seqr → Seqr} (hfg : (f (s.block.seq c)).next = g (s.block.seq c)) :
    s.afterInstr c (s.block.modSeq c f) = s.seqAfter c g := by
  have hmod : (s.block.modSeq c f).modIssue c (fun q => { q with pc := q.pc + 1 }) = s.block.modIssue c g :=
    (modSeq_modIssue _ _ _ _).trans (modIssue_congr _ _ _ _ hfg)
  simp only [State.afterInstr, State.onBlock, State.seqAfter, hmod, finish_modIssue]

section
variable {s : State} {c : CombId} {p : Pr} {td : TdReg} {sb : SReg} {pt : PartId} {r : StepRun}
  (h : s.block.issues c p = true) (hs : s.block.stepOf c = some (pt, r))
include h hs

theorem exec_score_of_issues {sd : SReg} (hop : (s.block.seq c).isOpen sb = false) (hpend : (s.block.seq c).pend sd = false)
    (hw : s.block.waggleWaits c ((s.block.seq c).tdr td) ((s.block.seq c).sreg sb).toNat = false) :
    exec (.score c p sd td sb) s = .next (s.afterInstr c (s.block.modSeq c (fun q =>
      if (q.tdr td).isNull then q
      else q.setS sd (if s.block.waggleHas pt r (q.tdr td) (q.sreg sb).toNat then
        BitVec.ofNat 64 ((r.unitRun (s.block.image pt) (q.tdr td).tensor).group.getD (q.sreg sb).toNat 0) else 0)))) := by
  simp only [exec, execScore]
  rw [State.act_issue_onStep (w := fun b q => q.isOpen sb || q.pend sd || b.waggleWaits c (q.tdr td) (q.sreg sb).toNat) _ h
    (by simp only [hop, hpend, hw, Bool.or_self]) hs]

theorem exec_bsel_of_issues {qd : QReg} (hop : (s.block.seq c).isOpen sb = false)
    (hw : s.block.waggleWaits c ((s.block.seq c).tdr td) ((s.block.seq c).sreg sb).toNat = false) :
    exec (.bsel c p qd td sb) s = .next (s.afterInstr c (s.block.modSeq c (fun q =>
      if (q.tdr td).isNull then q
      else q.setQ qd (s.block.waggleHas pt r (q.tdr td) (q.sreg sb).toNat &&
        ((r.unitRun (s.block.image pt) (q.tdr td).tensor).conf.getD []).contains (q.sreg sb).toNat) none))) := by
  simp only [exec, execBsel]
  rw [State.act_issue_onStep (w := fun b q => q.isOpen sb || b.waggleWaits c (q.tdr td) (q.sreg sb).toNat) _ h
    (by simp only [hop, hw, Bool.or_self]) hs]

theorem exec_cbq_of_issues {sd : SReg} (errs : List MemErr)
    (hw : s.block.cbqWaits c (s.block.seq c) sd sb ((s.block.seq c).tdr td) = false) :
    exec (.cbq c p sd td sb errs) s =
      .next (s.afterInstr c (s.block.cbq c pt r ((s.block.seq c).tdr td) sd ((s.block.seq c).sreg sb).toNat errs)) := by
  simp only [exec, execCbq]
  rw [State.act_issue_onStep (w := fun b q => b.cbqWaits c q sd sb (q.tdr td))
    (fun b pt r => b.cbq c pt r ((b.seq c).tdr td) sd ((b.seq c).sreg sb).toNat errs) h hw hs]

end

/-! ### XSTAT (R279) -/

section
variable {s : State} {c : CombId} {p : Pr} {dst src : TdReg} {mode : Fin 4} {errs : List MemErr} {pt : PartId} {r : StepRun}
  (h : s.block.issues c p = true) (hs : s.block.stepOf c = some (pt, r)) (hops : (s.block.comb c).ops = [])
  (hfull : s.block.ctlFull c = false)
  (hwait : s.block.opWaits c pt r (.stat ((s.block.seq c).tdr dst) ((s.block.seq c).tdr src) mode errs) = false)
include h hs hops hfull hwait

theorem exec_xstat_of_issues {w : Block × Mem}
    (hw : s.block.xstat s.bufs[c] c pt r ((s.block.seq c).tdr dst) ((s.block.seq c).tdr src) mode errs = w) :
    exec (.xstat c p dst src mode errs) s = .next ((s.afterInstr c w.1).withBuf c w.2) := by
  simp only [exec, execXstat]
  exact State.actBuf_issueOp_runs (w := fun b _ => b.ctlFull c) (op := fun q => .stat (q.tdr dst) (q.tdr src) mode errs) h hfull hs hops hwait hw

end

theorem Block.xstat_of_not_runs {b : Block} (m : Mem) (c : CombId) {pt : PartId} {r : StepRun} {dst src : Td} (mode : Nat) (errs : List MemErr)
    (h : b.xstatRuns pt r dst src = false) : b.xstat m c pt r dst src mode errs = (b, m) := by
  simp only [Block.xstat, h, Bool.not_false, if_true]

theorem Block.xstat_of_runs {b : Block} (m : Mem) (c : CombId) {pt : PartId} {r : StepRun} {dst src : Td} (mode : Nat)
    (h : b.xstatRuns pt r dst src = true) :
    let i := b.image pt
    let hd := i.head src.tensor
    let off := match (i.offsets hd).find? (fun q => q.1 == src.tensor) with | some q => q.2 | none => 0
    let l := if mode < 2 then
        (List.range (Nat.min src.n dst.n)).map (fun j => b.elemStat pt r hd (mode == 1) (off + src.base + j))
      else (List.range (Nat.min (ceilDiv (i.kindUnits hd (i.entry hd).statsKind) 16) dst.n)).map (fun u => b.tileStat pt r hd (mode == 3) u)
    b.xstat m c pt r dst src mode [] = ({ b with free := b.free + off + src.base + src.n } : Block).putConvs m c pt dst 0
      (l.map (fun x => toResult (b.viewFmt pt dst) (f32Val x))) := by
  simp only [Block.xstat, h, Bool.not_true, Bool.false_eq_true, if_false, Block.demand_nil, List.isEmpty_nil] <;> rfl

theorem Block.opWaits_stat_of_not_runs {b : Block} {c : CombId} {pt : PartId} {r : StepRun} {dst src : Td} (hp : (b.comb c).prods = [])
    (mode : Nat) (errs : List MemErr) (h : b.xstatRuns pt r dst src = false) : b.opWaits c pt r (.stat dst src mode errs) = false := by
  simp [Block.opWaits, Block.opViews, hp, h]

theorem Block.opWaits_stat_of_decoded {b : Block} {c : CombId} {pt : PartId} {r : StepRun} {dst src : Td} (hp : (b.comb c).prods = [])
    (mode : Nat) (errs : List MemErr) (hdec : (r.unitRun (b.image pt) src.tensor).decoded.isSome = true) (hdst : b.dstWaits pt r dst = false) :
    b.opWaits c pt r (.stat dst src mode errs) = false := by
  have hdec' : (r.unitRun (b.image pt) src.tensor).decoded.isNone = false := by
    rw [← Option.not_isSome, hdec]; rfl
  simp [Block.opWaits, Block.opViews, hp, hdec', hdst]

/-! ### CBQ (R281) -/

@[simp] theorem Block.cbErrors_nil (b : Block) (p : PartId) : b.cbErrors p [] = (b, []) := rfl

/-- Searches that meet no error leave the block. -/
theorem Block.cbSearch_nil (b : Block) (p : PartId) (beam iters : Nat) (qs : List Nat) :
    b.cbSearch p [] beam iters qs = (b, qs.map (foragerSearch ((b.part p).cbView (b.image p).cbE) beam iters)) := by
  simp [Block.cbSearch]

/-- CBQ on a unit that may not be searched gives all ones. -/
theorem Block.cbq_of_not_runs {b : Block} (c : CombId) {p : PartId} {r : StepRun} {d : Td} (sd : SReg) {k : Nat} (errs : List MemErr)
    (hn : d.region ≠ 15) (h : b.cbqRuns p r d k = false) :
    b.cbq c p r d sd k errs = b.modSeq c (fun q => q.setS sd 0xFFFFFFFFFFFFFFFF) := by
  simp only [Block.cbq, Td.isNull, beq_eq_false_iff_ne.mpr hn, h, Bool.not_false, Bool.false_eq_true, if_false, if_true]
  rfl

theorem Block.cbq_of_runs {b : Block} (c : CombId) {p : PartId} {r : StepRun} {d : Td} (sd : SReg) {k : Nat} (errs : List MemErr)
    (hn : d.region ≠ 15) (h : b.cbqRuns p r d k = true) :
    let i := b.image p
    let h := i.head d.tensor
    let a := b.cbSearch p errs (i.entry h).beam (i.entry h).iters [patternOf (((i.below h (r.trun h).w).drop (128 * k)).take 128)]
    let f := a.2.headD (0, [])
    b.cbq c p r d sd k errs = ((a.1.count c (fun x => { x with excluded := wrapAdd x.excluded f.2.length })).modRun p
      (fun r => { r with count := { r.count with searches := r.count.searches + 1 } })).modSeq c (fun q => q.setS sd (BitVec.ofNat 64 f.1)) := by
  simp only [Block.cbq, Td.isNull, beq_eq_false_iff_ne.mpr hn, h, Bool.not_true, Bool.false_eq_true, if_false]

/-- Settles O20: XSTAT runs or retires as an operation does; SCORE, BSEL and CBQ issue with their effect on the block, which lies in the
sequencer but for what CBQ counts. -/
theorem readbackInstructions : Obligations.ReadbackInstructions := by
  unfold Obligations.ReadbackInstructions
  intro c p s pt r h hs
  refine ⟨?_, ?_, ?_, ?_, ?_, ?_⟩
  · intro dst src mode errs hops hprods hfull hr
    have hwait := Block.opWaits_stat_of_not_runs (c := c) hprods mode errs hr
    rw [exec_xstat_of_issues h hs hops hfull hwait (Block.xstat_of_not_runs _ _ _ _ hr), State.afterInstr_withBuf_self, State.afterInstr_self]
  · intro dst src mode hr hprods hops hfull hdec hdst
    exact ⟨_, rfl, exec_xstat_of_issues h hs hops hfull (Block.opWaits_stat_of_decoded hprods _ _ hdec hdst) (Block.xstat_of_runs _ _ _ hr)⟩
  · intro sd td sb hop hpend hn hw
    rw [exec_score_of_issues h hs hop hpend hw]
    exact congrArg _ (State.afterInstr_modSeq (by simp only [Td.isNull, Seqr.tdr, beq_eq_false_iff_ne.mpr hn]; rfl))
  · intro qd td sb hop hn hw
    rw [exec_bsel_of_issues h hs hop hw]
    refine congrArg _ (State.afterInstr_modSeq ?_)
    simp only [Td.isNull, Seqr.tdr, beq_eq_false_iff_ne.mpr hn]
    exact Seqr.next_setQ _ qd _ none
  · intro sd td sb errs hw hnull
    have hnull' : ((s.block.seq c).tdr td).isNull = true := beq_iff_eq.mpr hnull
    rw [exec_cbq_of_issues h hs errs hw, Block.cbq, if_pos hnull', State.afterInstr_self]
  · intro sd td sb errs hw hn
    refine ⟨fun hr => ?_, fun hr => ⟨?_, fun qs => Block.cbSearch_nil ..⟩⟩
    · refine (exec_cbq_of_issues h hs errs hw).trans ?_
      exact congrArg _ ((congrArg _ (Block.cbq_of_not_runs c sd errs hn hr)).trans (State.afterInstr_modSeq rfl))
    · refine (exec_cbq_of_issues h hs errs hw).trans ?_
      exact congrArg _ (congrArg _ (Block.cbq_of_runs c sd errs hn hr))

end Sys2Proof.Machine
end

/-! PROOF. The exchange and launching instructions of the sequencer (R259 to R262, R266, R278, R292 to R294) and the fence that ends a step (R261). -/
section
namespace Sys2Proof.Machine
open Sys2Proof

/-! ### STEEP and XCHG (R260, R262) -/

theorem Td.isNull_iff (d : Td) : d.isNull = true ↔ d.region = 15 := beq_iff_eq

section
variable {s : State} {c : CombId} {p : Pr} {td : TdReg} {pt : PartId} {r : StepRun} (g : List HostRead) (errs : List MemErr)
  (h : s.block.issues c p = true) (hs : s.block.stepOf c = some (pt, r)) (hw : s.block.ctlWaits c ((s.block.seq c).tdr td) = false)
include h hs hw

theorem exec_steep_of_issues : exec (.steep c p td g errs) s = .next (s.afterInstr c
    (if ((s.block.seq c).tdr td).isNull then s.block
     else s.block.steepAlone pt ((s.block.image pt).head ((s.block.seq c).tdr td).tensor) g errs)) := by
  simp only [exec, execSteep]
  rw [State.act_issue_onStep (w := fun b q => b.ctlWaits c (q.tdr td)) (fun b pt _ =>
    if ((b.seq c).tdr td).isNull then b else b.steepAlone pt ((b.image pt).head ((b.seq c).tdr td).tensor) g errs) h hw hs]

theorem exec_xchg_of_issues : exec (.xchg c p td g errs) s = .next (s.afterInstr c
    (if ((s.block.seq c).tdr td).isNull then s.block
     else s.block.xchg pt ((s.block.image pt).head ((s.block.seq c).tdr td).tensor) g errs)) := by
  simp only [exec, execXchg]
  rw [State.act_issue_onStep (w := fun b q => b.ctlWaits c (q.tdr td)) (fun b pt _ =>
    if ((b.seq c).tdr td).isNull then b else b.xchg pt ((b.image pt).head ((b.seq c).tdr td).tensor) g errs) h hw hs]

theorem exec_steep_of_null (hn : ((s.block.seq c).tdr td).region = 15) :
    exec (.steep c p td g errs) s = .next (s.seqAfter c (fun q => { q with pc := q.pc + 1 })) := by
  rw [exec_steep_of_issues g errs h hs hw, if_pos ((Td.isNull_iff _).mpr hn), State.afterInstr_self]

theorem exec_xchg_of_null (hn : ((s.block.seq c).tdr td).region = 15) :
    exec (.xchg c p td g errs) s = .next (s.seqAfter c (fun q => { q with pc := q.pc + 1 })) := by
  rw [exec_xchg_of_issues g errs h hs hw, if_pos ((Td.isNull_iff _).mpr hn), State.afterInstr_self]

section
variable (hn : ((s.block.seq c).tdr td).region ≠ 15) {b' : Block}
include hn

theorem exec_steep_of_tensor (he : s.block.steepAlone pt ((s.block.image pt).head ((s.block.seq c).tdr td).tensor) g errs = b') :
    exec (.steep c p td g errs) s = .next (s.afterInstr c b') := by
  rw [exec_steep_of_issues g errs h hs hw, if_neg (mt (Td.isNull_iff _).mp hn), he]

theorem exec_xchg_of_tensor (he : s.block.xchg pt ((s.block.image pt).head ((s.block.seq c).tdr td).tensor) g errs = b') :
    exec (.xchg c p td g errs) s = .next (s.afterInstr c b') := by
  rw [exec_xchg_of_issues g errs h hs hw, if_neg (mt (Td.isNull_iff _).mp hn), he]

end
end

section
variable {b : Block} {p : PartId} {r : StepRun} {h : Nat} {g : List HostRead} {errs : List MemErr} (hr : b.run? p = some r)
include hr

theorem Block.steep_of_not_idle (hst : (r.trun h).st ≠ .idle) : b.steep p h g errs = b := by
  simp only [Block.steep, hr, if_neg hst]

theorem Block.steep_of_idle (hst : (r.trun h).st = .idle) : b.steep p h g errs = b.steepStart p h g errs := by
  simp only [Block.steep, hr, if_pos hst]

theorem Block.steepAlone_of_not_idle (hst : (r.trun h).st ≠ .idle) : b.steepAlone p h g errs = b := by
  simp only [Block.steepAlone, hr, if_neg hst]

theorem Block.steepAlone_of_idle (hst : (r.trun h).st = .idle) :
    b.steepAlone p h g errs = (b.steepStart p h g errs).modT p h (fun t => { t with bySteep := true }) := by
  simp only [Block.steepAlone, Block.steep, hr, if_pos hst]

theorem Block.steepStart_of_failed (hg : (b.image p).gradients h g = none) :
    b.steepStart p h g errs = (b.log 0x040D (.port (b.gradPort p h)) (some p) []).originate p 0x040D r.next := by
  simp only [Block.steepStart, hg, Block.hostReadFailed, hr]

theorem Block.xchg_of_exchanged (hst : (r.trun h).st = .exchanged) : b.xchg p h g errs = b := by
  simp only [Block.xchg, hr, if_pos hst]

/-- An exchange that meets no memory error joins the launches, once the tensor is steeped and the step has met no abort. -/
theorem Block.xchg_of_steep {b1 : Block} {r1 : StepRun} (hst : (r.trun h).st ≠ .exchanged) (h1 : b.steep p h g [] = b1) (hr1 : b1.run? p = some r1)
    (ha : r1.abort = none) : b.xchg p h g [] =
      (b1.modRun p (fun r => { r.modT h (fun t => { t with st := .exchanged, xissued := true }) with launches := r.launches ++ [.tensor h] })).drive p := by
  simp only [Block.xchg, hr, if_neg hst, h1, hr1, ha, Option.isSome_none, Bool.false_eq_true, if_false, Block.demand_nil, List.foldl_nil]

end

theorem Block.steepStart_of_read {b : Block} {p : PartId} {h : Nat} {g : List HostRead} (errs : List MemErr)
    (hg : ((b.image p).gradients h g).isSome = true) :
    b.steepStart p h g errs = ((((b.modT p h (fun t => { t with st := .steeped, grads := ((b.image p).gradients h g).getD [], left := some 0 })).modTMem p h
      (fun m => { m with opBad := false })).askPages p
        (((b.modT p h (fun t => { t with st := .steeped, grads := ((b.image p).gradients h g).getD [], left := some 0 })).modTMem p h
          (fun m => { m with opBad := false })).currentPages p h)).steepErrors p h errs).steepGo p h := by
  obtain ⟨gs, hgs⟩ := Option.isSome_iff_exists.mp hg
  simp only [Block.steepStart, hgs, Option.getD_some]

/-- Settles O21: a null descriptor, a tensor past the state that the instruction acts on, a failed gradient read and the effect are the branches of
STEEP and XCHG. -/
theorem steepAndExchange : Obligations.SteepAndExchange := by
  unfold Obligations.SteepAndExchange
  intro c p td g errs s pt r b D h b1 hi hs hw
  have hr := Block.stepOf_run _ _ _ _ hs
  have hab : r.abort = none := Block.mayIssue_abort _ _ _ _ hs (by
    simp only [Block.issues, Block.mayTake, Bool.and_eq_true] at hi
    exact hi.1.1)
  refine ⟨?_, ?_, ?_, ?_, ?_, ?_⟩
  · intro hret
    by_cases hn : D.region = 15
    · exact exec_steep_of_null g errs hi hs hw hn
    · rw [← State.afterInstr_self]
      exact exec_steep_of_tensor g errs hi hs hw hn (Block.steepAlone_of_not_idle hr (hret.resolve_left hn))
  · intro hret
    by_cases hn : D.region = 15
    · exact exec_xchg_of_null g errs hi hs hw hn
    · rw [← State.afterInstr_self]
      exact exec_xchg_of_tensor g errs hi hs hw hn (Block.xchg_of_exchanged hr (hret.resolve_left hn))
  · intro hn hst hg
    exact exec_steep_of_tensor g errs hi hs hw hn ((Block.steepAlone_of_idle hr hst).trans (congrArg (Block.modT · pt h _) (Block.steepStart_of_read errs hg)))
  · intro hn hst hg herrs r1 hr1 ha
    subst herrs
    have hne : (r.trun h).st ≠ .exchanged := by rw [hst]; decide
    exact exec_xchg_of_tensor g [] hi hs hw hn
      (Block.xchg_of_steep hr hne ((Block.steep_of_idle hr hst).trans (Block.steepStart_of_read [] hg)) hr1 ha)
  · intro hn hst hg
    exact exec_steep_of_tensor g errs hi hs hw hn ((Block.steepAlone_of_idle hr hst).trans (congrArg (Block.modT · pt h _) (Block.steepStart_of_failed hr hg)))
  · intro hn hst
    have hne : (r.trun h).st ≠ .exchanged := by rw [hst]; decide
    have hidle : (r.trun h).st ≠ .idle := by rw [hst]; decide
    exact exec_xchg_of_tensor g [] hi hs hw hn (Block.xchg_of_steep hr hne (Block.steep_of_not_idle hr hidle) hr hab)

/-! ### BARR, SRED, SOUT and WAKE (R266, R292 to R294) -/

/-- Settles O22: each instruction issues and has its effect on the block; only WAKE's does not speak of the step. -/
theorem launchesAndResults : Obligations.LaunchesAndResults := by
  unfold Obligations.LaunchesAndResults
  intro c p s pt r h hs b q
  refine ⟨?_, ?_, ?_, ?_⟩
  · simp only [exec, execBarr]
    exact State.act_issue_onStep (w := fun _ _ => false) (fun b pt _ => b.launch pt (.barrier c)) h rfl hs
  · intro sd sa op n hp
    simp only [exec, execSred]
    exact State.act_issue_onStep (w := fun _ q => (sregs sa (n.val + 1) ++ sregs sd (n.val + 1)).any q.pend)
      (fun b pt _ => (b.modSeq c (fun q => q.markPend (sregs sd (n.val + 1)))).launch pt
        (.sred c sd (redCode op) (redWidth op) ((sregs sa (n.val + 1)).map (fun r => (b.seq c).s[r])))) h hp hs
  · intro sa k ho
    simp only [exec, execSout]
    exact State.act_issue_onStep (w := fun _ q => q.isOpen sa)
      (fun b pt _ => b.modRun pt (fun r => { r with scalars := (k.val, (b.seq c).sreg sa) :: r.scalars })) h ho hs
  · intro mask
    simp only [exec, execWake, State.act_next, Block.issue_of_issues s.block c p (fun _ => false) (fun b => b.wakeHint mask) h rfl]
    rfl

/-! ### FENCE (R261) -/

/-- A fence that may issue ends the step once it is done. -/
theorem exec_fence_of_mayIssue {c : CombId} {s : State} {pt : PartId} {r : StepRun} (h : s.block.mayIssue c = true)
    (hs : s.block.stepOf c = some (pt, r)) :
    exec (.fence c) s = .next (s.onBlock (if s.block.fenceReady r then s.block.fenceGo pt r else s.block)) := by
  simp only [exec, execFence, State.act_next, h, if_true, Block.onStep_of _ _ _ _ pt r hs]
  rfl

theorem Block.fenceGo_of_unclean {b b' : Block} {p : PartId} {r : StepRun} (h : b.cleanSteeped p r = (b', false)) : b.fenceGo p r = b' := by
  simp only [Block.fenceGo, h, Bool.false_eq_true, if_false]

theorem Block.fenceGo_of_clean {b b' : Block} {p : PartId} {r : StepRun} (h : b.cleanSteeped p r = (b', true)) : b.fenceGo p r = b'.fence p r := by
  simp only [Block.fenceGo, h, if_true]

theorem Block.fence_of_faults {b : Block} {p : PartId} {r : StepRun} {x : _} {xs : List _} (h : b.ledgerFaults = x :: xs) :
    b.fence p r = b.halt x.1 (x :: xs) := by
  simp only [Block.fence, h]

theorem Block.cleanUnit_of_clean {b : Block} {p : PartId} {r : StepRun} {h : Nat} (hr : b.run? p = some r) (hd : (r.trun h).dirty = []) :
    Block.cleanUnit p (b, true) h = (b, true) := by
  simp [Block.cleanUnit, hr, hd]

/-- A step with no dirty page has nothing to clean. -/
theorem Block.cleanSteeped_of_clean {b : Block} {p : PartId} {r : StepRun} (hr : b.run? p = some r) (hd : ∀ t ∈ r.runs, t.dirty = []) :
    b.cleanSteeped p r = (b, true) := by
  have hunit : ∀ h ∈ List.range r.runs.length, (r.trun h).dirty = [] := by
    intro h hh
    have hlt := List.mem_range.mp hh
    simp only [StepRun.trun, List.getD_eq_getElem?_getD, List.getElem?_eq_getElem hlt, Option.getD_some]
    exact hd _ (List.getElem_mem hlt)
  unfold Block.cleanSteeped
  generalize List.range r.runs.length = hs at hunit ⊢
  induction hs with
  | nil => rfl
  | cons h hs ih =>
    rw [List.foldl_cons, Block.cleanUnit_of_clean hr (hunit h (List.mem_cons_self ..))]
    exact ih (fun k hk => hunit k (List.mem_cons_of_mem _ hk))

/-- Settles O23: the fence's branches, and that a step without dirty pages has nothing to clean. -/
theorem stepFence : Obligations.StepFence := by
  unfold Obligations.StepFence
  intro c s pt r h hs
  have fence := exec_fence_of_mayIssue h hs
  refine ⟨?_, ?_, ?_, ?_, ?_⟩
  · intro hf
    rw [fence, hf, if_neg (by decide), State.onBlock, finish_self]
  · intro b hf hc
    rw [fence, if_pos hf, Block.fenceGo_of_unclean hc]
  · intro b hf hc x xs hl
    rw [fence, if_pos hf, Block.fenceGo_of_clean hc, Block.fence_of_faults hl]
  · intro b hf hc hl
    rw [fence, if_pos hf, Block.fenceGo_of_clean hc, Block.fence, hl]
    rfl
  · exact Block.cleanSteeped_of_clean (Block.stepOf_run _ _ _ _ hs)

end Sys2Proof.Machine
end

/-! PROOF. The management port (R363 to R372, R411): what ends a transaction or a session, one register read or written, and the event log. -/
section
namespace Sys2Proof.Machine
open Sys2Proof

/-! ### Transactions -/

theorem b2n_eq_toNat (x : Bool) : b2n x = x.toNat := by cases x <;> rfl

/-- The fields of the status byte (R365), the lowest a code of two bits. -/
theorem Block.status_eq (b : Block) : ∃ k, k < 4 ∧ b.status true =
    k + 4 * (b.boot.phase == .failed || b.kettle.haltCode != 0).toNat + 8 * (b.boot.phase == .ready).toNat + 16 * b.msp.evt.toNat +
      32 * (decide (b.now < b.msp.lockUntil)).toNat + 64 * b.msp.session.toNat + 128 := by
  simp only [Block.status, Block.statusLow, b2n_eq_toNat, Bool.toNat_true, Nat.mul_one]
  refine ⟨_, ?_, rfl⟩
  split <;> decide

theorem Block.onMsp_of_on {b : Block} (h : b.mspOff = false) (f : Block → Block) : b.onMsp f = f b := by
  simp only [Block.onMsp, h, Bool.false_eq_true, if_false]

/-- A fault of STATUS as the transaction's end records it. -/
theorem ofNat_ite (p : Prop) [Decidable p] (m n : Nat) :
    BitVec.ofNat 4 (if p then m else n) = if p then BitVec.ofNat 4 m else BitVec.ofNat 4 n := apply_ite _ _ _ _

/-- Settles O24: each transaction's end, the bits of the status byte, and the command byte's fields. -/
theorem mspStatusAndSessionEnds : Obligations.MspStatusAndSessionEnds := by
  unfold Obligations.MspStatusAndSessionEnds
  refine ⟨fun lanes sent cmd s => ⟨fun hon => ?_, fun hopen => ?_, rfl, ?_⟩, fun b t => rfl, ?_⟩
  · obtain ⟨k, hk, hst⟩ := s.block.mspBegin.status_eq
    refine ⟨?_, fun hop => ?_, ?_, ?_⟩
    · simp only [exec, execMspStatus, State.act_next, Block.onMsp_of_on hon, Block.mspEnd, ofNat_ite]
      rfl
    · simp only [exec, execMspInvalidOpcode, State.act_next, hop, Option.isSome_none, Bool.false_eq_true, if_false, Block.onMsp_of_on hon]
      rfl
    · simp only [exec, execMspLogout, State.act_next, Block.onMsp_of_on hon]
      rfl
    · have hevt := Bool.toNat_le s.block.mspBegin.msp.evt
      have hready := Bool.toNat_le (s.block.mspBegin.boot.phase == .ready)
      have hfail := Bool.toNat_le (s.block.mspBegin.boot.phase == .failed || s.block.mspBegin.kettle.haltCode != 0)
      have hlock := Bool.toNat_le (decide (s.block.mspBegin.now < s.block.mspBegin.msp.lockUntil))
      have hsess := Bool.toNat_le s.block.mspBegin.msp.session
      refine ⟨?_, ?_, ?_, ?_, ?_⟩ <;> rw [hst] <;> omega
  · simp only [exec, execMspSessionIdleExpiry, State.act_next, Block.sessionEnds, hopen, if_true]
    rfl
  · rfl
  · decide

/-- Settles O25: the four branches of LOGIN. -/
theorem mspLogin : Obligations.MspLogin := by
  unfold Obligations.MspLogin
  intro lanes data s hon b
  have login : exec (.mspLogin lanes data) s = .next (s.onBlock (s.block.mspLogin s.fuses data)) := by
    simp only [exec, execMspLogin, State.act_next, Block.onMsp_of_on hon]
    rfl
  rw [login, Block.mspLogin]
  refine ⟨fun hlock => ?_, fun hlock hlen => ?_, fun hlock hlen hmatch => ?_, fun hlock hlen hpwd hsha => ?_⟩
  · rw [if_pos hlock]
    rfl
  · rw [if_neg (Nat.not_lt.mpr hlock), if_pos hlen]
    rfl
  · rw [if_neg (Nat.not_lt.mpr hlock), if_neg (not_not_intro hlen), if_pos (by simpa using hmatch)]
    rfl
  · rw [if_neg (Nat.not_lt.mpr hlock), if_neg (not_not_intro hlen), if_neg (by simp [hpwd, hsha])]
    rfl

/-! ### READ of one register -/

theorem Block.mspRead_early (b : Block) (f : Fuses) (a n wait : Nat) (ps : List Nat) :
    b.mspRead f a n wait ps .early = b.mspBegin.mspEnd 6 [] := rfl

theorem burstAddrs_one (a : BitVec 32) : burstAddrs a.toNat 1 = [a.toNat] := by
  simp [burstAddrs, Nat.mod_eq_of_lt a.isLt]

/-- What a step of a burst leaves: the block, the first fault and the bytes sent. -/
def Burst.leaves (w : Burst) (b : Block) (err : Nat) (out : List Byte) : Prop := w.blk = b ∧ w.err = err ∧ w.out = out

theorem take_append_leBytes (pre : List Byte) (v : Nat) : (pre ++ leBytes 4 v).take (pre.length + 4) = pre ++ leBytes 4 v :=
  List.take_of_length_le (by simp)

/-- A READ of one aligned register is the burst's one step. -/
theorem Block.mspRead_of_readOne {b b' : Block} {f : Fuses} {a : BitVec 32} {wait pace err v : Nat} {pre : List Byte} (h4 : a.toNat % 4 = 0)
    (hpre : List.replicate wait (byteOf (b.mspBegin.status false)) ++ [byteOf (b.mspBegin.status true)] = pre)
    (hw : ((⟨b.mspBegin, 0, pre, []⟩ : Burst).readOne f a.toNat pace).leaves b' err (pre ++ leBytes 4 v)) :
    b.mspRead f a.toNat 1 wait [pace] .none = b'.mspEnd err (pre ++ leBytes 4 v) := by
  obtain ⟨hblk, herr, hout⟩ := hw
  rw [← take_append_leBytes, ← hblk, ← herr, ← hout, ← hpre]
  simp only [Block.mspRead, h4, ne_eq, not_true_eq_false, if_false, reduceCtorEq, if_true, burstAddrs_one]
  rfl

section
variable {f : Fuses} {w : Burst} {a wait : Nat}

theorem Burst.readOne_of_absent (ha : a ≠ 0x700020) (h : (w.blk.advanceTo (w.blk.now + wait)).readReg f a = none) :
    (w.readOne f a wait).leaves (w.blk.advanceTo (w.blk.now + wait)) (firstErr w.err 3) (w.out ++ leBytes 4 0) := by
  simp only [Burst.readOne, h, if_neg ha, ite_self]
  exact ⟨rfl, rfl, rfl⟩

theorem Burst.readOne_of_refused {v : Nat} (h : (w.blk.advanceTo (w.blk.now + wait)).readReg f a = some v) (hs : w.blk.msp.session = false)
    (ho : openRead a = false) :
    (w.readOne f a wait).leaves (w.blk.advanceTo (w.blk.now + wait)) (firstErr w.err 1) (w.out ++ leBytes 4 0) := by
  simp only [Burst.readOne, Block.advanceTo_msp, hs, ho, h, Bool.not_false, Bool.and_self, if_true]
  exact ⟨rfl, rfl, rfl⟩

/-- What a register that is read first in its burst sends; later registers alone depend on what is kept. -/
theorem Burst.readOne_of_value {v : Nat} (ha : a ≠ 0x700020) (h : (w.blk.advanceTo (w.blk.now + wait)).readReg f a = some v)
    (hs : w.blk.msp.session = true ∨ openRead a = true) (hk : w.kept = []) :
    (w.readOne f a wait).leaves (w.blk.advanceTo (w.blk.now + wait)) w.err (w.out ++ leBytes 4 v) := by
  have hread : (!w.blk.msp.session && !openRead a) = false := by
    rcases hs with h | h <;> simp [h]
  simp only [Burst.readOne, Block.advanceTo_msp, hread, Bool.false_eq_true, if_false, if_neg ha, h, hk, List.find?_nil]
  exact ⟨rfl, rfl, rfl⟩

end

/-- Settles O26: a READ of one register is one step of its burst, whose branches are those of R367 and R370. -/
theorem mspReadOneRegister : Obligations.MspReadOneRegister := by
  unfold Obligations.MspReadOneRegister
  intro lanes addr wait pace s hon b0 b pre done
  have read : ∀ n ps cut, exec (.mspRead lanes addr n wait ps cut) s = .next (s.onBlock (s.block.mspRead s.fuses addr.toNat n wait ps cut)) := by
    intro n ps cut
    simp only [exec, execMspRead, State.act_next, Block.onMsp_of_on hon]
    rfl
  have haddr : addr ≠ 0x700020 → addr.toNat ≠ 0x700020 := fun h e => h (BitVec.eq_of_toNat_eq e)
  refine ⟨fun n ps => ?_, fun h4 => ?_, fun ha => ⟨fun h4 hr => ?_, fun v h4 hr hs ho => ?_, fun v h4 hr hs => ?_⟩⟩
  · rw [read, Block.mspRead_early]
    rfl
  · simp only [read, Block.mspRead, reduceCtorEq, if_false, if_pos h4]
    rfl
  · rw [read, Block.mspRead_of_readOne h4 rfl (Burst.readOne_of_absent (haddr ha) hr)]
    rfl
  · rw [read, Block.mspRead_of_readOne h4 rfl (Burst.readOne_of_refused hr hs ho)]
    rfl
  · rw [read, Block.mspRead_of_readOne h4 rfl (Burst.readOne_of_value (haddr ha) hr hs rfl)]
    rfl

/-! ### WRITE of one register -/

theorem field_leBytes (v : BitVec 32) : field (leBytes 4 v.toNat) 0 4 = v.toNat := by
  have hall : slice (leBytes 4 v.toNat) 0 4 = leBytes 4 v.toNat := List.take_of_length_le (Nat.le_of_eq (length_leBytes 4 v.toNat))
  rw [field, hall, leNat_leBytes]
  exact Nat.mod_eq_of_lt v.isLt

/-- A WRITE of one aligned register is the burst's one step. -/
theorem Block.mspWrite_one (b : Block) (f : Fuses) {a : Nat} (v : BitVec 32) (ha : a < 2 ^ 32) (h4 : a % 4 = 0) :
    b.mspWrite f a (leBytes 4 v.toNat) false =
      let w := (⟨b.mspBegin, f, 0⟩ : WBurst).one a v.toNat
      (w.blk.mspEnd w.err [], w.fz) := by
  have haddrs : burstAddrs a 1 = [a] := burstAddrs_one (BitVec.ofNatLT a ha)
  have hburst : ¬(a = 0x40 ∧ 4 = 16) := by simp
  simp only [Block.mspWrite, Bool.false_eq_true, if_false, h4, ne_eq, not_true_eq_false, if_neg hburst, length_leBytes, Nat.div_self, haddrs,
    Nat.zero_lt_succ, List.zipIdx_singleton, List.foldl_cons, List.foldl_nil, Nat.mul_zero, field_leBytes, if_true]

theorem State.mspWrite_of_on {s : State} (h : s.block.mspOff = false) (a : Nat) (data : List Byte) (early : Bool) :
    s.mspWrite a data early = .next { s with
      block := finish s.block (s.block.mspWrite s.fuses a data early).1, fuses := (s.block.mspWrite s.fuses a data early).2 } := by
  simp only [State.mspWrite, State.actFuses_next, h, Bool.false_eq_true, if_false]

theorem WBurst.one_of_absent {w : WBurst} {a : Nat} (v : Nat) (h : w.blk.readReg w.fz a = none) :
    w.one a v = { w with err := firstErr w.err 3 } := by
  simp only [WBurst.one, h]

theorem WBurst.one_of_refused {w : WBurst} {a x : Nat} (v : Nat) (h : w.blk.readReg w.fz a = some x) (hs : w.blk.msp.session = false) :
    w.one a v = { w with err := firstErr w.err 1 } := by
  simp only [WBurst.one, h, hs, Bool.not_false, if_true]

theorem WBurst.one_of_session {w : WBurst} {a x : Nat} (v : Nat) (h : w.blk.readReg w.fz a = some x) (hs : w.blk.msp.session = true) :
    w.one a v = ⟨(w.blk.writeReg w.fz a v).1, (w.blk.writeReg w.fz a v).2.1, firstErr w.err (w.blk.writeReg w.fz a v).2.2⟩ := by
  simp only [WBurst.one, h, hs, Bool.not_true, Bool.false_eq_true, if_false]

/-- Settles O27: a WRITE of one register is one step of its burst, whose branches are those of R367 and R370. -/
theorem registerWriteGate : Obligations.RegisterWriteGate := by
  unfold Obligations.RegisterWriteGate
  intro lanes addr v s hon b fault
  have write := State.mspWrite_of_on hon addr.toNat (leBytes 4 v.toNat) false
  have hreg : exec (.registerWrite addr v) s = s.mspWrite addr.toNat (leBytes 4 v.toNat) false := rfl
  refine ⟨rfl, fun bs => ?_, fun h4 => ?_, fun h4 hr => ?_, fun x h4 hr hs => ?_, fun x h4 hr hs => ?_⟩
  · simp only [exec, execMspWrite]
    rw [State.mspWrite_of_on hon, Block.mspWrite, if_pos rfl]
    rfl
  · rw [hreg, write]
    simp only [Block.mspWrite, Bool.false_eq_true, if_false, if_pos h4]
    rfl
  · rw [hreg, write, Block.mspWrite_one _ _ v addr.isLt h4]
    simp only [WBurst.one_of_absent (w := ⟨s.block.mspBegin, s.fuses, 0⟩) v.toNat hr]
    rfl
  · rw [hreg, write, Block.mspWrite_one _ _ v addr.isLt h4]
    simp only [WBurst.one_of_refused (w := ⟨s.block.mspBegin, s.fuses, 0⟩) v.toNat hr hs]
    rfl
  · rw [hreg, write, Block.mspWrite_one _ _ v addr.isLt h4]
    simp only [WBurst.one_of_session (w := ⟨s.block.mspBegin, s.fuses, 0⟩) v.toNat hr hs]
    rfl

/-! ### A register written within a session -/

section
variable {s : State} (hm : s.block.managed = true)
include hm

theorem Block.on_of_managed : s.block.mspOff = false := by
  simp only [Block.managed, Bool.and_eq_true, Bool.not_eq_true'] at hm
  exact hm.1.1

theorem Block.session_of_managed : s.block.msp.session = true := by
  simp only [Block.managed, Bool.and_eq_true] at hm
  exact hm.1.2

theorem Block.mspBegin_of_managed : s.block.mspBegin = s.block := by
  simp only [Block.managed, Bool.and_eq_true, decide_eq_true_eq] at hm
  rw [Block.mspBegin, if_neg (fun h => absurd h.2 (Nat.not_le.mpr hm.2))]

/-- A write within a session, of a register that exists, has that register's effect. -/
theorem State.regWrite_of_managed {a x : Nat} (v : BitVec 32) (ha : a < 2 ^ 32) (h4 : a % 4 = 0) (hr : s.block.readReg s.fuses a = some x) :
    s.regWrite a v.toNat = .next { s with
      block := finish s.block ((s.block.writeReg s.fuses a v.toNat).1.mspEnd (s.block.writeReg s.fuses a v.toNat).2.2 [])
      fuses := (s.block.writeReg s.fuses a v.toNat).2.1 } := by
  rw [State.regWrite, State.mspWrite_of_on (Block.on_of_managed hm), Block.mspWrite_one _ _ v ha h4, Block.mspBegin_of_managed hm]
  simp only [WBurst.one_of_session (w := ⟨s.block, s.fuses, 0⟩) v.toNat hr (Block.session_of_managed hm)]
  rfl

/-- Outside the KTL block only the block changes. -/
theorem State.regWrite_outer {a x : Nat} (v : BitVec 32) (hlow : 0x10000 ≤ a) (ha : a < 2 ^ 32) (h4 : a % 4 = 0)
    (hr : s.block.readReg s.fuses a = some x) : s.regWrite a v.toNat = .next (s.afterWrite (s.block.writeOuter a v.toNat)) := by
  have hwrite : s.block.writeReg s.fuses a v.toNat = (s.block.writeOuter a v.toNat, s.fuses, 0) := by
    have hremap : isRemapWr a = false := by simp only [isRemapWr, Bool.and_eq_false_iff, decide_eq_false_iff_not]; omega
    simp (disch := omega) only [Block.writeReg, if_neg, hremap, Bool.false_eq_true, if_false]
  rw [State.regWrite_of_managed hm v ha h4 hr, hwrite]
  rfl

/-! ### Fuse burns (R372) -/

theorem State.regWrite_fuseProg (v : BitVec 32) :
    s.regWrite 0x2C v.toNat = .next { s with
      block := finish s.block (s.block.mspEnd (s.fuses.program v.toNat s.block.now).2 []), fuses := (s.fuses.program v.toNat s.block.now).1 } :=
  State.regWrite_of_managed hm v (by decide) (by decide) rfl

end

theorem Fuses.program_password (f : Fuses) (now : Nat) : f.program 0xA5D1 now =
    if f.pwdSet = true ∨ f.busy.isSome = true then (f, 7) else ({ f with busy := some (0x0000A5D1, f.staged 8), burnAt := now }, 0) := rfl

theorem Fuses.program_anchor (f : Fuses) (now : Nat) : f.program 0xA5D2 now =
    if f.anchorSet = true ∨ f.busy.isSome = true then (f, 7) else ({ f with busy := some (0x0000A5D2, f.staged 12), burnAt := now }, 0) := rfl

theorem exec_fuseBurnPassword_of_managed {s : State} (hm : s.block.managed = true) : exec .fuseBurnPassword s = .next { s with
    block := finish s.block (s.block.mspEnd (s.fuses.program 0xA5D1 s.block.now).2 []), fuses := (s.fuses.program 0xA5D1 s.block.now).1 } :=
  State.regWrite_fuseProg hm 0xA5D1

theorem exec_fuseBurnAnchor_of_managed {s : State} (hm : s.block.managed = true) : exec .fuseBurnAnchor s = .next { s with
    block := finish s.block (s.block.mspEnd (s.fuses.program 0xA5D2 s.block.now).2 []), fuses := (s.fuses.program 0xA5D2 s.block.now).1 } :=
  State.regWrite_fuseProg hm 0xA5D2

theorem exec_fuseBurnComplete (s : State) : exec .fuseBurnComplete s = .next { s with fuses := s.fuses.burnt } := by
  simp only [exec, execFuseBurnComplete, State.actFuses_next, finish_self]

/-- Settles O28: KTL_FUSE_PROG's two codes, and the end of each burn. -/
theorem fuseBurns : Obligations.FuseBurns := by
  unfold Obligations.FuseBurns
  intro s hm b f
  have pwd := exec_fuseBurnPassword_of_managed hm
  have anchor := exec_fuseBurnAnchor_of_managed hm
  refine ⟨fun hset hbusy => ?_, fun href => ?_, fun hset hbusy => ?_, fun href => ?_, fun bs hbusy => ?_, fun bs hbusy => ?_⟩
  · rw [pwd, Fuses.program_password, if_neg (by simp [hset, hbusy, f])]
    rfl
  · rw [pwd, Fuses.program_password, if_pos href]
    rfl
  · rw [anchor, Fuses.program_anchor, if_neg (by simp [hset, hbusy, f])]
    rfl
  · rw [anchor, Fuses.program_anchor, if_pos href]
    rfl
  · rw [exec_fuseBurnComplete, Fuses.burnt, hbusy]
    rfl
  · rw [exec_fuseBurnComplete, Fuses.burnt, hbusy]
    rfl

end Sys2Proof.Machine
end

/-! PROOF. Remap records through the port (R190, R373), and the registers that requests and values are written to (R377, R419): the write is recorded, and
takes effect at once, at the next KT or at a fence. -/
section
namespace Sys2Proof.Machine
open Sys2Proof

/-! ### Remap records -/

theorem Block.remapFrom_msp {b : Block} {kind : Nat} {bs : List Byte} (hon : b.mspOff = false) (hlen : bs.length = 16) (hk : field bs 4 1 = kind) :
    b.remapFrom kind (.msp bs) =
      if b.mspBegin.msp.session then (b.mspBegin.remapTake bs).mspEnd 0 [] else b.mspBegin.mspEnd 1 [] := by
  simp only [Block.remapFrom, hlen, hk, ne_eq, not_true_eq_false, or_self, if_false, Block.onMsp_of_on hon]

section
variable {b : Block} {bs : List Byte}

theorem Block.remapTake_of_not_ready (h : b.boot.phase ≠ .ready) : b.remapTake bs = b := by
  simp only [Block.remapTake, if_pos h]

section
variable (h : b.boot.phase = .ready)
include h

theorem Block.remapTake_of_broken (hp : RemapRec.parse bs = none) : b.remapTake bs = b.log 0x0134 .kettle none [] := by
  simp only [Block.remapTake, if_neg (not_not_intro h), hp]

variable {r : RemapRec} (hp : RemapRec.parse bs = some r)
include hp

theorem Block.remapTake_of_old (hg : r.gen ≤ b.remap.gen) : b.remapTake bs = b := by
  simp only [Block.remapTake, if_neg (not_not_intro h), hp, if_pos hg]

theorem Block.remapTake_of_next (hg : r.gen = b.remap.gen + 1) :
    b.remapTake bs = (((b.remapTurn 17 r).judgeGen).releaseHeld.raiseRequests).scanReady := by
  have hnew : ¬ r.gen ≤ b.remap.gen := by omega
  simp only [Block.remapTake, if_neg (not_not_intro h), hp, if_neg hnew, if_pos hg]

theorem Block.remapTake_of_later (hg : b.remap.gen + 1 < r.gen) (hnone : ∀ q ∈ b.remap.held, q.gen ≠ r.gen) (hroom : b.remap.held.length < 16) :
    b.remapTake bs = { b with remap := { b.remap with held := b.remap.held ++ [r] } } := by
  have hnew : ¬ r.gen ≤ b.remap.gen := by omega
  have hlater : r.gen ≠ b.remap.gen + 1 := by omega
  have hfind : b.remap.held.find? (fun q => q.gen == r.gen) = none := by simpa using hnone
  simp only [Block.remapTake, if_neg (not_not_intro h), hp, if_neg hnew, if_neg hlater, hfind, if_neg (Nat.not_le.mpr hroom)]

end

theorem Block.remapTurn_of_broken {n : Nat} {r : RemapRec} (h : b.remap.applied b.boot.machine r = none) :
    b.remapTurn (n + 1) r = b.log 0x0134 .kettle none [] := by
  change (match b.remap.applied b.boot.machine r with | none => b.log 0x0134 .kettle none [] | some t => _) = _
  rw [h]

theorem Block.remapTurn_of_applied {n : Nat} {r : RemapRec} {t : Remap} (h : b.remap.applied b.boot.machine r = some t)
    (hheld : ((b.remapped t r).floodRecord r).remap.held = []) : b.remapTurn (n + 1) r = (b.remapped t r).floodRecord r := by
  change (match b.remap.applied b.boot.machine r with
    | none => b.log 0x0134 .kettle none []
    | some t => _) = _
  rw [h]
  simp only [hheld, List.find?_nil]

end

/-- The three commands are one, with the kind that the record names. -/
theorem exec_remap_of_on {kind : Nat} {bs : List Byte} {s : State} (hon : s.block.mspOff = false) (hlen : bs.length = 16)
    (hk : field bs 4 1 = kind) (hkind : kind ∈ [1, 2, 3]) :
    exec (if kind = 1 then Instr.remapAssume (.msp bs) else if kind = 2 then Instr.remapRelease (.msp bs) else Instr.remapExclude (.msp bs)) s =
      .next (s.onBlock (if s.block.mspBegin.msp.session then (s.block.mspBegin.remapTake bs).mspEnd 0 [] else s.block.mspBegin.mspEnd 1 [])) := by
  rw [← Block.remapFrom_msp hon hlen hk]
  simp only [List.mem_cons, List.not_mem_nil, or_false] at hkind
  obtain rfl | rfl | rfl := hkind <;> rfl

/-- Settles O29: the record's branches, each carried through the transaction that brings it. -/
theorem remapRecords : Obligations.RemapRecords := by
  unfold Obligations.RemapRecords
  intro kind bs s hon hlen hk hkind i b
  have run := exec_remap_of_on hon hlen hk hkind
  have take : ∀ {n : Block}, b.msp.session = true → b.remapTake bs = n → exec i s = .next (s.onBlock (n.mspEnd 0 [])) := by
    intro n hs hn
    rw [← hn]
    exact run.trans (by rw [if_pos hs])
  refine ⟨fun hs => ?_, fun hs h => ?_, fun hs h hp => ?_, fun r hs h hp hg => ?_, fun r t hs h hp hg ht hheld => ?_, fun r hs h hp hg ht => ?_,
    fun r hs h hp hg hnone hroom => ?_⟩
  · exact run.trans (by rw [if_neg (by simp [b] at hs; simp [hs])])
  · exact take hs (Block.remapTake_of_not_ready h)
  · exact take hs (Block.remapTake_of_broken h hp)
  · exact take hs (Block.remapTake_of_old h hp hg)
  · exact take hs ((Block.remapTake_of_next h hp hg).trans (by rw [Block.remapTurn_of_applied ht hheld]))
  · exact take hs ((Block.remapTake_of_next h hp hg).trans (by rw [Block.remapTurn_of_broken ht]))
  · exact take hs (Block.remapTake_of_later h hp hg hnone hroom)

/-! ### Writes by address (R415) -/

section
variable {b : Block} (hin : b.inReset = false)
include hin

theorem Block.writeOuter_cmbAddr (c : CombId) {o : Nat} (v : Nat) (ho : o < 0x40000) : b.writeOuter (cmbAddr c o) v = b.writeCmb c o v := by
  have hunit : Fin.ofNat 4 ((0x100000 + c.val * 0x40000 + o - 0x100000) / 0x40000) = c := Fin.ext (by rw [Fin.val_ofNat]; omega)
  have hoff : (0x100000 + c.val * 0x40000 + o - 0x100000) % 0x40000 = o := by omega
  simp (disch := omega) only [Block.writeOuter, cmbAddr, if_neg, if_pos, hin, Bool.false_eq_true, if_false, hunit, hoff]

theorem Block.writeOuter_lnkAddr (l : LinkId) {o : Nat} (v : Nat) (ho : o < 0x1000) : b.writeOuter (lnkAddr l o) v = b.writeLnk l o v := by
  have hunit : Fin.ofNat 42 ((0x300000 + l.val * 0x1000 + o - 0x300000) / 0x1000) = l := Fin.ext (by rw [Fin.val_ofNat]; omega)
  have hoff : (0x300000 + l.val * 0x1000 + o - 0x300000) % 0x1000 = o := by omega
  simp (disch := omega) only [Block.writeOuter, lnkAddr, if_neg, if_pos, hin, Bool.false_eq_true, if_false, hunit, hoff]

theorem Block.writeOuter_prtAddr (p : PartId) {o : Nat} (v : Nat) (ho : o < 0x400) : b.writeOuter (prtAddr p o) v = b.writePrt p o v := by
  have hunit : Fin.ofNat 128 ((0x400000 + p.val * 0x400 + o - 0x400000) / 0x400) = p := Fin.ext (by rw [Fin.val_ofNat]; omega)
  have hoff : (0x400000 + p.val * 0x400 + o - 0x400000) % 0x400 = o := by omega
  simp (disch := omega) only [Block.writeOuter, prtAddr, if_neg, if_pos, hin, Bool.false_eq_true, if_false, hunit, hoff]

theorem Block.writeOuter_hbm {a : Nat} (v : Nat) (hlow : 0x600000 ≤ a) (hhigh : a < 0x700000) :
    b.writeOuter a v = b.writeHbm (a - 0x600000) v := by
  simp (disch := omega) only [Block.writeOuter, if_neg, if_pos, hin, Bool.false_eq_true, if_false]

theorem Block.writeOuter_pwr {a : Nat} (v : Nat) (hlow : 0x800000 ≤ a) : b.writeOuter a v = b.writePwr (a - 0x800000) v := by
  simp (disch := omega) only [Block.writeOuter, if_neg, hin, Bool.false_eq_true, if_false]

end

theorem Block.readCmb_ctrl (b : Block) (c : CombId) : b.readCmb c 4 = some (b.comb c).ctrl.read := rfl
theorem Block.readLnk_ctrl (b : Block) (l : LinkId) : b.readLnk l 4 = some (b.link l).ctrl.read := rfl

section
variable {s : State} (ha : s.block.awake = true)
include ha

theorem Block.managed_of_awake : s.block.managed = true := by
  simp only [Block.awake, Bool.and_eq_true] at ha
  exact ha.1

theorem Block.inReset_of_awake : s.block.inReset = false := by
  simp only [Block.awake, Bool.and_eq_true, Bool.not_eq_true'] at ha
  exact ha.2

theorem State.regWrite_cmb (c : CombId) (v : BitVec 32) {o x : Nat} (ho : o < 0x40000) (h4 : o % 4 = 0) (hr : s.block.readCmb c o = some x) :
    s.regWrite (cmbAddr c o) v.toNat = .next (s.afterWrite (s.block.writeCmb c o v.toNat)) := by
  rw [State.regWrite_outer (Block.managed_of_awake ha) v (by unfold cmbAddr; omega) (by unfold cmbAddr; omega) (by unfold cmbAddr; omega)
    ((s.block.readReg_cmbAddr s.fuses c ho).trans hr), Block.writeOuter_cmbAddr (Block.inReset_of_awake ha) c _ ho]

theorem State.regWrite_lnk (l : LinkId) (v : BitVec 32) {o x : Nat} (ho : o < 0x1000) (h4 : o % 4 = 0) (hr : s.block.readLnk l o = some x) :
    s.regWrite (lnkAddr l o) v.toNat = .next (s.afterWrite (s.block.writeLnk l o v.toNat)) := by
  rw [State.regWrite_outer (Block.managed_of_awake ha) v (by unfold lnkAddr; omega) (by unfold lnkAddr; omega) (by unfold lnkAddr; omega)
    ((s.block.readReg_lnkAddr s.fuses l ho).trans hr), Block.writeOuter_lnkAddr (Block.inReset_of_awake ha) l _ ho]

theorem State.regWrite_prt (p : PartId) (v : BitVec 32) {o : Nat} (ho : o ≤ 0x54) (h4 : o % 4 = 0) :
    s.regWrite (prtAddr p o) v.toNat = .next (s.afterWrite (s.block.writePrt p o v.toNat)) := by
  have hr : ∃ x, s.block.readPrt p o = some x := by
    have hmap : ¬(0x54 < o ∨ o % 4 ≠ 0) := by omega
    simp only [Block.readPrt, if_neg hmap]
    cases (s.block.part p).img <;> exact ⟨_, rfl⟩
  obtain ⟨x, hx⟩ := hr
  rw [State.regWrite_outer (Block.managed_of_awake ha) v (by unfold prtAddr; omega) (by unfold prtAddr; omega) (by unfold prtAddr; omega)
    ((s.block.readReg_prtAddr s.fuses p (by omega)).trans hx), Block.writeOuter_prtAddr (Block.inReset_of_awake ha) p _ (by omega)]

theorem State.regWrite_hbm (v : BitVec 32) {o x : Nat} (ho : o < 0x200) (h4 : o % 4 = 0) (hr : s.block.readHbm o = some x) :
    s.regWrite (0x600000 + o) v.toNat = .next (s.afterWrite (s.block.writeHbm o v.toNat)) := by
  rw [State.regWrite_outer (Block.managed_of_awake ha) v (by omega) (by omega) (by omega)
    ((s.block.readReg_hbm s.fuses ho).trans hr), Block.writeOuter_hbm (Block.inReset_of_awake ha) _ (by omega) (by omega), Nat.add_sub_cancel_left]

theorem State.regWrite_pwr (v : BitVec 32) {o x : Nat} (ho : o < 0xE0) (h4 : o % 4 = 0) (hr : s.block.readPwr o = some x) :
    s.regWrite (0x800000 + o) v.toNat = .next (s.afterWrite (s.block.writePwr o v.toNat)) := by
  rw [State.regWrite_outer (Block.managed_of_awake ha) v (by omega) (by omega) (by omega)
    ((s.block.readReg_pwr s.fuses ho).trans hr), Block.writeOuter_pwr (Block.inReset_of_awake ha) _ (by omega), Nat.add_sub_cancel_left]

end

/-! ### Combs leaving and returning (R331, R334, R377) -/

theorem Block.setComb_setComb (b : Block) (c : CombId) (x y : Comb) : (b.setComb c x).setComb c y = b.setComb c y := by
  simp [Block.setComb]

section
variable {b : Block} {c : CombId}

theorem Block.honourComb_of_waits (h : (b.comb c).ctrl.pend = false ∨ ((b.comb c).ctrl.shown = 1 ∧ (b.comb c).svc = .running)) :
    b.honourComb c = b := by
  simp only [Block.honourComb, Bool.not_eq_true', h, if_true]

variable (hp : (b.comb c).ctrl.pend = true)
include hp

theorem Block.honourComb_of_acts (h : ¬((b.comb c).ctrl.shown = 1 ∧ (b.comb c).svc = .running)) :
    b.honourComb c =
      if (b.comb c).ctrl.shown = 1 ∧ (b.comb c).svc = .idle then
        ((b.setComb c { b.comb c with ctrl := (b.comb c).ctrl.honoured }).releaseIdle c).scanReady
      else if (b.comb c).ctrl.shown = 2 ∧ ((b.comb c).svc = .released ∨ (b.comb c).svc = .failed) ∧ (b.comb c).waking = false ∧ b.serving = true then
        b.setComb c { b.comb c with ctrl := (b.comb c).ctrl.honoured, waking := true, due := b.now + 10000 }
      else b.setComb c { b.comb c with ctrl := (b.comb c).ctrl.honoured } := by
  have hacts : ¬((b.comb c).ctrl.pend = false ∨ ((b.comb c).ctrl.shown = 1 ∧ (b.comb c).svc = .running)) := by
    simpa [hp] using h
  simp only [Block.honourComb, if_neg hacts, Bool.not_eq_true', Block.modComb, Block.comb_setComb_self, Block.setComb_setComb]
  rfl

end

/-- Settles O30: CMB_CTRL's writes, what the next KT makes of them, and that it is the KT's operation. -/
theorem combServiceRequests : Obligations.CombServiceRequests := by
  unfold Obligations.CombServiceRequests
  refine ⟨fun c s ha => ⟨?_, ?_, ?_⟩, fun c b => ?_, fun c t => rfl⟩
  · exact State.regWrite_cmb ha c 1 (by decide) (by decide) (s.block.readCmb_ctrl c)
  · exact State.regWrite_cmb ha c 2 (by decide) (by decide) (s.block.readCmb_ctrl c)
  · exact State.regWrite_cmb ha c 0 (by decide) (by decide) (s.block.readCmb_ctrl c)
  · refine ⟨fun hp => Block.honourComb_of_waits (.inl hp), fun _ h1 hr => Block.honourComb_of_waits (.inr ⟨h1, hr⟩), fun hp h1 hi => ?_,
      fun hp h1 hout => ?_, fun hp h2 hout hw hs => ?_, fun hp h2 hno => ?_⟩
    · rw [Block.honourComb_of_acts hp (by simp [hi]), if_pos ⟨h1, hi⟩]
      rfl
    · have hidle : ¬((b.comb c).ctrl.shown = 1 ∧ (b.comb c).svc = .idle) := fun h => by rcases hout with e | e <;> simp [h.2] at e
      have hrun : ¬((b.comb c).ctrl.shown = 1 ∧ (b.comb c).svc = .running) := fun h => by rcases hout with e | e <;> simp [h.2] at e
      rw [Block.honourComb_of_acts hp hrun, if_neg hidle, if_neg (fun h => by simp [h1] at h)]
      rfl
    · rw [Block.honourComb_of_acts hp (fun h => by simp [h2] at h), if_neg (fun h => by simp [h2] at h), if_pos ⟨h2, hout, hw, hs⟩]
      rfl
    · rw [Block.honourComb_of_acts hp (fun h => by simp [h2] at h), if_neg (fun h => by simp [h2] at h), if_neg (fun h => hno h.2)]
      rfl

/-! ### Links taken out and brought back (R377, R429) -/

theorem Block.mem_linkParts (b : Block) (l : LinkId) (p : PartId) :
    p.val ∈ b.linkParts l ↔ b.active p = true ∧ 1 < extent (b.part p).vset (linkDim l) := by
  simp [Block.linkParts, allParts, Fin.val_inj]

/-- The fences that link `l`'s request still waits for, partition `fenced` having had its own. -/
def Link.fencesLeft (x : Link) (fenced : Option PartId) : List Nat :=
  match fenced with | some p => x.tr.ctrlWait.filter (· != p.val) | none => x.tr.ctrlWait

section
variable {b : Block} {l : LinkId} {fenced : Option PartId}

theorem Block.honourLink_of_none (hp : (b.link l).ctrl.pend = false) : Block.honourLink fenced b l = b := by
  simp only [Block.honourLink, hp, Bool.not_false, if_true]

theorem Block.honourLink_of_pend (hp : (b.link l).ctrl.pend = true) :
    Block.honourLink fenced b l =
      if ((b.link l).fencesLeft fenced).isEmpty = true ∨ (b.linkSteps l).isEmpty = true then
        if (b.link l).ctrl.shown = 1 then (b.setLink l { b.link l with
          ctrl := { (b.link l).ctrl with pend := false, eff := (b.link l).ctrl.shown }, tr := { (b.link l).tr with ctrlWait := [] } }).takeOut l
        else if (b.link l).ctrl.shown = 2 then (b.setLink l { b.link l with
          ctrl := { (b.link l).ctrl with pend := false, eff := (b.link l).ctrl.shown }, tr := { (b.link l).tr with ctrlWait := [] } }).bringBack l
        else b.setLink l { b.link l with
          ctrl := { (b.link l).ctrl with pend := false, eff := (b.link l).ctrl.shown }, tr := { (b.link l).tr with ctrlWait := [] } }
      else b.setLink l { b.link l with tr := { (b.link l).tr with ctrlWait := (b.link l).fencesLeft fenced } } := by
  simp only [Block.honourLink, hp, Bool.not_true, Bool.false_eq_true, if_false]
  rfl

end

/-- Settles O31: LNK_CTRL's writes, what a fence or a KT makes of them, and that it is the KT's operation. -/
theorem linkServiceRequests : Obligations.LinkServiceRequests := by
  unfold Obligations.LinkServiceRequests
  refine ⟨fun l s ha => ⟨?_, ?_, ?_, s.block.mem_linkParts l⟩, fun l fenced b => ?_, fun l t => rfl⟩
  · exact State.regWrite_lnk ha l 1 (by decide) (by decide) (s.block.readLnk_ctrl l)
  · exact State.regWrite_lnk ha l 2 (by decide) (by decide) (s.block.readLnk_ctrl l)
  · exact State.regWrite_lnk ha l 0 (by decide) (by decide) (s.block.readLnk_ctrl l)
  · refine ⟨Block.honourLink_of_none, fun hp hw hs => ?_, fun hp hdone => ?_⟩
    · have hwaits : ¬(((b.link l).fencesLeft fenced).isEmpty = true ∨ (b.linkSteps l).isEmpty = true) := by
        rw [List.isEmpty_iff, List.isEmpty_iff]
        exact not_or.mpr ⟨hw, hs⟩
      rw [Block.honourLink_of_pend hp, if_neg hwaits]
      rfl
    · have hgo : ((b.link l).fencesLeft fenced).isEmpty = true ∨ (b.linkSteps l).isEmpty = true := by
        rw [List.isEmpty_iff, List.isEmpty_iff]
        exact hdone
      rw [Block.honourLink_of_pend hp, if_pos hgo]
      exact ⟨fun h1 => if_pos h1, fun h2 => by rw [if_neg (fun h => by simp [h2] at h), if_pos h2]⟩

/-! ### Registers that hold a value -/

theorem Block.writePrt_weight (b : Block) (p : PartId) (v : Nat) : b.writePrt p 0x14 v = b.writeWeight p v := rfl
theorem Block.writePrt_timeout (b : Block) (p : PartId) (v : Nat) : b.writePrt p 0x10 v = b.writeTimeout p v := rfl
theorem Block.readHbm_scrubHours (b : Block) : b.readHbm 0x40 = some b.hbm.scrubHours := rfl
theorem Block.writeHbm_scrubHours (b : Block) (v : Nat) :
    b.writeHbm 0x40 v = if 4 ≤ v % 256 ∧ v % 256 ≤ 168 then b.setScrubHours (v % 256) else b := rfl

theorem bitAt_toNat (v : BitVec 32) (k : Nat) : bitAt v.toNat k = v.getLsbD k := by
  rw [bitAt, BitVec.getLsbD, Nat.testBit_eq_decide_div_mod_eq, Nat.shiftRight_eq_div_pow]
  rfl

theorem Block.writeOuter_evlAck (b : Block) (v : Nat) :
    b.writeOuter 0x700004 v = { b with evl := { b.evl with ack := BitVec.ofNat 32 v } } := rfl
theorem Block.writeOuter_evlSel (b : Block) (v : Nat) :
    b.writeOuter 0x70000C v = { b with evl := { b.evl with sel := BitVec.ofNat 32 v, miss := false, copy := none } } := rfl

/-- Settles O32: each write meets its register's range check, and the scrubber's new pass time takes effect in the next KT. -/
theorem valueRegisterWrites : Obligations.ValueRegisterWrites := by
  unfold Obligations.ValueRegisterWrites
  intro v s b
  refine ⟨fun ha => ⟨fun p hd hv => ?_, fun p hv => ?_, fun p hd hlo hhi => ?_, fun p hv => ?_, fun l => ?_, fun hv => ?_, fun hlo hhi => ?_⟩,
    ⟨⟨rfl, ?_⟩, fun hold => ?_, fun hold => ?_⟩, fun hm => ⟨?_, ?_, ?_, fun kt => ⟨fun h => ?_, fun h => ?_⟩⟩⟩
  · refine (State.regWrite_prt ha p v (by decide) (by decide)).trans ?_
    rw [Block.writePrt_weight, Block.writeWeight, if_neg (by simp [b] at hd; simp [hd, hv])]
    rfl
  · refine (State.regWrite_prt ha p v (by decide) (by decide)).trans ?_
    rw [Block.writePrt_weight, Block.writeWeight, if_pos (by simpa using hv)]
  · refine (State.regWrite_prt ha p v (by decide) (by decide)).trans ?_
    rw [Block.writePrt_timeout, Block.writeTimeout, if_neg (by simp [b] at hd; simp [hd]; omega)]
    rfl
  · refine (State.regWrite_prt ha p v (by decide) (by decide)).trans ?_
    rw [Block.writePrt_timeout, Block.writeTimeout, if_pos (by simpa using hv)]
  · exact State.regWrite_lnk ha l v (by decide) (by decide) rfl
  · refine (State.regWrite_hbm ha v (by decide) (by decide) (Block.readHbm_scrubHours _)).trans ?_
    rw [Block.writeHbm_scrubHours, if_neg (by omega)]
  · refine (State.regWrite_hbm ha v (by decide) (by decide) (Block.readHbm_scrubHours _)).trans ?_
    rw [Block.writeHbm_scrubHours, if_pos ⟨hlo, hhi⟩]
    rfl
  · simp [State.dues]
  · exact if_neg hold
  · exact if_pos hold
  · refine (State.regWrite_outer (a := 0x700004) hm v (by decide) (by decide) (by decide) rfl).trans ?_
    rw [Block.writeOuter_evlAck, BitVec.ofNat_toNat, BitVec.setWidth_eq]
  · refine (State.regWrite_outer (a := 0x70000C) hm v (by decide) (by decide) (by decide) rfl).trans ?_
    rw [Block.writeOuter_evlSel, BitVec.ofNat_toNat, BitVec.setWidth_eq]
  · refine (State.regWrite_outer (a := 0x20004) hm v (by decide) (by decide) (by decide) rfl).trans ?_
    rw [← bitAt_toNat]
    rfl
  · exact if_neg (Nat.not_lt.mpr h)
  · exact if_pos h

end Sys2Proof.Machine
end

/-! PROOF. The power registers (R394, R419, R436): a floor or a time is a request of the next KT, and PWR_RST_REQ a reset. The event log (R409 to R411). -/
section
namespace Sys2Proof.Machine
open Sys2Proof

/-! ### Power configurations -/

theorem pwrOff_lt (f : PwrField) : pwrOff f < 12 := by cases f <;> decide
theorem pwrOff_mod (f : PwrField) : pwrOff f % 4 = 0 := by cases f <;> decide

section
variable (b : Block) (c : CombId) (d : DimId) (f : PwrField) (v : Nat)

theorem Block.readPwr_comb : ∃ x, b.readPwr (0x10 + 16 * c.val + pwrOff f) = some x := by
  have hf := pwrOff_lt f
  simp (disch := omega) only [Block.readPwr, if_neg, if_pos]
  exact ⟨_, rfl⟩

theorem Block.readPwr_link : ∃ x, b.readPwr (0x80 + 16 * d.val + pwrOff f) = some x := by
  have hf := pwrOff_lt f
  simp (disch := omega) only [Block.readPwr, if_neg, if_pos]
  exact ⟨_, rfl⟩

theorem Block.writePwr_comb : b.writePwr (0x10 + 16 * c.val + pwrOff f) v = b.writePwrComb c f v := by
  have hf := pwrOff_lt f
  have hunit : Fin.ofNat 4 ((0x10 + 16 * c.val + pwrOff f - 0x10) / 16) = c := Fin.ext (by rw [Fin.val_ofNat]; omega)
  have hfield : (0x10 + 16 * c.val + pwrOff f - 0x10) % 16 = pwrOff f := by omega
  simp (disch := omega) only [Block.writePwr, if_neg, if_pos, hunit, hfield]
  cases f <;> rfl

theorem Block.writePwr_link : b.writePwr (0x80 + 16 * d.val + pwrOff f) v = b.writePwrLnk d f v := by
  have hf := pwrOff_lt f
  have hunit : Fin.ofNat 6 ((0x80 + 16 * d.val + pwrOff f - 0x80) / 16) = d := Fin.ext (by rw [Fin.val_ofNat]; omega)
  have hfield : (0x80 + 16 * d.val + pwrOff f - 0x80) % 16 = pwrOff f := by omega
  simp (disch := omega) only [Block.writePwr, if_neg, if_pos, hunit, hfield]
  cases f <;> rfl

theorem Block.writePwr_reset : b.writePwr 0x04 v = if v = 0x5EED ∧ b.resetActs 4 = true then b.nonKettleReset 4 4 else b := rfl

theorem Block.readPwr_reset : b.readPwr 0x04 = some 0 := rfl

end

/-- A reset source acts unless one of the same or a lower number has acted in this KT (R394). -/
theorem Block.resetActs_iff (b : Block) (prec : Nat) :
    b.resetActs prec = true ↔ ∀ t k, b.kettle.rstAt = some (t, k) → t = b.now → prec < k := by
  unfold Block.resetActs Block.resetNow
  match h : b.kettle.rstAt with
  | none => simp
  | some (t, k) =>
    by_cases ht : t = b.now
    · simp [ht]
    · simp only [if_neg ht, true_iff, Option.some.injEq, Prod.mk.injEq]
      rintro t' k' ⟨rfl, rfl⟩ h'
      exact absurd h' ht

theorem exec_pwrRstReq_of_awake {s : State} (ha : s.block.awake = true) (v : BitVec 32) : exec (.pwrRstReq v) s =
    .next (s.afterWrite (if v.toNat = 0x5EED ∧ s.block.resetActs 4 = true then s.block.nonKettleReset 4 4 else s.block)) :=
  State.regWrite_pwr ha v (by decide) (by decide) s.block.readPwr_reset

theorem exec_pwrCombCfgWrite_of_awake {s : State} (ha : s.block.awake = true) (c : CombId) (f : PwrField) (v : BitVec 32) :
    exec (.pwrCombCfgWrite c f v) s = .next (s.afterWrite (s.block.writePwrComb c f v.toNat)) := by
  obtain ⟨x, hx⟩ := s.block.readPwr_comb c f
  have hf := pwrOff_lt f
  have h4 := pwrOff_mod f
  have haddr : 0x800010 + 16 * c.val + pwrOff f = 0x800000 + (0x10 + 16 * c.val + pwrOff f) := by omega
  simp only [exec, execPwrCombCfgWrite]
  rw [haddr, State.regWrite_pwr ha v (by omega) (by omega) hx, Block.writePwr_comb]

theorem exec_pwrLnkCfgWrite_of_awake {s : State} (ha : s.block.awake = true) (d : DimId) (f : PwrField) (v : BitVec 32) :
    exec (.pwrLnkCfgWrite d f v) s = .next (s.afterWrite (s.block.writePwrLnk d f v.toNat)) := by
  obtain ⟨x, hx⟩ := s.block.readPwr_link d f
  have hf := pwrOff_lt f
  have h4 := pwrOff_mod f
  have haddr : 0x800080 + 16 * d.val + pwrOff f = 0x800000 + (0x80 + 16 * d.val + pwrOff f) := by omega
  simp only [exec, execPwrLnkCfgWrite]
  rw [haddr, State.regWrite_pwr ha v (by omega) (by omega) hx, Block.writePwr_link]

theorem Block.honourPwrLnk_eq (b : Block) (d : DimId) : b.honourPwrLnk d =
    if b.serving = true then
      (groupLinks d).foldl (fun n l => n.modLink l (fun y =>
          if y.parked = true ∧ (Pwr.ofCode ((b.pwr.lnkCfg[d]).honoured).floor.eff).code < y.pwr.code then
            { y with pwr := Pwr.ofCode ((b.pwr.lnkCfg[d]).honoured).floor.eff } else y))
        (({ b with pwr := { b.pwr with lnkCfg := b.pwr.lnkCfg.set d (b.pwr.lnkCfg[d]).honoured } } : Block).raiseGroup d
          (Pwr.ofCode ((b.pwr.lnkCfg[d]).honoured).floor.eff))
    else { b with pwr := { b.pwr with lnkCfg := b.pwr.lnkCfg.set d (b.pwr.lnkCfg[d]).honoured } } := by
  have hserving : ({ b with pwr := { b.pwr with lnkCfg := b.pwr.lnkCfg.set d (b.pwr.lnkCfg[d]).honoured } } : Block).serving = b.serving := rfl
  cases h : b.serving <;> simp only [Block.honourPwrLnk, hserving, h, Bool.not_true, Bool.not_false, Bool.false_eq_true, if_true, if_false]

/-- Settles O33: what the writes record, what the next KT makes of it, and the reset request. -/
theorem powerRegisterWrites : Obligations.PowerRegisterWrites := by
  unfold Obligations.PowerRegisterWrites
  refine ⟨fun v s ha => ⟨(exec_pwrCombCfgWrite_of_awake ha · · v), (exec_pwrLnkCfgWrite_of_awake ha · · v), fun k => ⟨rfl, rfl, rfl⟩, fun hv => ?_,
    fun hv hact => ?_, fun k hv hk hle => ?_⟩, fun u => rfl, fun b c => rfl, fun b d => b.honourPwrLnk_eq d, fun t c d => ⟨rfl, rfl⟩⟩
  · have hne : ¬(v.toNat = 0x5EED ∧ s.block.resetActs 4 = true) := fun h => hv (BitVec.eq_of_toNat_eq h.1)
    rw [exec_pwrRstReq_of_awake ha, if_neg hne]
  · rw [exec_pwrRstReq_of_awake ha, if_pos ⟨congrArg BitVec.toNat hv, (s.block.resetActs_iff 4).mpr hact⟩]
  · have hne : ¬(v.toNat = 0x5EED ∧ s.block.resetActs 4 = true) := fun h =>
      absurd ((s.block.resetActs_iff 4).mp h.2 _ _ hk rfl) (Nat.not_lt.mpr hle)
    rw [exec_pwrRstReq_of_awake ha, if_neg hne]

/-! ### The event log (R409 to R411) -/

theorem insertEvent_perm (x : Event) (ys : List Event) : (insertEvent x ys).Perm (x :: ys) := by
  induction ys with
  | nil => exact .refl _
  | cons y ys ih =>
    unfold insertEvent
    split
    · exact (ih.cons y).trans (.swap x y ys)
    · exact .refl _

/-- A log that is not full loses nothing. -/
theorem Evl.push_lost {e : Evl} (x : Event) (h : e.entries.length < 2048) : (e.push x).lost = e.lost := by
  have hfull : decide (2048 ≤ e.entries.length) = false := decide_eq_false (Nat.not_le.mpr h)
  simp only [Evl.push, hfull, Bool.false_and, Bool.false_eq_true, if_false]

section
variable {b : Block} {bs : List Byte}

theorem Block.evlSample_of_present (h : b.evl.entry b.evl.sel = some bs) : b.evlSample none = { b with evl := { b.evl with copy := some bs } } := by
  simp [Block.evlSample, h]

theorem Block.evlSample_of_corrected (h : b.evl.entry b.evl.sel = some bs) :
    b.evlSample (some false) = ({ b with evl := { b.evl with copy := some bs } } : Block).log 0x0331 .kettle none [] := by
  simp [Block.evlSample, h]

theorem Block.evlSample_of_absent (err : Option Bool) (h : b.evl.entry b.evl.sel = none) :
    b.evlSample err = { b with evl := { b.evl with copy := some (zeros 32), miss := true } } := by
  simp [Block.evlSample, h]

end

/-- A READ of EVL_DATA0 within a session sends the first word of the copy that it takes. -/
theorem exec_evlDataRead_of_managed {s : State} (hm : s.block.managed = true) (err : Option Bool) {n : Block} {c : List Byte}
    (hn : s.block.evlSample err = n) (hc : n.evl.copy = some c) :
    exec (.evlDataRead err) s = .next (s.onBlock (n.mspEnd 0 (byteOf (s.block.status true) :: leBytes 4 (field c 0 4)))) := by
  simp only [exec, execEvlDataRead, State.act_next, Block.onMsp_of_on (Block.on_of_managed hm), Block.mspBegin_of_managed hm,
    Block.session_of_managed hm, Bool.not_true, Bool.false_eq_true, if_false, hn, hc]
  rfl

/-- Settles O34: an entry's place, and the three outcomes of sampling the selected one. -/
theorem eventLog : Obligations.EventLog := by
  unfold Obligations.EventLog
  refine ⟨fun b code u p ds => ⟨rfl, rfl, ?_, rfl, fun h => Evl.push_lost _ h⟩, fun x y ys => ⟨insertEvent_perm x ys, rfl⟩, fun err s hm => ?_⟩
  · have hlen : (b.log code u p ds).evl.entries.length = (b.evl.entries.take 2047).length + 1 := (insertEvent_perm _ _).length_eq
    rw [hlen, List.length_take]
    omega
  · refine ⟨fun bs h => ⟨?_, ?_⟩, fun h => ?_⟩
    · exact exec_evlDataRead_of_managed hm none (Block.evlSample_of_present h) rfl
    · exact exec_evlDataRead_of_managed hm (some false) (Block.evlSample_of_corrected h) rfl
    · exact exec_evlDataRead_of_managed hm err (Block.evlSample_of_absent err h) rfl

end Sys2Proof.Machine
end

/-! PROOF. The host ports: handshakes (R302 to R306), and how a descriptor is read and ends (R308 to R311). -/
section
namespace Sys2Proof.Machine
open Sys2Proof

/-! ### HELLO -/

theorem Block.readReg_portStatus (b : Block) (f : Fuses) (h : PortId) : ∃ x, b.readReg f (0x500000 + 4 * h.val) = some x := by
  have hblock : b.readReg f (0x500000 + 4 * h.val) = b.readHst (4 * h.val) := by
    simp (disch := omega) only [Block.readReg, if_neg, if_pos, Nat.add_sub_cancel_left]
  rw [hblock]
  obtain h0 | h1 : h.val = 0 ∨ h.val = 1 := by omega
  · exact ⟨(b.host.ports[(0 : PortId)]).status, by rw [h0]; rfl⟩
  · exact ⟨(b.host.ports[(1 : PortId)]).status, by rw [h1]; rfl⟩

section
variable {b : Block} {h : PortId} {vf : VfId} {m : List Byte}

theorem Block.hello_of_other (hno : b.vfLive h vf = false ∨ m.length ≠ 64 ∨ field m 5 1 ≠ 1) : b.hello h vf m = b := by
  simp only [Block.hello, Bool.not_eq_true', if_pos hno]

section
variable (hlive : b.vfLive h vf = true) (hlen : m.length = 64) (htype : field m 5 1 = 1)
include hlive hlen htype

theorem Block.not_helloOther : ¬((!b.vfLive h vf) = true ∨ m.length ≠ 64 ∨ field m 5 1 ≠ 1) := by
  simp [hlive, hlen, htype]

/-- A HELLO that is refused is answered with its status, and nothing else happens. -/
theorem Block.hello_of_refused {st : Nat} (hst : b.helloStatus h vf m = st) (hne : st ≠ 0) :
    b.hello h vf m = b.draw.2.hostWrite h vf (field m 0x18 8)
      (challenge st (slice m 8 16) ((List.range 16).map (Config.nonceByte b.draw.1)) 0xFFFF) false := by
  have hst' : b.draw.2.helloStatus h vf m = st := hst
  simp only [Block.hello, if_neg (Block.not_helloOther hlive hlen htype), hst', if_neg hne]

/-- A HELLO that is taken leaves its handshake pending in the lowest free context. -/
theorem Block.hello_of_taken (hst : b.helloStatus h vf m = 0) :
    b.hello h vf m = (b.draw.2.hostWrite h vf (field m 0x18 8) (challenge 0 (slice m 8 16) ((List.range 16).map (Config.nonceByte b.draw.1))
        (lowestFree (b.host.ctxs.map Ctx.id) 4096 0)) false).modHost (fun x => { x with
      ctxs := x.ctxs ++ [Ctx.ofHello (lowestFree (b.host.ctxs.map Ctx.id) 4096 0) h vf m ((List.range 16).map (Config.nonceByte b.draw.1)) b.now]
      sessFree := x.sessFree - 1 }) := by
  have hst' : b.draw.2.helloStatus h vf m = 0 := hst
  simp only [Block.hello, if_neg (Block.not_helloOther hlive hlen htype), hst', if_true]
  rfl

end
end

theorem exec_hello (h : PortId) (vf : VfId) (m : List Byte) (s : State) : exec (.hello h vf m) s = .next (s.onBlock (s.block.hello h vf m)) := rfl

/-- Settles O35: the statuses are the branches of `helloStatus`, each with its answer. -/
theorem helloAnswersWithChallenge : Obligations.HelloAnswersWithChallenge := by
  unfold Obligations.HelloAnswersWithChallenge
  intro h vf m s b n ns answer refused
  refine ⟨⟨?_, rfl, ?_, fun o ho => if_neg (by omega)⟩, fun hno => ?_, fun hlive hlen htype => ⟨fun hl => ?_, fun hl hp => ?_, fun hl hp hok => ?_,
    fun hl hp hok hd => ?_, fun hl hp hok hd hfree => ?_, fun hl hp hok hd hfree => ?_⟩⟩
  · simp only [Block.vfBar0, if_true, b2n_eq_toNat, Block.defined, vfPart]
    cases (b.boot.phase == .ready) <;> simp
  · obtain ⟨x, hx⟩ := b.readReg_portStatus s.fuses h
    simp [Block.pfBar0, hx]
  · rw [exec_hello, Block.hello_of_other hno]
  · refine (exec_hello h vf m s).trans (congrArg _ (congrArg _ (Block.hello_of_refused hlive hlen htype ?_ (by decide))))
    exact if_pos hl
  · refine (exec_hello h vf m s).trans (congrArg _ (congrArg _ (Block.hello_of_refused hlive hlen htype ?_ (by decide))))
    rw [Block.helloStatus, if_neg (by simpa using hl), if_pos hp]
  · refine (exec_hello h vf m s).trans (congrArg _ (congrArg _ (Block.hello_of_refused hlive hlen htype ?_ (by decide))))
    rw [Block.helloStatus, if_neg (by simpa using hl), if_neg (not_not_intro hp), if_pos (by simpa using hok)]
  · refine (exec_hello h vf m s).trans (congrArg _ (congrArg _ (Block.hello_of_refused hlive hlen htype ?_ (by decide))))
    rw [Block.helloStatus, if_neg (by simpa using hl), if_neg (not_not_intro hp), if_neg (by simpa using hok), if_pos (by simpa [vfPart] using hd)]
  · refine (exec_hello h vf m s).trans (congrArg _ (congrArg _ (Block.hello_of_refused hlive hlen htype ?_ (by decide))))
    rw [Block.helloStatus, if_neg (by simpa using hl), if_neg (not_not_intro hp), if_neg (by simpa using hok), if_neg (by simpa [vfPart] using hd),
      if_pos hfree]
  · refine (exec_hello h vf m s).trans (congrArg _ (congrArg _ (Block.hello_of_taken hlive hlen htype ?_)))
    rw [Block.helloStatus, if_neg (by simpa using hl), if_neg (not_not_intro hp), if_neg (by simpa using hok), if_neg (by simpa [vfPart] using hd),
      if_neg hfree]

/-! ### PROVE -/

section
variable {b : Block} {h : PortId} {vf : VfId} {m : List Byte}

theorem not_proveBroken (hmagic : field m 0 4 = 0x564F5250) (hver : field m 4 1 = 1) (hzero : allZero (slice m 0x38 8) = true) :
    ¬(field m 0 4 ≠ 0x564F5250 ∨ field m 4 1 ≠ 1 ∨ (!allZero (slice m 0x38 8)) = true) := by
  simp [hmagic, hver, hzero]

theorem Block.prove_of_other (hno : b.vfLive h vf = false ∨ m.length ≠ 64 ∨ field m 5 1 ≠ 3) : b.prove h vf m = b := by
  simp only [Block.prove, Bool.not_eq_true', if_pos hno]

section
variable (hlive : b.vfLive h vf = true) (hlen : m.length = 64) (htype : field m 5 1 = 3)
include hlive hlen htype

theorem Block.not_proveOther : ¬((!b.vfLive h vf) = true ∨ m.length ≠ 64 ∨ field m 5 1 ≠ 3) := by
  simp [hlive, hlen, htype]

theorem Block.prove_of_no_handshake (hc : b.host.ctxs.find? (fun c => proveFits c h vf m b.now) = none) : b.prove h vf m = b.badHs := by
  simp only [Block.prove, if_neg (Block.not_proveOther hlive hlen htype), hc]

section
variable {c : Ctx} (hc : b.host.ctxs.find? (fun c => proveFits c h vf m b.now) = some c)
include hc

theorem Block.prove_of_broken (hbad : field m 0 4 ≠ 0x564F5250 ∨ field m 4 1 ≠ 1 ∨ allZero (slice m 0x38 8) = false) :
    b.prove h vf m = b.badHs := by
  have hbad' : field m 0 4 ≠ 0x564F5250 ∨ field m 4 1 ≠ 1 ∨ (!allZero (slice m 0x38 8)) = true := by simpa using hbad
  simp only [Block.prove, if_neg (Block.not_proveOther hlive hlen htype), hc, if_pos hbad']

variable (hmagic : field m 0 4 = 0x564F5250) (hver : field m 4 1 = 1) (hzero : allZero (slice m 0x38 8) = true)
include hmagic hver hzero

theorem Block.prove_of_right (hmac : slice m 0x18 32 = c.mac (b.image vf).key) :
    b.prove h vf m = (b.hostWrite h vf (c.reply + 0x40) (c.accept (b.image vf).key true) false).modCtx c.id
      (fun x => { x with isOpen := true, token := BitVec.ofNat 32 (c.newToken (b.image vf).key) }) := by
  have hok : (slice m 0x18 32 == c.mac (b.image (vfPart vf)).key) = true := beq_iff_eq.mpr hmac
  simp only [Block.prove, if_neg (Block.not_proveOther hlive hlen htype), hc,
    if_neg (not_proveBroken hmagic hver hzero), hok, if_true]
  rfl

theorem Block.prove_of_wrong (hmac : slice m 0x18 32 ≠ c.mac (b.image vf).key) :
    b.prove h vf m = ((b.hostWrite h vf (c.reply + 0x40) (c.accept (b.image vf).key false) false).freeCtx c.id).modPort h
      (fun x => { x with lockouts := (vf, b.now + 25000) :: x.lockouts.filter (fun q => q.1 != vf) }) := by
  have hok : (slice m 0x18 32 == c.mac (b.image (vfPart vf)).key) = false := beq_eq_false_iff_ne.mpr hmac
  simp only [Block.prove, if_neg (Block.not_proveOther hlive hlen htype), hc,
    if_neg (not_proveBroken hmagic hver hzero), hok, Bool.false_eq_true, if_false]
  rfl

end
end

theorem exec_openDoorbellIgnored_of_live (hlive : b.vfLive h vf = true) (why : OpenBad) {s : State} (hs : s.block = b) :
    exec (.openDoorbellIgnored h vf why) s = .next (s.onBlock
      (match why with | .readFailed => b.badHs.log 0x040D (.port h) none [] | _ => b.badHs)) := by
  subst hs
  simp only [exec, execOpenDoorbellIgnored, State.act_next, hlive, Bool.not_true, Bool.false_eq_true, if_false]
  rfl

theorem Block.handshakeEnds_of_pending {c : Ctx} (hc : b.ctx? c.id = some c) (ho : c.isOpen = false) :
    b.handshakeEnds c.id = (b.advanceTo (c.since + 250000)).freeCtx c.id := by
  simp only [Block.handshakeEnds, hc, ho, Bool.false_eq_true, if_false]

theorem Block.lockoutEnds_of_locked {u : Nat} (hu : (b.port h).lockouts.find? (fun q => q.1 == vf) = some (vf, u)) :
    b.lockoutEnds h vf = (b.advanceTo u).modPort h (fun x => { x with lockouts := x.lockouts.filter (fun y => y.1 != vf) }) := by
  simp only [Block.lockoutEnds, hu]

end

theorem exec_prove (h : PortId) (vf : VfId) (m : List Byte) (s : State) : exec (.prove h vf m) s = .next (s.onBlock (s.block.prove h vf m)) := rfl

/-- Settles O36: PROVE's branches, what ends a handshake or a lockout, and the ignored messages. -/
theorem proveOpensOrLocksOut : Obligations.ProveOpensOrLocksOut := by
  unfold Obligations.ProveOpensOrLocksOut
  intro h vf m s b key
  have run : ∀ {n : Block}, b.prove h vf m = n → exec (.prove h vf m) s = .next (s.onBlock n) := by
    rintro n rfl
    exact exec_prove h vf m s
  refine ⟨fun hno => run (Block.prove_of_other hno), fun hlive hlen htype => ⟨fun hc => run (Block.prove_of_no_handshake hlive hlen htype hc),
    fun c hc => ⟨fun hbad => run (Block.prove_of_broken hlive hlen htype hc hbad),
      fun h1 h2 h3 hmac => run (Block.prove_of_right hlive hlen htype hc h1 h2 h3 hmac),
      fun h1 h2 h3 hmac => run (Block.prove_of_wrong hlive hlen htype hc h1 h2 h3 hmac)⟩⟩, fun hlive => ⟨?_, ?_, ?_⟩, fun c hc => ?_,
    fun c hc ho => ?_, fun u hu => ?_⟩
  · exact exec_openDoorbellIgnored_of_live hlive .width rfl
  · exact exec_openDoorbellIgnored_of_live hlive .msgByte rfl
  · exact exec_openDoorbellIgnored_of_live hlive .readFailed rfl
  · simp only [proveFits, Bool.and_eq_true, decide_eq_true_eq] at hc
    exact hc.1.1.1.1.2
  · simp only [exec, execHandshakeExpiry, State.act_next]
    rw [Block.handshakeEnds_of_pending hc ho]
    rfl
  · simp only [exec, execOpenLockoutExpiry, State.act_next]
    rw [Block.lockoutEnds_of_locked hu]
    rfl

end Sys2Proof.Machine
end

/-! PROOF. Descriptors (R308 to R314, R317, R320 to R324): one that is read well-formed and in turn is what its effect makes of the block; the effects of
CLAIM, RELEASE, POST, CLOSE, CBLOAD, SPILL_ADD and SPILL_REMOVE. -/
section
namespace Sys2Proof.Machine
open Sys2Proof

/-! ### Reading (R310, R311, R319) -/

section
variable {b : Block} {id ty : Nat} {c : Ctx} {f : Block → Ctx → PartId → List Byte → DescEnd}

section
variable (hc : b.ctx? id = some c)
include hc

theorem Block.descriptor_of_cannot (h : b.canTake c = false) (d : DescRead) : b.descriptor id ty d f = b := by
  simp only [Block.descriptor, hc, h, Bool.not_false, if_true]

section
variable (h : b.canTake c = true)
include h

theorem Block.descriptor_failed :
    b.descriptor id ty .failed f = (((b.consume id false).postRec id (Rec.desc 0x040D 0 false)).tryClose id).scanReady := by
  simp only [Block.descriptor, hc, h, Bool.not_true, Bool.false_eq_true, if_false]

variable {d : List Byte} (hlen : d.length = 64)
include hlen

theorem Block.descriptor_of_out_of_turn (hty : dType d = ty ∨ dType d = 0 ∨ 8 < dType d) (hreq : dReq d ≠ c.expReq) :
    b.descriptor id ty (.ok d) f = (((b.consume id false).postRec id (Rec.desc 0x040A (dReq d) (dIrq d))).tryClose id).scanReady := by
  have hmine : ¬(d.length ≠ 64 ∨ (dType d ≠ ty ∧ 1 ≤ dType d ∧ dType d ≤ 8)) := by omega
  simp only [Block.descriptor, hc, h, Bool.not_true, Bool.false_eq_true, if_false, if_neg hmine, if_pos hreq]

variable (hreq : dReq d = c.expReq)
include hreq

theorem Block.descriptor_of_broken (hbad : (dType d ≠ ty ∧ (dType d = 0 ∨ 8 < dType d)) ∨ (dType d = ty ∧ dUnusedZero d = false)) :
    b.descriptor id ty (.ok d) f = b.ended id d 0x0409 0xFFFFFFFF := by
  have hmine : ¬(d.length ≠ 64 ∨ (dType d ≠ ty ∧ 1 ≤ dType d ∧ dType d ≤ 8)) := by omega
  have hbad' : dType d ≠ ty ∨ (!dUnusedZero d) = true := by
    obtain h | h := hbad
    · exact .inl h.1
    · exact .inr (by simp [h.2])
  simp only [Block.descriptor, hc, h, Bool.not_true, Bool.false_eq_true, if_false, if_neg hmine, if_neg (not_not_intro hreq), if_pos hbad']
  rfl

end
end

section
variable {d : List Byte} (h : b.reads id ty c d)
include h

/-- A descriptor that is read well-formed and in turn has its effect. -/
theorem Block.descriptor_of_reads : b.descriptor id ty (.ok d) f =
    match f b c (vfPart c.vf) d with
    | .wait => b
    | .done b' status slot => b'.ended id d status slot
    | .later b' => b'.consume id true := by
  obtain ⟨hc, ht, hlen, hty, hreq, hzero⟩ := h
  simp only [Block.descriptor, hc, ht, hlen, hty, hreq, hzero, ne_eq, not_true_eq_false, false_and, or_self, Bool.not_true, Bool.false_eq_true, if_false]
  rfl

theorem Block.descriptor_of_wait (hf : f b c c.vf d = .wait) : b.descriptor id ty (.ok d) f = b := by
  rw [Block.descriptor_of_reads h, vfPart, hf]

theorem Block.descriptor_of_done {b' : Block} {status slot : Nat} (hf : f b c c.vf d = .done b' status slot) :
    b.descriptor id ty (.ok d) f = b'.ended id d status slot := by
  rw [Block.descriptor_of_reads h, vfPart, hf]

theorem Block.descriptor_of_later {b' : Block} (hf : f b c c.vf d = .later b') : b.descriptor id ty (.ok d) f = b'.consume id true := by
  rw [Block.descriptor_of_reads h, vfPart, hf]

end
end

/-- The commands that `DescriptorReading` speaks of read a descriptor of their type, each with its own effect. -/
theorem exec_descriptor {id ty : Nat} {i : DescRead → Instr}
    (h : (ty, i) ∈ [(1, Instr.claim id), (2, .release id), (3, .post id), (6, .spillAdd id)] ∨ (ty = 4 ∧ ∃ f, i = fun d => .parcel id d f) ∨
      (ty = 5 ∧ ∃ f, i = fun d => .cbload id d f) ∨ (ty = 7 ∧ ∃ f e, i = fun d => .spillRemove id d f e)) (s : State) :
    1 ≤ ty ∧ ty ≤ 8 ∧ ∃ f, ∀ d, exec (i d) s = .next (s.onBlock (s.block.descriptor id ty d f)) := by
  simp only [List.mem_cons, List.not_mem_nil, or_false, Prod.mk.injEq] at h
  obtain (⟨rfl, rfl⟩ | ⟨rfl, rfl⟩ | ⟨rfl, rfl⟩ | ⟨rfl, rfl⟩) | ⟨rfl, f, rfl⟩ | ⟨rfl, f, rfl⟩ | ⟨rfl, f, e, rfl⟩ := h <;>
    exact ⟨by decide, by decide, _, fun d => rfl⟩

/-- Settles O38: the branches of reading a descriptor, whatever its effect is. -/
theorem descriptorReading : Obligations.DescriptorReading := by
  unfold Obligations.DescriptorReading
  intro id ty i s hi b c hc
  obtain ⟨hlo, hhi, f, run⟩ := exec_descriptor hi s
  refine ⟨fun h d => ?_, fun h => ⟨?_, fun d hlen hty hreq => ?_, fun d hlen hreq hbad => ?_⟩⟩
  · rw [run, Block.descriptor_of_cannot hc h]
  · rw [run, Block.descriptor_failed hc h]
  · rw [run, Block.descriptor_of_out_of_turn hc h hlen hty hreq]
  · have hbroken : (dType d ≠ ty ∧ (dType d = 0 ∨ 8 < dType d)) ∨ (dType d = ty ∧ dUnusedZero d = false) := by
      obtain h0 | h8 | hz := hbad
      · exact .inl ⟨by omega, .inl h0⟩
      · exact .inl ⟨by omega, .inr h8⟩
      · exact .inr hz
    rw [run, Block.descriptor_of_broken hc h hlen hreq hbroken]

/-! ### CLAIM, RELEASE, POST and CLOSE (R312 to R314, R317) -/

section
variable {b : Block} {c : Ctx} {p : PartId} {d : List Byte}

theorem Block.claim_of_no_role (h : (b.image p).tensors.length ≤ dTensor d ∨ ((b.image p).entry (dTensor d)).hasRole (dRole d) = false) :
    b.claim c p d = .err b 0x0409 := by
  have h' : (b.image p).tensors.length ≤ dTensor d ∨ (!((b.image p).entry (dTensor d)).hasRole (dRole d)) = true := by simpa using h
  simp only [Block.claim, if_pos h']

section
variable (ht : dTensor d < (b.image p).tensors.length) (hr : ((b.image p).entry (dTensor d)).hasRole (dRole d) = true)
include ht hr

theorem Block.claim_of_role : b.claim c p d =
    if dRole d < 2 ∧ (b.part p).run.isSome = true then .wait
    else if (b.slotOf p (dTensor d) (dRole d)).isSome = true then .err b 0x0406
    else if ((b.image p).entry (dTensor d)).spanOk (dRole d) (dAddr d) (dLen d) = false then .err b 0x0409
    else if b.host.slotsFree = 0 then .err b 0x0408
    else .done (b.modHost (fun x => { x with
      slots := x.slots ++ [{ id := lowestFree (b.host.slots.map SlotRec.id) 65536 0, ctx := c.id, part := p, tensor := dTensor d, role := dRole d
                             addr := dAddr d, len := dLen d, cur := dAddr d, armed := none, inUse := none }]
      slotsFree := x.slotsFree - 1 })).raiseRequests 0 (lowestFree (b.host.slots.map SlotRec.id) 65536 0) := by
  have hrole : ¬((b.image p).tensors.length ≤ dTensor d ∨ ((b.image p).entry (dTensor d)).hasRole (dRole d) = false) := by
    simp [hr, Nat.not_le.mpr ht]
  simp only [Block.claim, if_neg hrole, Bool.not_eq_true']

end

theorem Block.release_of_none (h : b.ownSlot c d = none) : b.release c p d = .err b 0x0407 := by
  simp only [Block.release, h]

theorem Block.release_of_some {x : SlotRec} (h : b.ownSlot c d = some x) : b.release c p d =
    if x.inUse.isSome = true then .wait
    else .ok (b.modHost (fun y => { y with slots := y.slots.filter (fun z => z.id != x.id), slotsFree := y.slotsFree + 1 })) := by
  simp only [Block.release, h]

theorem Block.post_of_none (h : b.ownSlot c d = none) : b.post c p d = .err b 0x0407 := by
  simp only [Block.post, h]

theorem Block.not_postUnfit {x : SlotRec} (hfit : dAddr d = 0 ∨ ((b.image p).entry x.tensor).spanOk x.role (dAddr d) (dLen d) = true) :
    ¬(dAddr d ≠ 0 ∧ (!((b.image p).entry x.tensor).spanOk x.role (dAddr d) (dLen d)) = true) := by
  rintro ⟨ha, hs⟩
  simp [hfit.resolve_left ha] at hs

section
variable {x : SlotRec} (h : b.ownSlot c d = some x)
include h

theorem Block.post_of_unfit (hfit : ¬(dAddr d = 0 ∨ ((b.image p).entry x.tensor).spanOk x.role (dAddr d) (dLen d) = true)) :
    b.post c p d = .err b 0x0409 := by
  have hbad : dAddr d ≠ 0 ∧ (!((b.image p).entry x.tensor).spanOk x.role (dAddr d) (dLen d)) = true := by simpa using hfit
  simp only [Block.post, h, if_pos hbad]

variable (hfit : dAddr d = 0 ∨ ((b.image p).entry x.tensor).spanOk x.role (dAddr d) (dLen d) = true)
include hfit

theorem Block.post_gradient (hrole : x.role = 0) : b.post c p d =
    if x.armed.isSome = true then .err b 0x040C
    else .ok (b.modSlot x.id (fun y => { y with armed := some (if dAddr d = 0 then x.addr else dAddr d) })) := by
  simp only [Block.post, h, if_neg (Block.not_postUnfit hfit)]
  simp only [hrole]

theorem Block.post_result (hrole : x.role = 1) : b.post c p d =
    if x.inUse.isSome = true then .wait
    else .ok (b.modSlot x.id (fun y => { y with armed := some (if dAddr d = 0 then x.addr else dAddr d) })) := by
  simp only [Block.post, h, if_neg (Block.not_postUnfit hfit)]
  simp only [hrole]

theorem Block.post_frame (hrole : 1 < x.role) : b.post c p d =
    .ok (b.modSlot x.id (fun y => { y with
      armed := some (if dAddr d = 0 then x.addr else dAddr d), cur := if dAddr d = 0 then x.len else dLen d })) := by
  obtain ⟨k, hk⟩ : ∃ k, x.role = k + 2 := ⟨x.role - 2, by omega⟩
  simp only [Block.post, h, if_neg (Block.not_postUnfit hfit)]
  simp only [hk]

end
end

section
variable (id : Nat) (s : State) {c : Ctx} {d : List Byte}

theorem exec_claim (d : DescRead) : exec (.claim id d) s = .next (s.onBlock (s.block.descriptor id 1 d Block.claim)) := rfl
theorem exec_release (d : DescRead) : exec (.release id d) s = .next (s.onBlock (s.block.descriptor id 2 d Block.release)) := rfl
theorem exec_post (d : DescRead) : exec (.post id d) s = .next (s.onBlock (s.block.descriptor id 3 d Block.post)) := rfl
theorem exec_close (d : DescRead) : exec (.close id d) s = .next (s.onBlock ((s.block.descriptor id 8 d Block.closeDesc).tryClose id)) := rfl

end

/-- Settles O39: each descriptor's checks are the branches of its effect. -/
theorem slotDescriptors : Obligations.SlotDescriptors := by
  unfold Obligations.SlotDescriptors
  intro id c d s b p err ok
  refine ⟨fun h => ?_, fun h => ?_, fun h => ?_, fun h => ?_⟩
  · intro e
    have done : ∀ {n st slot}, b.claim c p d = .done n st slot → exec (.claim id (.ok d)) s = .next (s.onBlock (n.ended id d st slot)) := by
      intro n st slot hf
      rw [exec_claim, Block.descriptor_of_done h hf]
    refine ⟨fun hno => done (Block.claim_of_no_role hno), fun ht hr => ⟨fun hrole hrun => ?_, fun hfree => ?_⟩⟩
    · rw [exec_claim, Block.descriptor_of_wait h ((Block.claim_of_role ht hr).trans (if_pos ⟨hrole, hrun⟩))]
    · have hgo : ¬(dRole d < 2 ∧ (b.part p).run.isSome = true) := by
        rintro ⟨hlt, hrun⟩
        obtain h2 | hnone := hfree
        · omega
        · simp [hnone] at hrun
      have claim := (Block.claim_of_role (c := c) ht hr).trans (if_neg hgo)
      refine ⟨fun htaken => done (claim.trans (if_pos htaken)), fun hnone hspan => ?_, fun hnone hspan hfull => ?_, fun hnone hspan hroom => ?_⟩
      · exact done (claim.trans ((if_neg (by simp [hnone])).trans (if_pos hspan)))
      · exact done (claim.trans ((if_neg (by simp [hnone])).trans ((if_neg (fun hf => Bool.noConfusion (hspan.symm.trans hf))).trans (if_pos hfull))))
      · exact done (claim.trans ((if_neg (by simp [hnone])).trans ((if_neg (fun hf => Bool.noConfusion (hspan.symm.trans hf))).trans (if_neg hroom))))
  · have done : ∀ {n st slot}, b.release c p d = .done n st slot → exec (.release id (.ok d)) s = .next (s.onBlock (n.ended id d st slot)) := by
      intro n st slot hf
      rw [exec_release, Block.descriptor_of_done h hf]
    refine ⟨fun hnone => done (Block.release_of_none hnone), fun x hx => ⟨fun hused => ?_, fun hidle => ?_⟩⟩
    · rw [exec_release, Block.descriptor_of_wait h ((Block.release_of_some hx).trans (if_pos hused))]
    · exact done ((Block.release_of_some hx).trans (if_neg (by simp [hidle])))
  · have done : ∀ {n st slot}, b.post c p d = .done n st slot → exec (.post id (.ok d)) s = .next (s.onBlock (n.ended id d st slot)) := by
      intro n st slot hf
      rw [exec_post, Block.descriptor_of_done h hf]
    refine ⟨fun hnone => done (Block.post_of_none hnone), fun x hx => ?_⟩
    intro addr len armed fits
    refine ⟨fun hbad => done (Block.post_of_unfit hx hbad),
      fun hfit hr ha => ?_, fun hfit hr ha => ?_, fun hfit hr hu => ?_, fun hfit hr hu => ?_, fun hfit hr => done (Block.post_frame hx hfit hr)⟩
    · exact done ((Block.post_gradient hx hfit hr).trans (if_pos ha))
    · exact done ((Block.post_gradient hx hfit hr).trans (if_neg (by simp [ha])))
    · rw [exec_post, Block.descriptor_of_wait h ((Block.post_result hx hfit hr).trans (if_pos hu))]
    · exact done ((Block.post_result hx hfit hr).trans (if_neg (by simp [hu])))
  · rw [exec_close, Block.descriptor_of_later h rfl]

end Sys2Proof.Machine
end

/-! PROOF. Codebook loads and their hashing (R139 to R141, R321), spill space (R322, R324), parcels (R187, R320), and the resets and the link of a host
port (R296, R317, R397, R431). -/
section
namespace Sys2Proof.Machine
open Sys2Proof

/-! ### CBLOAD (R139, R321) -/

theorem bitAt_zero (n : Nat) : bitAt n 0 = decide (n % 2 = 1) := by
  rw [bitAt, Nat.shiftRight_zero]
  rfl

theorem bitAt_one (n : Nat) (h : n < 4) : bitAt n 1 = decide (n / 2 = 1) := by
  have hmod : n / 2 % 2 = n / 2 := by omega
  rw [bitAt, Nat.shiftRight_eq_div_pow, Nat.pow_one, hmod]
  rfl

section
variable {b : Block} {c : Ctx} {p : PartId} {d bs : List Byte}

/-- A load's codebook as CBLOAD finds it: begun afresh by the first of its descriptors. -/
def Block.loading (b : Block) (c : Ctx) (p : PartId) (d : List Byte) : Codebook :=
  if dArg1 d % 2 = 1 then Codebook.begin c.id else (b.part p).cb

/-- The bytes of a CBLOAD stored. -/
def Codebook.stored (x : Codebook) (d bs : List Byte) : Codebook :=
  { x with twice := x.twice || x.overlaps (dArg0 d) (dLen d), written := x.written + dLen d
           mem := Mem.store none x.mem (dArg0 d) (padTo (dLen d) bs) }

theorem Block.cbload_of_unfit (data : HostRead)
    (h : ¬(dLen d % 16 = 0 ∧ dArg0 d % 16 = 0 ∧ dArg0 d + dLen d ≤ 80 * (b.image p).cbE ∧ (b.image p).cbE ≠ 0 ∧ dArg1 d < 4)) :
    Block.cbload data b c p d = .err b 0x0409 := by
  have hbad : dLen d % 16 ≠ 0 ∨ dArg0 d % 16 ≠ 0 ∨ 80 * (b.image p).cbE < dArg0 d + dLen d ∨ (b.image p).cbE = 0 ∨ 4 ≤ dArg1 d := by omega
  simp only [Block.cbload, if_pos hbad]

section
variable (h : dLen d % 16 = 0 ∧ dArg0 d % 16 = 0 ∧ dArg0 d + dLen d ≤ 80 * (b.image p).cbE ∧ (b.image p).cbE ≠ 0 ∧ dArg1 d < 4)
include h

theorem Block.cbload_of_fits (data : HostRead) : Block.cbload data b c p d =
    if (b.part p).run.isSome = true then .wait
    else if (b.part p).cb.busy = true ∧ (b.part p).cb.owner ≠ some c.id then .err b 0x040E
    else if ¬(dArg1 d % 2 = 1 ∨ ((b.part p).cb.st = .loading ∧ (b.part p).cb.owner = some c.id)) then .err b 0x0409
    else match data with
      | .failed => .err b 0x040D
      | .ok bs =>
        if dArg1 d / 2 = 1 then
          .later ((b.modPart p (fun y => { y with cb := { (b.loading c p d).stored d bs with st := .hashing, last := some (c.id, d) } })).modCtx c.id
            (fun c => { c with reserved := c.reserved + 1 }))
        else .ok (b.modPart p (fun y => { y with cb := (b.loading c p d).stored d bs })) := by
  have hargs : dArg1 d < 4 := by omega
  have hfit : ¬(dLen d % 16 ≠ 0 ∨ dArg0 d % 16 ≠ 0 ∨ 80 * (b.image p).cbE < dArg0 d + dLen d ∨ (b.image p).cbE = 0 ∨ 4 ≤ dArg1 d) := by omega
  simp only [Block.cbload, if_neg hfit, bitAt_zero, bitAt_one _ hargs, decide_eq_true_eq, Bool.not_eq_true',
    decide_eq_false_iff_not, Bool.and_eq_false_iff, beq_eq_false_iff_ne, not_or, Classical.not_and_iff_not_or_not]
  rfl

end

/-! ### SPILL_ADD and SPILL_REMOVE (R322, R324) -/

theorem Block.spillAdd_of_unfit (h : ¬(dAddr d % 64 = 0 ∧ dLen d ≠ 0 ∧ dLen d % 16448 = 0)) : b.spillAdd c p d = .err b 0x0409 := by
  have hbad : dAddr d % 64 ≠ 0 ∨ dLen d = 0 ∨ dLen d % 16448 ≠ 0 := by omega
  simp only [Block.spillAdd, if_pos hbad]

theorem Block.spillAdd_of_fits (h : dAddr d % 64 = 0 ∧ dLen d ≠ 0 ∧ dLen d % 16448 = 0) : b.spillAdd c p d =
    if (b.part p).spill.isSome = true then .err b 0x040E
    else .ok (b.modPart p (fun x => { x with spill := some (
      { addr := dAddr d, recs := dLen d / 16448, port := c.port, vf := c.vf, broken := false, kept := [], writing := none } : Spill) })) := by
  have hfit : ¬(dAddr d % 64 ≠ 0 ∨ dLen d = 0 ∨ dLen d % 16448 ≠ 0) := by omega
  simp only [Block.spillAdd, if_neg hfit]

theorem Block.spillRemove_of_none (recs : List HostRead) (errs : List MemErr) (h : (b.part p).spill = none) :
    Block.spillRemove recs errs b c p d = .ok b := by
  simp only [Block.spillRemove, h]

theorem Block.spillRemove_of_some (recs : List HostRead) (errs : List MemErr) {y : Spill} (h : (b.part p).spill = some y) :
    Block.spillRemove recs errs b c p d =
      if (b.part p).run.isSome = true ∨ y.writing.isSome = true then .wait
      else if (b.image p).share < (b.image p).demand then .err b 0x040F
      else .ok ((Block.pageAllIn p errs recs (b.part p).pages.length b).modPart p (fun x => { x with spill := none })) := by
  simp only [Block.spillRemove, h]

end

/-! ### The end of hashing (R140) -/

/-- What the hash of a load found: its length and coverage first, then its bytes. -/
def Block.hashStatus (b : Block) (p : PartId) (errs : List MemErr) : Nat :=
  if (b.part p).cb.written ≠ 80 * (b.image p).cbE ∨ (b.part p).cb.twice = true then 0x0581
  else if (b.demand errs (fun q => match q.1 with | .cbk p' => p' == p | _ => false)).2.isEmpty = true ∧
      sha384 (Mem.bytes none (b.part p).cb.mem 0 (80 * (b.image p).cbE)) = (b.image p).cbDigest then 0
  else 0x0580

/-- The load told of its end. -/
def Block.hashTold (b : Block) (k : Codebook) (st : Nat) : Block :=
  match k.last with
  | some (id, d) => (b.modCtx id (fun c => { c with reserved := c.reserved - 1 })).complete id d st 0xFFFFFFFF
  | none => b.scanReady

/-- The codebook after the hash. -/
def Block.hashEnds (b : Block) (p : PartId) (errs : List MemErr) (st : Nat) : Block :=
  (b.demand errs (fun q => match q.1 with | .cbk p' => p' == p | _ => false)).1.modPart p (fun y => { y with
    cb := { (b.part p).cb with st := if st = 0 then .accepted else .rejected, owner := none, last := none } })

theorem Block.hashDone_of_hashing {b : Block} {p : PartId} (errs : List MemErr) (h : (b.part p).cb.st = .hashing) : b.hashDone p errs =
    (if b.hashStatus p errs = 0 then b.hashEnds p errs (b.hashStatus p errs)
     else (b.hashEnds p errs (b.hashStatus p errs)).logPart (b.hashStatus p errs) p []).hashTold (b.part p).cb (b.hashStatus p errs) := by
  simp only [Block.hashDone, if_neg (not_not_intro h)]
  rfl

section
variable (id : Nat) (s : State)

theorem exec_cbload (d : DescRead) (data : HostRead) :
    exec (.cbload id d data) s = .next (s.onBlock (s.block.descriptor id 5 d (Block.cbload data))) := rfl
theorem exec_spillAdd (d : DescRead) : exec (.spillAdd id d) s = .next (s.onBlock (s.block.descriptor id 6 d Block.spillAdd)) := rfl
theorem exec_spillRemove (d : DescRead) (recs : List HostRead) (errs : List MemErr) :
    exec (.spillRemove id d recs errs) s = .next (s.onBlock (s.block.descriptor id 7 d (Block.spillRemove recs errs))) := rfl

end

theorem exec_codebookHashComplete_of_rejected {s : State} {q : PartId} {errs : List MemErr} {st : Nat} (h : (s.block.part q).cb.st = .hashing)
    (hst : s.block.hashStatus q errs = st) (hne : st ≠ 0) :
    exec (.codebookHashComplete q errs) s =
      .next (s.onBlock (((s.block.hashEnds q errs st).logPart st q []).hashTold (s.block.part q).cb st)) := by
  have hdone := Block.hashDone_of_hashing errs h
  rw [hst, if_neg hne] at hdone
  rw [← hdone]
  rfl

theorem exec_codebookHashComplete_of_accepted {s : State} {q : PartId} {errs : List MemErr} (h : (s.block.part q).cb.st = .hashing)
    (hst : s.block.hashStatus q errs = 0) :
    exec (.codebookHashComplete q errs) s = .next (s.onBlock ((s.block.hashEnds q errs 0).hashTold (s.block.part q).cb 0)) := by
  have hdone := Block.hashDone_of_hashing errs h
  rw [hst, if_pos rfl] at hdone
  rw [← hdone]
  rfl

/-- Settles O40: the checks of each descriptor are the branches of its effect, and the hash's findings its three statuses. -/
theorem loadAndSpillDescriptors : Obligations.LoadAndSpillDescriptors := by
  unfold Obligations.LoadAndSpillDescriptors
  intro id c d bs recs errs q s b p cb err ok
  refine ⟨fun h => ?_, fun h => ?_, fun h => ?_, fun h => ?_⟩
  · intro fits mine inTurn x y
    have done : ∀ {data n st}, Block.cbload data b c p d = .done n st 0xFFFFFFFF →
        exec (.cbload id (.ok d) data) s = .next (s.onBlock (n.ended id d st 0xFFFFFFFF)) := by
      intro data n st hf
      rw [exec_cbload, Block.descriptor_of_done h hf]
    have load : ∀ data, fits → (b.part p).run = none → mine → Block.cbload data b c p d = _ := fun data hfit hrun hmine =>
      (Block.cbload_of_fits hfit data).trans ((if_neg (by simp [hrun])).trans (if_neg hmine))
    refine ⟨fun hfit => done (Block.cbload_of_unfit _ hfit), fun hfit hrun => ?_, fun hfit hrun hmine => ?_, fun hfit hrun hmine hturn => ?_,
      fun hfit hrun hmine hturn => ?_, fun hfit hrun hmine hturn hlast => ?_, fun hfit hrun hmine hturn hlast => ?_⟩
    · rw [exec_cbload, Block.descriptor_of_wait h ((Block.cbload_of_fits hfit _).trans (if_pos hrun))]
    · exact done ((Block.cbload_of_fits hfit _).trans ((if_neg (by simp [hrun])).trans (if_pos (Classical.not_not.mp hmine))))
    · exact done ((load _ hfit hrun hmine).trans (if_pos hturn))
    · exact done ((load _ hfit hrun hmine).trans (if_neg (not_not_intro hturn)))
    · exact done ((load (.ok bs) hfit hrun hmine).trans ((if_neg (not_not_intro hturn)).trans (if_neg (by omega))))
    · rw [exec_cbload, Block.descriptor_of_later h ((load (.ok bs) hfit hrun hmine).trans ((if_neg (not_not_intro hturn)).trans (if_pos hlast)))]
      rfl
  · intro k n e ends told
    refine ⟨fun hbad => ?_, fun hw ht hbad => ?_, fun hw ht he hsha => ?_⟩
    · exact exec_codebookHashComplete_of_rejected h (if_pos hbad) (by decide)
    · have hlen : ¬((b.part q).cb.written ≠ 80 * (b.image q).cbE ∨ (b.part q).cb.twice = true) := by
        rintro (hne | htw)
        · exact hne hw
        · exact Bool.noConfusion (ht.symm.trans htw)
      have hhash : ¬(e.2.isEmpty = true ∧ sha384 (Mem.bytes none k.mem 0 n) = (b.image q).cbDigest) := by
        rintro ⟨hemp, heq⟩
        exact hbad.elim (fun h => h (List.isEmpty_iff.mp hemp)) (fun h => h heq)
      exact exec_codebookHashComplete_of_rejected h ((if_neg hlen).trans (if_neg hhash)) (by decide)
    · have hlen : ¬((b.part q).cb.written ≠ 80 * (b.image q).cbE ∨ (b.part q).cb.twice = true) := by
        rintro (hne | htw)
        · exact hne hw
        · exact Bool.noConfusion (ht.symm.trans htw)
      exact exec_codebookHashComplete_of_accepted h ((if_neg hlen).trans (if_pos ⟨List.isEmpty_iff.mpr he, hsha⟩))
  · intro fits
    have done : ∀ {n st}, b.spillAdd c p d = .done n st 0xFFFFFFFF → exec (.spillAdd id (.ok d)) s = .next (s.onBlock (n.ended id d st 0xFFFFFFFF)) := by
      intro n st hf
      rw [exec_spillAdd, Block.descriptor_of_done h hf]
    refine ⟨fun hfit => done (Block.spillAdd_of_unfit hfit), fun hfit hs => done ((Block.spillAdd_of_fits hfit).trans (if_pos hs)), fun hfit hs => ?_⟩
    exact done ((Block.spillAdd_of_fits hfit).trans (if_neg (by simp [hs])))
  · have done : ∀ {n st}, Block.spillRemove recs errs b c p d = .done n st 0xFFFFFFFF →
        exec (.spillRemove id (.ok d) recs errs) s = .next (s.onBlock (n.ended id d st 0xFFFFFFFF)) := by
      intro n st hf
      rw [exec_spillRemove, Block.descriptor_of_done h hf]
    refine ⟨fun hn => done (Block.spillRemove_of_none recs errs hn), fun y hy => ⟨fun hw => ?_, fun hr hw hlt => ?_, fun hr hw hle => ?_⟩⟩
    · rw [exec_spillRemove, Block.descriptor_of_wait h ((Block.spillRemove_of_some recs errs hy).trans (if_pos hw))]
    · exact done ((Block.spillRemove_of_some recs errs hy).trans ((if_neg (by simp [hr, hw])).trans (if_pos hlt)))
    · exact done ((Block.spillRemove_of_some recs errs hy).trans ((if_neg (by simp [hr, hw])).trans (if_neg (Nat.not_lt.mpr hle))))

end Sys2Proof.Machine
end

/-! PROOF. Parcels (R187, R210, R320), and the resets and the link of a host port (R296, R317, R397, R431). -/
section
namespace Sys2Proof.Machine
open Sys2Proof

/-! ### Parcels -/

section
variable {b : Block} {c : Ctx} {p : PartId} {d : List Byte}

theorem Block.parcel_of_none (frame : HostRead) (h : b.ownSlot c d = none) : Block.parcel frame b c p d = .err b 0x0407 := by
  simp only [Block.parcel, h]

section
variable {x : SlotRec} (h : b.ownSlot c d = some x)
include h

theorem Block.parcel_of_other_role (frame : HostRead) (hr : x.role ≠ 2) : Block.parcel frame b c p d = .err b 0x0409 := by
  simp only [Block.parcel, h, if_pos hr]

variable (hr : x.role = 2)
include hr

theorem Block.parcel_of_failed : Block.parcel .failed b c p d = .err b 0x040D := by
  simp only [Block.parcel, h, if_neg (not_not_intro hr)]

variable {bs : List Byte}

theorem Block.parcel_of_bad_frame {code : Nat} (hbad : checkFrame bs ((b.image p).parcelExp p x.tensor x.len bs) = some code) :
    Block.parcel (.ok bs) b c p d = .err (b.logFrame code (.comb (b.part p).lastComb) p bs) code := by
  simp only [Block.parcel, h, if_neg (not_not_intro hr), hbad]

variable (hgood : checkFrame bs ((b.image p).parcelExp p x.tensor x.len bs) = none)
include hgood

theorem Block.parcel_of_outside (hdst : inGroup (b.part p).vset (coordOf (dArg0 d % 2 ^ 18)) = false) :
    Block.parcel (.ok bs) b c p d = .err b 0x0413 := by
  simp only [Block.parcel, h, if_neg (not_not_intro hr), hgood, hdst, Bool.not_false, if_true]

variable (hdst : inGroup (b.part p).vset (coordOf (dArg0 d % 2 ^ 18)) = true)
include hdst

theorem Block.parcel_of_here (hme : coordOf (dArg0 d % 2 ^ 18) = b.logCoord) :
    Block.parcel (.ok bs) b c p d = .ok (b.landParcel p (.comb (b.part p).lastComb) (coordOf (dArg0 d % 2 ^ 18)) bs) := by
  simp only [Block.parcel, h, if_neg (not_not_intro hr), hgood, hdst, Bool.not_true, Bool.false_eq_true, if_false, if_pos hme]

/-- The move that a PARCEL begins. -/
def Block.newParcel (b : Block) (c : Ctx) (p : PartId) (d bs : List Byte) : ParcelMove :=
  { id := b.host.nextXfer.toNat, ctx := c.id, desc := d, src := b.logCoord, dst := coordOf (dArg0 d % 2 ^ 18), part := p
    total := field bs 0x30 4, bytes := [(0, bs.take (field bs 0x30 4))], since := b.now }

theorem Block.parcel_of_away (hme : coordOf (dArg0 d % 2 ^ 18) ≠ b.logCoord) :
    Block.parcel (.ok bs) b c p d = .later (((b.modHost (fun x => { x with
      parcelsOut := x.parcelsOut ++ [b.newParcel c p d bs], nextXfer := x.nextXfer + 1 })).modCtx c.id
        (fun c => { c with reserved := c.reserved + 1 })).sendParcel (b.newParcel c p d bs)) := by
  simp only [Block.parcel, h, if_neg (not_not_intro hr), hgood, hdst, Bool.not_true, Bool.false_eq_true, if_false, if_neg hme]
  rfl

end
end

theorem exec_parcel (id : Nat) (s : State) (d : DescRead) (frame : HostRead) :
    exec (.parcel id d frame) s = .next (s.onBlock (s.block.descriptor id 4 d (Block.parcel frame))) := rfl

theorem exec_parcelReceive_of_awake {l : LinkId} {rx : RxMsg} {s : State} (hin : s.block.inReset = false) :
    exec (.parcelReceive l rx) s = .next (s.onBlock ((s.block.arriveSeq l 3 rx).2.foldl (fun b q =>
      if (b.giveBack l 3 q.2).kettle.stopped then b.giveBack l 3 q.2
      else if hdDst q.1 ≠ (b.giveBack l 3 q.2).boot.physCoord then (b.giveBack l 3 q.2).relayMsg (hdPart q.1).val q.1 q.2
      else (b.giveBack l 3 q.2).parcelPiece l q.1 q.2) (s.block.arriveSeq l 3 rx).1)) := by
  simp only [exec, execParcelReceive, State.act_next, Block.parcelIn, hin, Bool.false_eq_true, if_false]
  rfl

/-- Settles O41: the checks at the source, the ways of a piece that arrives, and the end of a move that waits for a route. -/
theorem parcels : Obligations.Parcels := by
  unfold Obligations.Parcels
  intro s b
  refine ⟨fun id c d bs h => ?_, fun l rx hin => ?_, fun id m hm => ?_⟩
  · intro p u err dst
    have done : ∀ {frame n st}, Block.parcel frame b c p d = .done n st 0xFFFFFFFF →
        exec (.parcel id (.ok d) frame) s = .next (s.onBlock (n.ended id d st 0xFFFFFFFF)) := by
      intro frame n st hf
      rw [exec_parcel, Block.descriptor_of_done h hf]
    refine ⟨fun hn => done (Block.parcel_of_none _ hn), fun x hx => ?_⟩
    intro bad
    refine ⟨fun hr => done (Block.parcel_of_other_role hx _ hr), fun hr => ⟨done (Block.parcel_of_failed hx hr),
      fun code hbad => done (Block.parcel_of_bad_frame hx hr hbad), fun hgood hout => done (Block.parcel_of_outside hx hr hgood hout),
      fun hgood hin hme => done (Block.parcel_of_here hx hr hgood hin hme), fun hgood hin hme => ?_⟩⟩
    rw [exec_parcel, Block.descriptor_of_later h (Block.parcel_of_away hx hr hgood hin hme)]
    rfl
  · have receive := exec_parcelReceive_of_awake (l := l) (rx := rx) hin
    refine ⟨fun ha => ?_, fun hd body ha => ⟨fun hstop => ?_, fun hstop hfar => ?_, fun hstop hhere => ?_⟩⟩ <;> rw [receive, ha]
    · rfl
    · exact congrArg _ (congrArg _ (if_pos hstop))
    · exact congrArg _ (congrArg _ ((if_neg (by simp [b] at hstop; simp [hstop])).trans (if_pos hfar)))
    · exact congrArg _ (congrArg _ ((if_neg (by simp [b] at hstop; simp [hstop])).trans (if_neg (not_not_intro hhere))))
  · simp only [exec, execParcelNoRouteTimeout, State.act_next]
    rw [hm]
    rfl

/-! ### Resets and the link of a host port -/

theorem Block.portReset_of_acts {b : Block} {h : PortId} {kind vf : Nat} (f : Block → Block) (ha : b.resetActs 5 = true) :
    b.portReset h kind vf f = f (b.log 0x0551 (.port h) none [kind, vf]) := if_pos ha

theorem Block.portReset_of_not_acts {b : Block} {h : PortId} {kind vf : Nat} (f : Block → Block) (ha : b.resetActs 5 = false) :
    b.portReset h kind vf f = b := by
  simp only [Block.portReset, ha, Bool.false_eq_true, if_false]

theorem Block.resetActs_five_iff (b : Block) : b.resetActs 5 = true ↔ ∀ k, b.kettle.rstAt = some (b.now, k) → 5 < k :=
  (b.resetActs_iff 5).trans ⟨fun h k hk => h _ k hk rfl, fun h _ k hk ht => h k (ht ▸ hk)⟩

/-- Settles O42: each reset is logged and has its effect, unless the chip was reset in this KT; the link's events meet their conditions. -/
theorem portResetsAndLink : Obligations.PortResetsAndLink := by
  unfold Obligations.PortResetsAndLink
  intro h vf s b free whole down
  refine ⟨fun hfree => ?_, fun hbusy => ?_, fun hup => ⟨?_, ?_, fun en n hn => ?_⟩, fun hdown hin hnone hstraps width speed flit hw h1 h6 => ?_⟩
  · have hacts := s.block.resetActs_five_iff.mpr hfree
    refine ⟨?_, ?_, ?_, ?_⟩
    · simp only [exec, execFunctionLevelResetVf, State.act_next]
      rw [Block.portReset_of_acts _ hacts]
      rfl
    · simp only [exec, execFunctionLevelResetPf, State.act_next]
      rw [Block.portReset_of_acts _ hacts]
      rfl
    · simp only [exec, execHotReset, State.act_next]
      rw [Block.portReset_of_acts _ hacts]
      rfl
    · simp only [exec, execFundamentalReset, State.act_next]
      rw [Block.portReset_of_acts _ hacts]
      rfl
  · have hacts : s.block.resetActs 5 = false := by
      rw [← Bool.not_eq_true, s.block.resetActs_five_iff]
      exact hbusy
    have keeps : ∀ kind v (f : Block → Block), s.act (fun b => b.portReset h kind v f) = .next s := by
      intro kind v f
      rw [State.act_next, Block.portReset_of_not_acts f hacts, finish_self]
    simp only [List.mem_cons, List.not_mem_nil, or_false]
    rintro i (rfl | rfl | rfl | rfl)
    · exact keeps _ _ _
    · exact keeps _ _ _
    · exact keeps _ _ _
    · exact keeps _ _ _
  · simp only [exec, execPcieLinkDown, State.act_next, b, hup, if_true]
    rfl
  · rfl
  · have hok : ¬(128 < n.toNat ∨ (!(s.block.port h).linkUp) = true) := by
      rintro (hgt | hd)
      · omega
      · simp [b] at hup
        simp [hup] at hd
    simp only [exec, execVfEnable, State.act_next, if_neg hok]
    rfl
  · have hearly : (s.block.boot.phase == .none || s.block.boot.phase == .straps) = false := by
      rw [Bool.or_eq_false_iff, beq_eq_false_iff_ne, beq_eq_false_iff_ne]
      exact ⟨hnone, hstraps⟩
    have hok : ¬(width ∉ [1, 2, 4, 8, 16] ∨ speed < 1 ∨ 6 < speed ∨ (s.block.boot.phase == .none || s.block.boot.phase == .straps) = true ∨
        s.block.inReset = true ∨ (s.block.port h).linkUp = true) := by
      rintro (hw' | hs | hs | he | hr | hu)
      · exact hw' hw
      · omega
      · omega
      · exact Bool.noConfusion (hearly.symm.trans he)
      · exact Bool.noConfusion (hin.symm.trans hr)
      · exact Bool.noConfusion (hdown.symm.trans hu)
    simp only [exec, execPcieLinkUp, State.act_next, if_neg hok]
    rfl

end Sys2Proof.Machine
end

/-! PROOF. The start of a step (R195, R256, R314, R329) and its agreements (R142, R193 to R195). -/
section
namespace Sys2Proof.Machine
open Sys2Proof

/-! ### The start -/

section
variable {b : Block} {ms : Vector Mem 4} {p : PartId} {errs : List MemErr}

/-- The chip left the group, and the step that starts is excluded (R195). -/
def Block.excludes (b : Block) (p : PartId) : Prop := b.leftGroup p = true ∧ b.startConds p = true ∧ b.hasSlots p = true

theorem Block.excludes_iff : (b.leftGroup p && b.startConds p && b.hasSlots p) = true ↔ b.excludes p := by
  simp only [Block.excludes, Bool.and_eq_true, and_assoc]

theorem Block.stepStart_of_left (h : b.scanReady.excludes p) : b.stepStart ms p errs = (b.scanReady.excludedStep p, ms) := by
  simp only [Block.stepStart, if_pos (Block.excludes_iff.mpr h)]

variable (hl : ¬b.scanReady.excludes p)
include hl

theorem Block.stepStart_of_behind (h : b.scanReady.ready.head? ≠ some p) : b.stepStart ms p errs = (b.scanReady, ms) := by
  simp only [Block.stepStart, if_neg ((not_congr Block.excludes_iff).mpr hl), if_pos h]

theorem Block.stepStart_of_no_comb (h : b.scanReady.freeComb p = none) : b.stepStart ms p errs = (b.scanReady, ms) := by
  simp only [Block.stepStart, if_neg ((not_congr Block.excludes_iff).mpr hl), h, ite_self]

variable {c : CombId} (hh : b.scanReady.ready.head? = some p) (hc : b.scanReady.freeComb p = some c)
include hh hc

theorem Block.stepStart_of_asleep
    (h : (b.scanReady.comb c).pwr ≠ .boil ∨ (b.scanReady.comb c).entering.isSome = true ∨ (b.scanReady.comb c).waking = true) :
    b.stepStart ms p errs = (b.scanReady.modComb c (fun x => x.wake b.scanReady.now), ms) := by
  simp only [Block.stepStart, if_neg ((not_congr Block.excludes_iff).mpr hl), if_neg (not_not_intro hh), hc, if_pos h]

theorem Block.stepStart_of_boil
    (h : ¬((b.scanReady.comb c).pwr ≠ .boil ∨ (b.scanReady.comb c).entering.isSome = true ∨ (b.scanReady.comb c).waking = true)) :
    b.stepStart ms p errs =
      ((b.scanReady.demandOf (some p) errs (fun q => q.1 == .sys)).1.beginStep p c
        (!(b.scanReady.demandOf (some p) errs (fun q => q.1 == .sys)).2.isEmpty), ms.set c []) := by
  simp only [Block.stepStart, if_neg ((not_congr Block.excludes_iff).mpr hl), if_neg (not_not_intro hh), hc, if_neg h]

end

theorem exec_stepStart (p : PartId) (errs : List MemErr) (s : State) :
    exec (.stepStart p errs) s =
      .next { s with block := finish s.block (s.block.stepStart s.bufs p errs).1, bufs := (s.block.stepStart s.bufs p errs).2 } := rfl

/-! ### The registers at the start (R256) -/

theorem Seqr.s_setS_of_ne (q : Seqr) {r k : SReg} (v : DWord) (h : r.val ≠ k.val) : (q.setS r v).s[k] = q.s[k] :=
  Vector.getElem_set_ne r.isLt k.isLt h

theorem Seqr.s_setS (q : Seqr) (r : SReg) (v : DWord) : (q.setS r v).s[r] = ⟨v, false, none⟩ := Vector.getElem_set_self r.isLt

theorem Block.seqStart_s_zero (b : Block) (p : PartId) :
    (b.seqStart p).s[(0 : SReg)] = ⟨if (b.part p).joining then 0 else (b.part p).stepCnt.zeroExtend 64, false, none⟩ := by
  rw [Block.seqStart, Seqr.s_setS_of_ne _ _ (by decide), Seqr.s_setS_of_ne _ _ (by decide), Seqr.s_setS_of_ne _ _ (by decide), Seqr.s_setS]

theorem Block.seqStart_s_one (b : Block) (p : PartId) :
    (b.seqStart p).s[(1 : SReg)] = ⟨BitVec.ofNat 64 (groupSize (b.part p).vset), false, none⟩ := by
  rw [Block.seqStart, Seqr.s_setS_of_ne _ _ (by decide), Seqr.s_setS_of_ne _ _ (by decide), Seqr.s_setS]

theorem Block.seqStart_s_two (b : Block) (p : PartId) : (b.seqStart p).s[(2 : SReg)] = ⟨b.logCoord.zeroExtend 64, false, none⟩ := by
  rw [Block.seqStart, Seqr.s_setS_of_ne _ _ (by decide), Seqr.s_setS]

theorem Block.seqStart_s_three (b : Block) (p : PartId) : (b.seqStart p).s[(3 : SReg)] = ⟨BitVec.ofNat 64 p.val, false, none⟩ := by
  rw [Block.seqStart, Seqr.s_setS]

theorem Block.seqStart_s_high (b : Block) (p : PartId) (k : SReg) (h : 4 ≤ k.val) : (b.seqStart p).s[k] = ⟨0, false, none⟩ := by
  have hk : ∀ j : SReg, j.val < 4 → j.val ≠ k.val := fun j hj => by omega
  rw [Block.seqStart, Seqr.s_setS_of_ne _ _ (hk 3 (by decide)), Seqr.s_setS_of_ne _ _ (hk 2 (by decide)),
    Seqr.s_setS_of_ne _ _ (hk 1 (by decide)), Seqr.s_setS_of_ne _ _ (hk 0 (by decide))]
  exact Vector.getElem_replicate k.isLt

/-- Settles O43: `Block.stepStart` by its branches, and the registers of `Block.seqStart` one kind after the other. -/
theorem stepStart : Obligations.StepStart := by
  unfold Obligations.StepStart
  intro p errs s b d left
  have run : ∀ {n : Block × Vector Mem 4}, s.block.stepStart s.bufs p errs = n →
      exec (.stepStart p errs) s = .next { s with block := finish s.block n.1, bufs := n.2 } := by
    rintro n rfl
    exact exec_stepStart p errs s
  refine ⟨fun h => run (Block.stepStart_of_left h), fun hl h => ?_, fun c hl hh hc => ⟨fun h => ?_, fun hp he hw => ?_⟩, ?_⟩
  · rcases h with h | h
    · exact run (Block.stepStart_of_behind hl h)
    · exact run (Block.stepStart_of_no_comb hl h)
  · exact run (Block.stepStart_of_asleep hl hh hc (h.imp_right (Or.imp_left Option.isSome_iff_ne_none.mpr)))
  · refine run (Block.stepStart_of_boil hl hh hc ?_)
    rintro (h | h | h)
    · exact h hp
    · exact Option.isSome_iff_ne_none.mp h he
    · exact Bool.noConfusion (hw.symm.trans h)
  · refine ⟨rfl, fun k => ?_, fun k => ?_, fun k => ?_, b.seqStart_s_high p, fun k => ?_, fun hj => ?_, ?_, ?_, ?_⟩
    · exact Vector.getElem_replicate k.isLt
    · exact (Vector.getElem_ofFn k.isLt).trans rfl
    · exact Vector.getElem_replicate k.isLt
    · exact Vector.getElem_replicate k.isLt
    · exact (congrArg Scal.v (b.seqStart_s_zero p)).trans (if_neg (ne_true_of_eq_false hj))
    · exact congrArg (fun x : Scal => x.v.toNat) (b.seqStart_s_one p)
    · exact congrArg Scal.v (b.seqStart_s_two p)
    · have hp : p.val < 2 ^ 64 := by omega
      exact (congrArg (fun x : Scal => x.v.toNat) (b.seqStart_s_three p)).trans (Nat.mod_eq_of_lt hp)

/-! ### The agreements -/

/-- The codebooks agree: the searches of the tensor at the head run and its gather starts (R143, R144). -/
def Block.startGather (b : Block) (p : PartId) (r : StepRun) (h : Nat) (errs : List MemErr) : Block :=
  let i := b.image p
  let e := i.entry h
  let xs := i.below h (r.trun h).w
  let f := b.cbSearch p errs e.beam e.iters (tilePatterns xs)
  let found := f.2
  let cbi := found.map Prod.fst
  let n := f.1.count r.comb (fun c => { c with excluded := wrapAdd c.excluded ((found.map (fun q => q.2.length)).foldl (· + ·) 0) })
  let n := n.modRun p (fun r => { r with count := { r.count with searches := r.count.searches + cbi.length } })
  let n := n.modT p h (fun t => { t with stage := 2, cbi := cbi, mags := magnitudes xs })
  (n.launchRounds p h .gather (numbered 0 (i.cut r.group h .gather 0 (i.kindUnits h .gather))) (fun p0 u o => { o with
    own := (cbi.drop p0).take u
    scales := (((magnitudes xs).drop (p0 / 32)).take (ceilDiv u 32)).flatMap (fun m => leBytes 4 m.toNat) })).drive p

section
variable {b : Block} {p : PartId} {r : StepRun}

theorem Block.steepEnough_modRun (f : StepRun → StepRun) : (b.modRun p f).steepEnough p = b.steepEnough p := by
  simp only [Block.steepEnough, Block.image_modRun, Block.part_modRun]

theorem Block.steepEnough_modPart_count (n : BitVec 32) (re : Bool) :
    (b.modPart p (fun x => { x with stepCnt := n, reformed := re })).steepEnough p = b.steepEnough p := by
  simp only [Block.steepEnough, Block.image, Block.part_modPart_self] <;> rfl

theorem Block.agreed_of_unchanged {cnt : Nat} (hj : (b.part p).joining = false) (hg : (b.part p).lastGroup = [] ∨ (b.part p).lastGroup = r.groupMap)
    (hb : r.progBad = false) (hp : (b.part p).progSt = .available) (hs : b.steepEnough p = true) :
    b.agreed p r cnt = (((b.modRun p (fun q => { q with agreed := true, stepNo := r.stepNo })).modPart p (fun x => { x with
      stepCnt := r.stepNo, reformed := false })).retakeHeld p).drive p := by
  have hre : (!(b.part p).lastGroup.isEmpty && (b.part p).lastGroup != r.groupMap) = false := by
    rcases hg with h | h <;> simp [h]
  have hst : ((b.modRun p (fun q => { q with agreed := true, stepNo := r.stepNo })).modPart p (fun x => { x with
      stepCnt := r.stepNo, reformed := false })).steepEnough p = true := by
    rw [Block.steepEnough_modPart_count, Block.steepEnough_modRun, hs]
  simp only [Block.agreed, hj, hre, hb, hp, hst, Bool.false_eq_true, if_false, Bool.false_or, bne_self_eq_false, Bool.not_true]

variable (hr : b.run? p = some r)
include hr

section
variable {m : BuzzOp} (hm : r.buzz.find? (fun o => o.why == .membership) = some m) (ha : r.agreed = false) (hab : r.abort = none)
  (ht : r.retryAt = none) (hc : m.capped = true)
include hm ha hab ht hc

theorem Block.membershipDone_eq :
    b.membershipDone p =
      if m.cur.getD 0 0 / 2 ^ 32 + m.cur.getD 1 0 / 2 ^ 32 ≠ 2 ^ 32 - 1 then b.originate p 0x0132 0
      else if m.cur.getD 0 0 % 2 ^ 32 + m.cur.getD 1 0 % 2 ^ 32 ≠ 2 ^ 32 - 1 then
        b.modRun p (fun r => { r with genBad := true, retryAt := some (b.now + 25) })
      else b.agreed p r (m.cur.getD 2 0) := by
  have hn : ¬(r.agreed = true ∨ r.abort.isSome = true ∨ r.retryAt.isSome = true ∨ (!m.capped) = true) := by simp [ha, hab, ht, hc]
  simp only [Block.membershipDone, hr, hm, if_neg hn]

end

section
variable {t : Nat} (ht : r.retryAt = some t) (hab : r.abort = none)
include ht hab

theorem Block.membershipRetry_of_inactive (h : (b.advanceTo t).active p = false) :
    b.membershipRetry p = (b.advanceTo t).endStep p r 0x0131 [] := by
  simp only [Block.membershipRetry, hr, ht, hab, Option.isSome_none, Bool.false_eq_true, if_false, h, Bool.not_false, if_true]

theorem Block.membershipRetry_of_active (h : (b.advanceTo t).active p = true) :
    b.membershipRetry p = ((((b.advanceTo t).modRun p (fun q => { q with
      retryAt := none, group := ((b.advanceTo t).part p).vset, me := (b.advanceTo t).logCoord, table := (b.advanceTo t).remap.assumes
      buzz := q.buzz.map (fun o => if o.why = .membership then
        { o with redo := (o.redo + 1) % 256, own := (b.advanceTo t).agreementOperands p, cur := (b.advanceTo t).agreementOperands p
                 dims := exchanges ((b.advanceTo t).part p).vset 1, got := [], sent := 0, capped := false } else o) })).retakeHeld p).drive p) := by
  simp only [Block.membershipRetry, hr, ht, hab, Option.isSome_none, Bool.false_eq_true, if_false, h, Bool.not_true]

end

section
variable {h : Nat} {rest : List Launch} {o : BuzzOp} {errs : List MemErr} (hl : r.launches = .tensor h :: rest) (ha : r.agreed = true)
  (hab : r.abort = none) (hme : ((b.image p).entry h).method = .codebook) (hst : (r.trun h).stage = 1)
  (hfo : r.buzz.find? (fun o => match o.why with | .digest t => t == h | _ => false) = some o) (hc : o.capped = true)
include hl ha hab hme hst hfo hc

/-- Once the digests' operation is capped, its results decide (R142). -/
theorem Block.digestDone_eq :
    b.digestDone p errs =
      if o.cur.getD 2 0 ≠ 0 then b.originate p 0x0583 o.opidx
      else if o.cur.getD 0 0 + o.cur.getD 1 0 ≠ 2 ^ 64 - 1 then b.originate p 0x0582 o.opidx
      else b.startGather p r h errs := by
  have hn : ¬((!r.atHead h) = true ∨ ((b.image p).entry h).method ≠ .codebook ∨ (r.trun h).stage ≠ 1 ∨ (!o.capped) = true) := by
    simp [StepRun.atHead, hl, ha, hab, hme, hst, hc]
  simp only [Block.digestDone, hr, hl]
  split
  case h_1 h0 => exact nomatch h0.symm.trans hfo
  case h_2 o' h0 =>
    cases Option.some.inj (h0.symm.trans hfo)
    exact if_neg hn

end

end

/-- Settles O44. -/
theorem agreements : Obligations.Agreements := by
  unfold Obligations.Agreements
  intro p r errs s hr hab b
  refine ⟨?_, ?_, ?_, ?_⟩
  · intro o x₀ x₁ y₀ y₁ cnt m hx hy ho hm ha ht hc hcur
    have e := Block.membershipDone_eq hr hm ha hab ht hc
    have h0 : m.cur.getD 0 0 = x₀ + 2 ^ 32 * x₁ := by rw [hcur, ho]; rfl
    have h1 : m.cur.getD 1 0 = y₀ + 2 ^ 32 * y₁ := by rw [hcur]; rfl
    have h2 : m.cur.getD 2 0 = cnt := by rw [hcur]; rfl
    have div : ∀ a k : Nat, a < 2 ^ 32 → (a + 2 ^ 32 * k) / 2 ^ 32 = k := fun a k h => by omega
    have mod : ∀ a k : Nat, a < 2 ^ 32 → (a + 2 ^ 32 * k) % 2 ^ 32 = a := fun a k h => by omega
    rw [h0, h1, h2, div _ _ hx, div _ _ hy, mod _ _ hx, mod _ _ hy] at e
    have run : ∀ {n : Block}, b.membershipDone p = n → exec (.membershipAgreementComplete p) s = .next (s.onBlock n) := by
      rintro n rfl; rfl
    exact ⟨fun h => run (e.trans (if_pos h)), fun h h' => run (e.trans ((if_neg (not_not_intro h)).trans (if_pos h'))),
      fun h h' => run (e.trans ((if_neg (not_not_intro h)).trans (if_neg (not_not_intro h'))))⟩
  · exact fun cnt hj hg hb hp hs => Block.agreed_of_unchanged hj hg hb hp hs
  · intro t ht n
    have run : ∀ {n : Block}, b.membershipRetry p = n → exec (.membershipAgreementRetry p) s = .next (s.onBlock n) := by
      rintro n rfl; rfl
    exact ⟨fun h => run (Block.membershipRetry_of_inactive hr ht hab h), fun h => run (Block.membershipRetry_of_active hr ht hab h)⟩
  · intro h o hl ha hme hst hfo hc
    obtain ⟨rest, hl⟩ := List.head?_eq_some_iff.mp hl
    have e := Block.digestDone_eq (errs := errs) hr hl ha hab hme hst hfo hc
    have run : ∀ {n : Block}, b.digestDone p errs = n → exec (.digestAgreementComplete p errs) s = .next (s.onBlock n) := by
      rintro n rfl; rfl
    exact ⟨fun h => run (e.trans (if_pos h)), fun h h' => run (e.trans ((if_neg (not_not_intro h)).trans (if_pos h'))),
      fun h h' => run (e.trans ((if_neg (not_not_intro h)).trans (if_neg (not_not_intro h'))))⟩

end Sys2Proof.Machine
end

/-! PROOF. The stages before a tensor's exchange (R71, R104, R128, R129). -/
section
namespace Sys2Proof.Machine
open Sys2Proof

theorem not_isEmpty_iff_ne_nil {α : Type} {l : List α} : (!l.isEmpty) = true ↔ l ≠ [] := by
  simp

theorem exec_selectBlocks (p : PartId) (t : BitVec 16) (s : State) :
    exec (.selectBlocks p t) s = .next (s.onBlock (s.block.selectBlocks p (s.block.headOf p t))) := rfl

theorem exec_quantisePack (p : PartId) (t : BitVec 16) (errs : List MemErr) (s : State) :
    exec (.quantisePack p t errs) s = .next (s.onBlock (s.block.quantisePack p (s.block.headOf p t) errs)) := rfl

theorem exec_lowrankOrthogonalise_none (p : PartId) (t : BitVec 16) (errs : List MemErr) (s : State) :
    exec (.lowrankOrthogonalise p t errs none) s = .next (s.onBlock (s.block.orthonormal p (s.block.headOf p t) errs)) := rfl

/-- Settles O46: at the head of the launches, in the stage named, nothing holds the three commands back, and each does what is left of its
definition. -/
theorem stagesBeforeTheExchange : Obligations.StagesBeforeTheExchange := by
  unfold Obligations.StagesBeforeTheExchange
  intro p t r errs s hr b i h e x hh
  change b.run? p = some r at hr
  have head : ∀ {P : Prop}, ¬P → ¬((!r.atHead h) = true ∨ P) := fun hP hn => hn.elim (by simp [hh]) hP
  refine ⟨fun scores hm hst hsc => ?_, fun k next te runs hk hte hruns hleft => ?_, fun hm hst hall => ?_, fun hm hst hall => ?_⟩
  · intro k conf n
    have run : ∀ {n : Block}, b.selectBlocks p h = n → exec (.selectBlocks p t) s = .next (s.onBlock n) := by
      rintro n rfl
      exact exec_selectBlocks p t s
    refine run ?_
    simp only [Block.selectBlocks, hr]
    refine (if_neg (head (not_or.mpr ⟨not_not_intro hm, not_not_intro hst⟩))).trans ?_
    change r.scoresDone (b.image p) h = some scores at hsc
    rw [hsc]
  · intro d
    have run : ∀ {n : Block}, b.quantisePack p h errs = n → exec (.quantisePack p t errs) s = .next (s.onBlock n) := by
      rintro n rfl
      exact exec_quantisePack p t errs s
    change packKind ((b.image p).entry h).method (r.trun h).stage = some (k, next) at hk
    change r.packRuns h k ((b.image p).kindUnits h k) = some runs at hruns
    have hn := head (P := x.left.isSome = true) (by simp [hleft])
    refine ⟨fun hd => run ?_, fun hd => ?_⟩
    · have hd' := not_isEmpty_iff_ne_nil.mpr hd
      simp only [Block.quantisePack, hr]
      rw [hk]
      dsimp only
      rw [hte, hruns]
      exact (if_neg hn).trans (if_pos hd')
    · intro f convs codes n
      have hd' : ¬(!d.2.isEmpty) = true := by simp [hd]
      refine run ?_
      simp only [Block.quantisePack, hr]
      rw [hk]
      dsimp only
      rw [hte, hruns]
      exact (if_neg hn).trans (if_neg hd')
  all_goals
    have run : ∀ {n : Block}, b.orthonormal p h errs = n → exec (.lowrankOrthogonalise p t errs none) s = .next (s.onBlock n) := by
      rintro n rfl
      exact exec_lowrankOrthogonalise_none p t errs s
    have hn := head (not_or.mpr ⟨not_not_intro hm, not_not_intro hst⟩)
  · refine run ?_
    simp only [Block.orthonormal, hr]
    exact (if_neg hn).trans (if_pos (by rw [hall]; rfl))
  · intro d
    have hall' : ¬(!(r.kindRounds h .factorP).all (fun o => o.st == .capped || o.st == .drained)) = true := by simp [hall]
    refine ⟨fun hd => run ?_, fun hd hop r' => ?_⟩
    · simp only [Block.orthonormal, hr]
      exact (if_neg hn).trans ((if_neg hall').trans (if_pos (hd.imp_left not_isEmpty_iff_ne_nil.mpr)))
    · intro n hr' y ps ph q y' m
      refine run ?_
      simp only [Block.orthonormal, hr]
      refine (if_neg hn).trans ((if_neg hall').trans ((if_neg ?_).trans ?_))
      · rintro (h0 | h0)
        · exact not_isEmpty_iff_ne_nil.mp h0 hd
        · exact Bool.noConfusion (hop.symm.trans h0)
      · split
        case h_1 hnone => exact nomatch hr'.symm.trans hnone
        case h_2 r'' hsome =>
          obtain rfl := Option.some.inj (hsome.symm.trans hr')
          rfl

end Sys2Proof.Machine
end

/-! PROOF. The stages after a tensor's exchange (R72, R89, R98, R99, R121, R128, R153, R154, R263, R407). -/
section
namespace Sys2Proof.Machine
open Sys2Proof

/-! ### The issued operations go on -/

theorem State.goOps_eq (s : State) (p : PartId) (f : Block → Block) : s.goOps p f = .next (s.wentOn p (f s.block)) := by
  simp only [State.goOps, State.wentOn, State.actBufs_next]
  cases (f s.block).run? p <;> rfl

theorem exec_unpackDequantise (p : PartId) (t : BitVec 16) (sram : Option Bool) (s : State) :
    exec (.unpackDequantise p t sram) s =
      .next (s.wentOn p ((s.block.hcbRead p (s.block.headOf p t) sram).unpack p (s.block.headOf p t))) :=
  s.goOps_eq p (fun b => (b.hcbRead p (b.headOf p t) sram).unpack p (b.headOf p t))

theorem exec_codebookDecode (p : PartId) (t : BitVec 16) (errs : List MemErr) (sram : Option Bool) (s : State) :
    exec (.codebookDecode p t errs sram) s =
      .next (s.wentOn p ((s.block.hcbRead p (s.block.headOf p t) sram).cbDecode p (s.block.headOf p t) errs)) :=
  s.goOps_eq p (fun b => (b.hcbRead p (b.headOf p t) sram).cbDecode p (b.headOf p t) errs)

theorem exec_writeResidual (p : PartId) (t : BitVec 16) (errs : List MemErr) (s : State) :
    exec (.writeResidual p t errs) s = .next (s.wentOn p (s.block.writeResidual p (s.block.headOf p t) errs)) :=
  s.goOps_eq p (fun b => b.writeResidual p (b.headOf p t) errs)

theorem exec_deliverResult (p : PartId) (t : BitVec 16) (s : State) :
    exec (.deliverResult p t) s = .next (s.wentOn p (s.block.deliver p (s.block.headOf p t))) :=
  s.goOps_eq p (fun b => b.deliver p (b.headOf p t))

theorem exec_lowrankOrthogonalise (p : PartId) (t : BitVec 16) (errs : List MemErr) (sram : Option Bool) (s : State) :
    exec (.lowrankOrthogonalise p t errs sram) s =
      .next (s.onBlock ((s.block.hcbRead p (s.block.headOf p t) sram).orthonormal p (s.block.headOf p t) errs)) := rfl

section
variable {b : Block} {p : PartId} {r : StepRun} {h : Nat} (hr : b.run? p = some r)
include hr

/-! ### An error in a Honeycomb word (R407) -/

theorem Block.hcbRead_of_none {ue : Bool} (hf : r.rounds.find? (fun o => o.tensor == h && decide (0 < o.cells)) = none) :
    b.hcbRead p h (some ue) = b := by
  simp only [Block.hcbRead, hr, hf]

theorem Block.hcbRead_of_some {ue : Bool} {o : Round} (hf : r.rounds.find? (fun o => o.tensor == h && decide (0 < o.cells)) = some o) :
    b.hcbRead p h (some ue) = if ue = true then (b.log 0x0330 (.honeycomb 0) (some p) []).originate p 0x0330 o.opidx
      else ({ b with hcbSramCorr := satAdd b.hcbSramCorr 1 }).log 0x0331 (.honeycomb 0) (some p) [] := by
  simp only [Block.hcbRead, hr, hf]
  cases ue <;> rfl

/-! ### Every round of a CODEBOOK tensor is decoded -/

theorem Block.cbFinish_of_rest
    (h0 : (!r.launches.any (fun l => match l with | .tensor t => t == h | _ => false)) = false ∨
      (r.kindRounds h .gather).all (fun o => o.st == .drained) = false) : b.cbFinish p h = b := by
  simp only [Block.cbFinish, hr]
  exact if_pos (Bool.or_eq_true_iff.mpr (h0.imp (fun h1 => (Bool.not_eq_false' _).mp h1) (fun h1 => congrArg not h1)))

end

/-- Settles O47. -/
theorem stagesAfterTheExchange : Obligations.StagesAfterTheExchange := by
  unfold Obligations.StagesAfterTheExchange
  intro p t r errs s hr hab b i h e x go last k full
  change b.run? p = some r at hr
  have habn : ¬r.abort.isSome = true := by simp [hab]
  refine ⟨fun ue => ⟨fun hf => ?_, fun o hf => ?_⟩, fun hm hd hx hp => ?_, ?_, ?_, fun l hd hres => ?_, fun l hd hdel hprods => ?_⟩
  · have e0 : b.hcbRead p h (some ue) = b := Block.hcbRead_of_none hr hf
    refine ⟨(exec_unpackDequantise p t _ s).trans ?_, (exec_lowrankOrthogonalise p t errs _ s).trans ?_,
      (exec_codebookDecode p t errs _ s).trans ?_⟩
    · exact (congrArg (fun n => Host.Outcome.next (s.wentOn p (n.unpack p h))) e0).trans (exec_unpackDequantise p t none s).symm
    · exact congrArg (fun n => Host.Outcome.next (s.onBlock (n.orthonormal p h errs))) e0
    · exact (congrArg (fun n => Host.Outcome.next (s.wentOn p (n.cbDecode p h errs))) e0).trans (exec_codebookDecode p t errs none s).symm
  · have e0 := Block.hcbRead_of_some (ue := ue) hr hf
    exact ⟨(exec_unpackDequantise p t _ s).trans (congrArg (fun n => Host.Outcome.next (s.wentOn p (n.unpack p h))) e0),
      (exec_lowrankOrthogonalise p t errs _ s).trans (congrArg (fun n => Host.Outcome.next (s.onBlock (n.orthonormal p h errs))) e0),
      (exec_codebookDecode p t errs _ s).trans (congrArg (fun n => Host.Outcome.next (s.wentOn p (n.cbDecode p h errs))) e0)⟩
  · intro n r' hr' y acc te fin
    have run : ∀ {n : Block}, b.unpack p h = n → exec (.unpackDequantise p t none) s = go n := by
      rintro n rfl
      exact exec_unpackDequantise p t none s
    have hg : ¬(r.abort.isSome = true ∨ e.method = .codebook ∨ x.decoded.isSome = true ∨ (!x.xissued) = true ∨
        (x.pred.isSome = true ∧ x.conf.isNone = true)) := by
      rcases hp with hp | hp
      · simp [hab, hm, hd, hx, hp]
      · simp [hab, hm, hd, hx, Option.ne_none_iff_isSome.mpr hp]
    obtain ⟨u, hu⟩ : ∃ u, b.unpack p h = u := ⟨_, rfl⟩
    have eq := hu
    simp only [Block.unpack, hr] at eq
    rw [show (if ((b.image p).entry h).method = .lowrank then RKind.factorQ else .main) = k from rfl] at eq
    replace eq := (if_neg hg).symm.trans eq
    rw [hr'] at eq
    refine ⟨fun hl => run (hu.trans (((if_pos ?_).symm.trans eq).symm)), fun hl hpd => ?_⟩
    · exact Bool.or_eq_true_iff.mpr (hl.imp (fun h0 => congrArg not h0) (fun h0 => congrArg not h0))
    · have hn : ¬(!last || !r'.payloadDrained h k) = true := by rw [hl, hpd]; exact Bool.false_ne_true
      replace eq := (if_neg hn).symm.trans eq
      refine ⟨fun hme => ?_, fun hme => ?_, fun hme hz => ?_, fun z hme hz => ?_, fun hme => ?_⟩ <;>
        change ((b.image p).entry h).method = _ at hme <;> rw [hme] at eq
      · exact run (hu.trans eq.symm)
      · exact run (hu.trans eq.symm)
      · rw [hz] at eq
        exact run (hu.trans eq.symm)
      · rw [hz] at eq
        exact run (hu.trans eq.symm)
      · exact run (hu.trans eq.symm)
  · intro rs hm hd hrs words d n cb wide hit
    have run : ∀ {n : Block}, b.cbDecode p h errs = n → exec (.codebookDecode p t errs none) s = go n := by
      rintro n rfl
      exact exec_codebookDecode p t errs none s
    have hg : ¬(r.abort.isSome = true ∨ e.method ≠ .codebook ∨ x.decoded.isSome = true ∨ rs.isEmpty = true) := by
      simp [hab, hm, hd, hrs]
    obtain ⟨u, hu⟩ : ∃ u, b.cbDecode p h errs = u := ⟨_, rfl⟩
    have eq := hu
    simp only [Block.cbDecode, hr] at eq
    replace eq := (if_neg hg).symm.trans eq
    refine ⟨fun o src hw => ?_, fun o hw hh => ?_, fun hw hh => ?_⟩ <;>
      simp only [wide, rs, i] at hw <;> rw [hw] at eq
    · exact run (hu.trans eq.symm)
    · simp only [hit, cb, n, d, words, rs, i] at hh
      rw [hh] at eq
      exact run (hu.trans eq.symm)
    · simp only [hit, cb, n, d, words, rs, i] at hh
      rw [hh] at eq
      exact run (hu.trans eq.symm)
  · refine ⟨Block.cbFinish_of_rest hr, fun hl hrest => ?_⟩
    simp only [Block.cbFinish, hr]
    refine if_neg fun h0 => ?_
    rcases Bool.or_eq_true_iff.mp h0 with h0 | h0
    · exact Bool.noConfusion (((Bool.not_eq_true' _).mp hl).symm.trans h0)
    · exact Bool.noConfusion (hrest.symm.trans ((Bool.not_eq_true' _).mp h0))
  · have run : ∀ {n : Block}, b.writeResidual p h errs = n → exec (.writeResidual p t errs) s = go n := by
      rintro n rfl
      exact exec_writeResidual p t errs s
    have hg : ¬(r.abort.isSome = true ∨ x.decoded.isNone = true ∨ x.residDone = true) := by
      simp [hab, hd, hres]
    refine ⟨fun he => run ?_, fun he => ?_⟩
    · simp only [Block.writeResidual, hr]
      exact (if_neg hg).trans (if_pos (congrArg not he))
    · intro d bad own n
      refine run ?_
      have he' : ¬(!e.ef) = true := by rw [he]; exact Bool.false_ne_true
      simp only [Block.writeResidual, hr]
      refine (if_neg hg).trans ((if_neg he').trans ?_)
      exact congrArg (fun m : Block => Block.residLoop p h own.1 (fun t k => bad.any (fun x => x.1 == t && x.2.2 == k))
        ((i.residPages x h).length + 1) (m.modT p h (fun t => { t with resid := some (t.resid.getD 0) })))
        (ite_congr (propext Option.isNone_iff_eq_none) (fun _ => rfl) (fun _ => rfl))
  · have run : ∀ {n : Block}, b.deliver p h = n → exec (.deliverResult p t) s = go n := by
      rintro n rfl
      exact exec_deliverResult p t s
    have hg : ¬(r.abort.isSome = true ∨ x.delivered = true ∨
        ((b.comb r.comb).prods.any (fun g => g.dst.region == 1 && (i.unit h).contains g.dst.tensor)) = true) := by
      simp only [habn, hdel, hprods, Bool.false_eq_true, or_self, not_false_iff]
    refine run ?_
    change (r.trun h).decoded = some l at hd
    simp only [Block.deliver, hr]
    rw [hd]
    exact if_neg hg

end Sys2Proof.Machine
end

/-! PROOF. How collectives and steps go on and end (R49, R56, R242, R244, R246, R247, R250, R264, R293). -/
section
namespace Sys2Proof.Machine
open Sys2Proof

/-! ### The results of a sum (R49, R264, R293) -/

section
variable {b : Block} {p : PartId} {o : BuzzOp} {c : CombId} {sd : SReg} {w : Nat} (hw : o.why = .sred c sd w)
include hw

theorem Block.showSum_of_new (h : o.shown = false) : b.showSum p o =
    (b.modSeq c (fun q => q.writeSum o.op o.opidx sd o.cur)).modBuzz p o.opidx (fun o => { o with shown := true }) := by
  simp only [Block.showSum, hw, h, Bool.false_eq_true, if_false]

theorem Block.showSum_of_shown (h : o.shown = true) :
    b.showSum p o = b.mapScal p c (Scal.refresh o.opidx (fun k => sredValue o.op (o.cur.getD k 0))) := by
  simp only [Block.showSum, hw, h, if_true]

variable (h4 : o.op ≠ 4)
include h4

theorem Block.buzzEffect_of_sum (h : o.isSum = true) : b.buzzEffect p o = (b.showSum p o).mapScal p c (Scal.settle o.opidx) := by
  simp only [Block.buzzEffect, hw, if_neg h4, h, if_true]

theorem Block.buzzEffect_of_max (h : o.isSum = false) : b.buzzEffect p o = b.modSeq c (fun q => q.writeSred o.op sd o.cur) := by
  simp only [Block.buzzEffect, hw, if_neg h4, h, Bool.false_eq_true, if_false]

end

section
variable (n : Nat) (f : Nat → DWord) (x : Scal)

theorem Scal.refresh_of_none (h : x.ex = none) : x.refresh n f = x := by
  simp only [Scal.refresh, h]

theorem Scal.settle_of_none (h : x.ex = none) : x.settle n = x := by
  simp only [Scal.settle, h]

variable {x} {e : SExpr} (h : x.ex = some e)
include h

theorem Scal.refresh_of_some : x.refresh n f = { x with v := (e.refresh n f).eval, ex := some (e.refresh n f) } := by
  simp only [Scal.refresh, h]

theorem Scal.settle_of_some : x.settle n = { x with ex := if (e.settle n).isOpen = true then some (e.settle n) else none } := by
  simp only [Scal.settle, h]

end

/-! ### ROUND_ALLOCATE -/

section
variable {b : Block} {p : PartId} {r : StepRun} {op : Nat}

/-- The cells that a partition keeps for the round are no longer kept. -/
def Block.spendCells (b : Block) (p : PartId) (o : Round) : Block :=
  b.modPart p (fun x => { x with nextCells := x.nextCells.filter (fun q => !(q.1 == o.tensor && q.2.1 == o.rnd)) })

section
variable {o : Round}

theorem Block.allocRound_of_dropped (h : o.kind = .predicted ∧ ((b.comb r.comb).tokFree < 32 ∨ (r.trun o.tensor).predBad = true)) :
    b.allocRound p r o = (((b.freeCells ((b.part p).credit o)).spendCells p o).modRound p o.opidx (fun o => { o with st := .dropped })).retakeBulk p := by
  simp only [Block.allocRound, if_pos h, Block.spendCells]

variable (hd : ¬(o.kind = .predicted ∧ ((b.comb r.comb).tokFree < 32 ∨ (r.trun o.tensor).predBad = true)))
include hd

theorem Block.allocRound_of_short
    (h : (b.comb r.comb).tokFree = 0 ∨
      (b.image p).quota < (b.part p).cells - (b.part p).credit o + (b.image p).cellsFor r.group o.tensor o.kind o.u ∨
      b.hcbFree + (b.part p).credit o < (b.image p).cellsFor r.group o.tensor o.kind o.u) : b.allocRound p r o = b := by
  simp only [Block.allocRound, if_neg hd, if_pos h]

theorem Block.allocRound_of_enough (ht : (b.comb r.comb).tokFree ≠ 0)
    (hq : (b.part p).cells - (b.part p).credit o + (b.image p).cellsFor r.group o.tensor o.kind o.u ≤ (b.image p).quota)
    (hf : (b.image p).cellsFor r.group o.tensor o.kind o.u ≤ b.hcbFree + (b.part p).credit o) :
    let need := (b.image p).cellsFor r.group o.tensor o.kind o.u
    let n := (((b.freeCells ((b.part p).credit o)).takeCells need).spendCells p o).takeToken r.comb
    let g := n.roundStart p r { o with cells := need, token := true }
    b.allocRound p r o = ((g.1.modRound p o.opidx (fun _ => g.2)).retakeBulk p).runRound p o.opidx := by
  have hn : ¬((b.comb r.comb).tokFree = 0 ∨
      (b.image p).quota < (b.part p).cells - (b.part p).credit o + (b.image p).cellsFor r.group o.tensor o.kind o.u ∨
      b.hcbFree + (b.part p).credit o < (b.image p).cellsFor r.group o.tensor o.kind o.u) :=
    not_or.mpr ⟨ht, not_or.mpr ⟨Nat.not_lt.mpr hq, Nat.not_lt.mpr hf⟩⟩
  simp only [Block.allocRound, if_neg hd, if_neg hn, Block.spendCells]

end

theorem StepRun.any_opidx_of_firstWaiting {o : Round} (h : r.firstWaiting = some o) (ho : o.opidx = op) :
    r.rounds.any (fun o => o.opidx == op) = true :=
  List.any_eq_true.mpr ⟨o, List.mem_of_find?_eq_some h, beq_iff_eq.mpr ho⟩

variable (hr : b.run? p = some r) (hab : r.abort = none)
include hr hab

theorem Block.allocate_of_round {o : Round} (h : r.firstWaiting = some o) (ho : o.opidx = op) :
    b.allocate p op = (b.allocRound p r o).drive p := by
  simp only [Block.allocate, hr, hab, Option.isSome_none, Bool.false_eq_true, if_false, r.any_opidx_of_firstWaiting h ho, if_true, h, ho]

theorem Block.allocate_of_sum {o : BuzzOp} (h : r.rounds.any (fun o => o.opidx == op) = false)
    (ho : r.buzz.find? (fun o => o.opidx == op && o.isSum && !o.token && !o.capped) = some o) (ht : (b.comb r.comb).tokFree ≠ 0) :
    b.allocate p op = ((b.takeToken r.comb).modBuzz p op (fun o => { o with token := true })).drive p := by
  simp only [Block.allocate, hr, hab, Option.isSome_none, Bool.false_eq_true, if_false, h, Block.allocSum, ho, if_neg ht]

/-! ### CAP_REPORT_SEND -/

section
variable {o : Round} (hf : r.rounds.find? (fun o => o.opidx == op) = some o)
  (hs : r.buzz.any (fun x => x.isReport && x.opidx == op && x.redo == o.redo) = false)
include hf hs

theorem Block.capReport_of_dropped (hst : o.st = .dropped) (hc : (r.trun o.tensor).conf.isSome = true) :
    b.capReport p op = b.sendReport p op o.redo 3 := by
  simp only [Block.capReport, hr, hab, Option.isSome_none, Bool.false_eq_true, if_false, hf, hs, hst, hc, if_true]

/-- The status of a round that was not dropped (R244). -/
theorem Block.capReport_of_done (hst : o.st = .done)
    (he : o.linkFail = true ∨ r.positive op o.redo = true ∨ b.unacked (b.ownBulk p r o) = false) :
    b.capReport p op = b.sendReport p op o.redo (if o.resFail = true then 2 else if o.linkFail = true then 1 else 0) := by
  have hok : ((o.linkFail || r.positive op o.redo) || !b.unacked (b.ownBulk p r o)) = true := by
    rcases he with he | he | he <;> simp [he]
  simp only [Block.capReport, hr, hab, Option.isSome_none, Bool.false_eq_true, if_false, hf, hs, hst, hok, if_true, reduceCtorEq]

theorem Block.capReport_of_running (hst : o.st = .running) (he : o.linkFail = true ∨ r.positive op o.redo = true) :
    b.capReport p op = b.sendReport p op o.redo (if o.resFail = true then 2 else if o.linkFail = true then 1 else 0) := by
  have hok : (o.linkFail || r.positive op o.redo) = true := Bool.or_eq_true_iff.mpr he
  simp only [Block.capReport, hr, hab, Option.isSome_none, Bool.false_eq_true, if_false, hf, hs, hst, hok, if_true, reduceCtorEq]

end

theorem Block.capReport_of_sum {o : BuzzOp} (hf : r.rounds.find? (fun o => o.opidx == op) = none)
    (ho : r.buzz.find? (fun o => o.opidx == op && !o.isReport) = some o) (hsum : o.isSum = true) (hc : o.capped = false)
    (hs : r.buzz.any (fun x => x.isReport && x.opidx == op && x.redo == o.redo) = false)
    (he : o.failed = true ∨ r.positive op o.redo = true ∨ (o.complete = true ∧ b.unacked (b.ownBuzz p r o) = false)) :
    b.capReport p op = b.sendReport p op o.redo (if o.resFail = true then 2 else o.failed.toNat) := by
  have hok : (o.failed || r.positive op o.redo || (o.complete && !b.unacked (b.ownBuzz p r o))) = true := by
    rcases he with he | he | he <;> simp [he]
  have hn : ¬(!o.isSum || o.capped || r.buzz.any (fun x => x.isReport && x.opidx == op && x.redo == o.redo)) = true := by simp [hsum, hc, hs]
  simp only [Block.capReport, hr, hab, Option.isSome_none, Bool.false_eq_true, if_false, hf, ho, if_neg hn, if_pos hok, b2n_eq_toNat]

/-! ### COLLECTIVE_TIMEOUT and SETTLE_PERIOD_END -/

section
variable {o : BuzzOp} (ho : r.buzz.find? (fun o => o.opidx == op && !o.isReport) = some o)
include ho

theorem Block.collTimeout_of_membership (hw : o.why = .membership) (ha : r.agreed = false) :
    b.collTimeout p op = (b.advanceTo (o.since + (b.part p).timeout.eff)).originate p (if r.genBad = true then 0x0130 else 0x0101) op := by
  simp only [Block.collTimeout, hr, hab, Option.isSome_none, Bool.false_eq_true, if_false, ho, hw, ha, if_true]

theorem Block.collTimeout_of_buzz (hw : o.why ≠ .membership) (hc : o.capped = false) :
    b.collTimeout p op = (b.advanceTo (o.since + (b.part p).timeout.eff)).originate p 0x0101 op := by
  simp only [Block.collTimeout, hr, hab, Option.isSome_none, Bool.false_eq_true, if_false, ho, if_neg hw, hc]

end

theorem Block.collTimeout_of_round {o : Round} (ho : r.buzz.find? (fun o => o.opidx == op && !o.isReport) = none)
    (hf : r.rounds.find? (fun o => o.opidx == op) = some o) (hc : o.st ≠ .capped) (hd : o.st ≠ .drained) :
    b.collTimeout p op = (b.advanceTo (o.since + (b.part p).timeout.eff)).originate p 0x0101 op := by
  simp only [Block.collTimeout, hr, hab, Option.isSome_none, Bool.false_eq_true, if_false, ho, hf, if_neg (not_or.mpr ⟨hc, hd⟩)]

end

/-- Settles O48. -/
theorem collectiveProgress : Obligations.CollectiveProgress := by
  unfold Obligations.CollectiveProgress
  refine ⟨fun p o c sd w b hw => ⟨Block.showSum_of_new hw, Block.showSum_of_shown hw, fun hs h4 => Block.buzzEffect_of_sum hw h4 hs,
    fun hs h4 => Block.buzzEffect_of_max hw h4 hs⟩, fun n f x k v u g a c => ⟨?_, ?_, ?_, ?_⟩, ?_⟩
  · exact fun h => ⟨x.refresh_of_none n f h, x.settle_of_none n h⟩
  · intro h
    rw [Scal.refresh_of_some n f h, Scal.settle_of_some n h]
    simp only [SExpr.refresh, SExpr.settle, if_true, SExpr.eval, SExpr.isOpen, Bool.false_eq_true, if_false, and_self]
  · intro h
    rw [Scal.refresh_of_some n f h, Scal.settle_of_some n h]
    exact ⟨rfl, rfl⟩
  · intro h
    rw [Scal.settle_of_some n h]
    simp only [SExpr.settle, if_true, SExpr.isOpen, Bool.or_self, Bool.false_eq_true, if_false]
  · intro p k r s hr b i op
    refine ⟨fun hab => ⟨fun o hf ho => ?_, fun o h ho ht => ?_, fun o hf hs => ?_, fun o hf ho hsum hc hs he => ?_, ?_⟩, fun code hab => ?_⟩
    · intro need mine spend tok
      have run : ∀ {n : Block}, b.allocRound p r o = n → exec (.roundAllocate p k) s = .next (s.onBlock (n.drive p)) := by
        rintro n rfl
        exact congrArg (fun n => Host.Outcome.next (s.onBlock n)) (Block.allocate_of_round hr hab hf ho)
      exact ⟨fun hk hd => run (Block.allocRound_of_dropped ⟨hk, hd⟩), fun hd => ⟨fun h => run (Block.allocRound_of_short hd h),
        fun ht hq hc => run (Block.allocRound_of_enough hd ht hq hc)⟩⟩
    · exact congrArg (fun n => Host.Outcome.next (s.onBlock n)) (Block.allocate_of_sum hr hab h ho ht)
    · have run : ∀ {n : Block}, b.capReport p op = n → exec (.capReportSend p k) s = .next (s.onBlock n) := by
        rintro n rfl; rfl
      exact ⟨fun h hc => run (Block.capReport_of_dropped hr hab hf hs h hc), fun h he => run (Block.capReport_of_done hr hab hf hs h he),
        fun h he => run (Block.capReport_of_running hr hab hf hs h he)⟩
    · exact congrArg (fun n => Host.Outcome.next (s.onBlock n)) (Block.capReport_of_sum hr hab hf ho hsum hc hs he)
    · intro limit
      have run : ∀ {n : Block}, b.collTimeout p op = n → exec (.collectiveTimeout p k) s = .next (s.onBlock n) := by
        rintro n rfl; rfl
      exact ⟨fun o ho => ⟨fun hw ha => run (Block.collTimeout_of_membership hr hab ho hw ha),
        fun hw hc => run (Block.collTimeout_of_buzz hr hab ho hw hc)⟩, fun o ho hf hc hd => run (Block.collTimeout_of_round hr hab ho hf hc hd)⟩
    · intro n
      have run : ∀ {n : Block}, b.settleEnd p = n → exec (.settlePeriodEnd p) s = .next (s.onBlock n) := by
        rintro n rfl; rfl
      change b.run? p = some r at hr
      refine run ?_
      simp only [Block.settleEnd, hr, hab]
      rfl

end Sys2Proof.Machine
end

/-! PROOF. Buzz messages (R55, R205, R210, R211, R221). -/
section
namespace Sys2Proof.Machine
open Sys2Proof

/-! ### The arrival by its checks -/

section
variable {x : Link} {m : BuzzRx} (hx : x.st = .inService)
include hx

theorem Link.arriveBuzz_of_failed (hr : m.raw = false) (ho : m.ok = false) : x.arriveBuzz m = ((x.fec m.fec).bnak, .discard, false) :=
  (if_neg (not_not_intro hx)).trans (if_pos (by rw [hr, ho]; rfl))

variable (hok : m.raw = true ∨ m.ok = true)
include hok

/-- A message that passes its checks, or is taken raw, is judged by its sequence number. -/
theorem Link.arriveBuzz_eq : x.arriveBuzz m =
    let y := x.fec m.fec
    let s := BitVec.ofNat 12 (field m.head 0x38 2)
    let d := (s - x.rx.bexp).toNat
    if d = 0 then
      if (!headOk 1 m.head) = true then (y, .leave 0x0209, false)
      else if grants.buzz < x.rx.held.buzz + 2 then (y, .leave 0x0206, false)
      else (({ y with
        rx := { x.rx with bexp := x.rx.bexp + 1, bnakWait := false, held := x.rx.held.map 1 (· + 2), back := if m.raw = true then x.rx.back else s
                          unconf := if m.raw = true then x.rx.unconf ++ [⟨s, m.head, m.body⟩] else x.rx.unconf }
        cnt := { y.cnt with rxBytes := wrapAdd y.cnt.rxBytes 128 } } : Link).lcDue, .accept, !m.raw)
    else if d ≤ 63 then (y.bnak, .discard, false)
    else if 4032 ≤ d then ({ y with cnt := { y.cnt with dup := wrapAdd y.cnt.dup 1 } }, .discard, false)
    else (y, .leave 0x0207, false) := by
  have hf : ¬(!m.raw && !m.ok) = true := by
    rcases hok with h | h <;> simp [h]
  exact (if_neg (not_not_intro hx)).trans (if_neg hf)

end

/-! ### The message of each operation -/

section
variable {b : Block} {l : LinkId} {op : Nat} {m : BuzzRx}

/-- The link after the arrival, with the group of the link busy (R390). -/
def Block.buzzArrived (b : Block) (l : LinkId) (m : BuzzRx) : Block :=
  ((b.simmerExit l).busyGroup l).setLink l ((((b.simmerExit l).busyGroup l).link l).arriveBuzz m).1

/-- What the arrival decides. -/
def Block.buzzVerdict (b : Block) (l : LinkId) (m : BuzzRx) : Verdict × Bool := ((((b.simmerExit l).busyGroup l).link l).arriveBuzz m).2

variable (hr : b.inReset = false) (hop : headOk 1 m.head = true → (hdBuzz m.head).op = op)
include hr hop

theorem buzz_guard : ¬(b.inReset = true ∨ (headOk 1 m.head = true ∧ (hdBuzz m.head).op ≠ op)) := by
  rintro (h | ⟨h, h'⟩)
  · exact Bool.noConfusion (hr.symm.trans h)
  · exact h' (hop h)

theorem Block.buzz_of_discard (hv : (b.buzzVerdict l m).1 = .discard) : b.buzz l op m = b.buzzArrived l m := by
  refine (if_neg (buzz_guard hr hop)).trans ?_
  simp only [Block.buzzVerdict] at hv
  simp only [hv, Block.buzzArrived]

theorem Block.buzz_of_leave {code : Nat} (hv : (b.buzzVerdict l m).1 = .leave code) :
    b.buzz l op m = (b.buzzArrived l m).leaveService l code false := by
  refine (if_neg (buzz_guard hr hop)).trans ?_
  simp only [Block.buzzVerdict] at hv
  simp only [hv, Block.buzzArrived]

theorem Block.buzz_of_accept (hv : (b.buzzVerdict l m).1 = .accept) :
    b.buzz l op m =
      let t := (b.buzzArrived l m).modLink l (fun x => x.giveBack 1 2)
      let body := m.body.take (hdLen m.head)
      if t.kettle.stopped = true then t
      else if hdDst m.head ≠ t.boot.physCoord then t.relayMsg 128 m.head body
      else t.deliverBuzz l ⟨true, m.head, body, l, if (b.buzzVerdict l m).2 = true then none else some (BitVec.ofNat 12 (field m.head 0x38 2)),
        match m.strike with | some s => .adder s | none => .none⟩ := by
  refine (if_neg (buzz_guard hr hop)).trans ?_
  simp only [Block.buzzVerdict] at hv
  simp only [hv, Block.buzzArrived, Block.buzzVerdict] <;> rfl

end

theorem exec_buzzMessage {op : Nat} {i : LinkId → BuzzRx → Instr}
    (h : (op, i) ∈ [(1, Instr.buzzBarrier), (2, .buzzSumW32), (3, .buzzSumW64), (4, .buzzSumF32), (5, .buzzMax8), (6, .buzzMax16), (7, .buzzMax32),
      (8, .buzzMax64), (0x10, .buzzCapReport), (0x11, .buzzAbort)]) (l : LinkId) (m : BuzzRx) (s : State) :
    exec (i l m) s = .next (s.onBlock (s.block.buzz l op m)) := by
  simp only [List.mem_cons, List.not_mem_nil, or_false, Prod.mk.injEq] at h
  rcases h with ⟨rfl, rfl⟩ | ⟨rfl, rfl⟩ | ⟨rfl, rfl⟩ | ⟨rfl, rfl⟩ | ⟨rfl, rfl⟩ | ⟨rfl, rfl⟩ | ⟨rfl, rfl⟩ | ⟨rfl, rfl⟩ | ⟨rfl, rfl⟩ | ⟨rfl, rfl⟩ <;> rfl

/-! ### Delivery (R55, R194) -/

section
variable {b : Block} {l : LinkId} {m : HeldMsg} (hs : b.kettle.stopped = false)
include hs

theorem Block.deliverBuzz_of_undefined (hi : (b.part (hdPart m.head)).img = none) :
    b.deliverBuzz l m = b.log 0x0105 (.link l) (some (hdPart m.head)) [] := by
  simp only [Block.deliverBuzz, hs, hi, Option.isNone_none, Bool.false_eq_true, if_false, if_true]

variable (hi : (b.part (hdPart m.head)).img.isSome = true)
include hi

theorem Block.deliverBuzz_of_idle (hr : b.run? (hdPart m.head) = none) :
    b.deliverBuzz l m = if b.agreeExempt (hdPart m.head) m.head = true ∨ b.epochOpen (hdPart m.head) = true ∨
        b.epochDiff (hdPart m.head) (hdEpoch m.head) ≤ 1 then
      b.modPart (hdPart m.head) (fun x => { x with heldNext := x.heldNext ++ [m] })
    else b.log 0x0105 (.link l) (some (hdPart m.head)) [] := by
  simp only [Block.deliverBuzz, hs, Option.isNone_eq_false_iff.mpr hi, Bool.false_eq_true, if_false, hr]

theorem Block.deliverBuzz_of_running {r : StepRun} (hr : b.run? (hdPart m.head) = some r) :
    b.deliverBuzz l m =
      let keep := b.modPart (hdPart m.head) (fun x => { x with heldNext := x.heldNext ++ [m] })
      let take := (b.takeBuzz (hdPart m.head) r m).drive (hdPart m.head)
      if b.agreeExempt (hdPart m.head) m.head = true then (if r.agreed = true then keep else take)
      else if b.epochOpen (hdPart m.head) = true then keep
      else if b.epochDiff (hdPart m.head) (hdEpoch m.head) = 0 then take
      else if b.epochDiff (hdPart m.head) (hdEpoch m.head) = 1 then keep
      else b.log 0x0105 (.link l) (some (hdPart m.head)) [] := by
  simp only [Block.deliverBuzz, hs, Option.isNone_eq_false_iff.mpr hi, Bool.false_eq_true, if_false, hr]

end

/-- Settles O49: the arrival by its number, the ten operations through one meaning, and the delivery with and without a step in progress. -/
theorem buzzMessages : Obligations.BuzzMessages := by
  unfold Obligations.BuzzMessages
  refine ⟨fun op i l m s hmem hr hop => ?_, fun x m hx => ?_, fun b l m hs => ?_⟩
  · intro b z a n t body
    have run : ∀ {n : Block}, b.buzz l op m = n → exec (i l m) s = .next (s.onBlock n) := by
      rintro n rfl
      exact exec_buzzMessage hmem l m s
    exact ⟨fun h => run (Block.buzz_of_discard hr hop h), fun code h => run (Block.buzz_of_leave hr hop h),
      fun h hst => run ((Block.buzz_of_accept hr hop h).trans (if_pos hst)),
      fun h hst hd => run ((Block.buzz_of_accept hr hop h).trans ((if_neg (Bool.not_eq_true _ ▸ hst)).trans (if_pos hd))),
      fun h hst hd => run ((Block.buzz_of_accept hr hop h).trans ((if_neg (Bool.not_eq_true _ ▸ hst)).trans (if_neg (not_not_intro hd))))⟩
  · intro y sq d
    refine ⟨Link.arriveBuzz_of_failed hx, fun hok => ?_⟩
    have e := Link.arriveBuzz_eq hx hok
    refine ⟨fun hd hh => e.trans ((if_pos hd).trans (if_pos (by rw [hh]; rfl))), fun hd hh hg => ?_, fun hd hh hg => ?_, fun h1 h2 => ?_,
      fun h1 h2 => ?_, fun h1 => ?_⟩
    · exact e.trans ((if_pos hd).trans ((if_neg (by rw [hh]; exact Bool.false_ne_true)).trans (if_pos hg)))
    · have e' := e.trans ((if_pos hd).trans ((if_neg (by rw [hh]; exact Bool.false_ne_true)).trans (if_neg (Nat.not_lt.mpr hg))))
      rw [e']
      exact ⟨rfl, rfl, rfl⟩
    · exact e.trans ((if_neg (show ¬d = 0 by omega)).trans (if_pos h2))
    · exact e.trans ((if_neg (show ¬d = 0 by omega)).trans ((if_neg (show ¬d ≤ 63 by omega)).trans (if_neg (Nat.not_le.mpr h2))))
    · exact e.trans ((if_neg (show ¬d = 0 by omega)).trans ((if_neg (show ¬d ≤ 63 by omega)).trans (if_pos h1)))
  · intro p keep d
    have ne : ∀ {x : Bool}, x = false → ¬x = true := fun h => by simp [h]
    refine ⟨Block.deliverBuzz_of_undefined hs, fun hi hx => ⟨fun hr => ?_, fun r hr ha => ?_, fun r hr ha => ?_⟩, fun hi hx ho => ?_,
      fun hi hx ho => ⟨fun r hr hd => ?_, fun hd => ?_, fun hr hd => ?_, fun hd => ?_⟩⟩
    · exact (Block.deliverBuzz_of_idle hs hi hr).trans (if_pos (.inl hx))
    · exact (Block.deliverBuzz_of_running hs hi hr).trans ((if_pos hx).trans (if_pos ha))
    · exact (Block.deliverBuzz_of_running hs hi hr).trans ((if_pos hx).trans (if_neg (ne ha)))
    · cases hr : b.run? p with
      | none => exact (Block.deliverBuzz_of_idle hs hi hr).trans (if_pos (.inr (.inl ho)))
      | some r => exact (Block.deliverBuzz_of_running hs hi hr).trans ((if_neg (ne hx)).trans (if_pos ho))
    · exact (Block.deliverBuzz_of_running hs hi hr).trans ((if_neg (ne hx)).trans ((if_neg (ne ho)).trans (if_pos hd)))
    · cases hr : b.run? p with
      | none => exact (Block.deliverBuzz_of_idle hs hi hr).trans (if_pos (.inr (.inr (Nat.le_of_eq hd))))
      | some r =>
        exact (Block.deliverBuzz_of_running hs hi hr).trans ((if_neg (ne hx)).trans ((if_neg (ne ho)).trans
          ((if_neg (show ¬d = 0 by omega)).trans (if_pos hd))))
    · exact (Block.deliverBuzz_of_idle hs hi hr).trans (if_pos (.inr (.inr (show d ≤ 1 by omega))))
    · cases hr : b.run? p with
      | none =>
        exact (Block.deliverBuzz_of_idle hs hi hr).trans (if_neg (not_or.mpr ⟨ne hx, not_or.mpr ⟨ne ho, Nat.not_le.mpr hd⟩⟩))
      | some r =>
        exact (Block.deliverBuzz_of_running hs hi hr).trans ((if_neg (ne hx)).trans ((if_neg (ne ho)).trans ((if_neg (show ¬d = 0 by omega)).trans
          (if_neg (show ¬d = 1 by omega)))))

end Sys2Proof.Machine
end

/-! PROOF. Confirmations, the flits of a message and bulk messages (R204, R205, R210, R215, R234, R236, R238). -/
section
namespace Sys2Proof.Machine
open Sys2Proof

/-! ### BUZZ_CONFIRM -/

section
variable {b : Block} {l : LinkId} {m : BuzzMsg} {rest : List BuzzMsg} {f : Fec} (hu : (b.link l).rx.unconf = m :: rest)
include hu

theorem Block.buzzConfirm_of_corrected (hf : f.corr ≠ 0 ∨ f.uncorr ≠ 0) :
    b.buzzConfirm l m.seq f = (b.modLink l (fun x => x.fec f)).leaveService l 0x0204 false := by
  simp only [Block.buzzConfirm, hu, ne_eq, not_true, if_false, if_pos hf]

theorem Block.buzzConfirm_of_good (hc : f.corr = 0) (hn : f.uncorr = 0) :
    let n := (b.modLink l (fun x => x.fec f)).modLink l (fun x => ({ x with rx := { x.rx with unconf := rest, back := m.seq } }).lcDue)
    let n : Block := { n with parts := n.parts.map (fun x => Part.confirm x l m.seq) }
    b.buzzConfirm l m.seq f = (n.retakeHeld (hdPart m.head)).drive (hdPart m.head) := by
  simp only [Block.buzzConfirm, hu, hc, hn, ne_eq, not_true, if_false, or_self]

theorem Block.buzzConfirm_of_other {q : BitVec 12} (hq : q ≠ m.seq) : b.buzzConfirm l q f = b := by
  simp only [Block.buzzConfirm, hu, if_pos hq.symm]

end

/-! ### The flits of a message -/

section
variable {r : LinkRx} {cls : Nat} {bytes : List Byte}

theorem LinkRx.join_head_of_none (h : r.partOf cls = none) :
    r.join cls true bytes = if headOk cls bytes = true then .more ⟨cls, bytes, []⟩ else .bad := by
  simp only [LinkRx.join, h]

theorem LinkRx.join_body_of_none (h : r.partOf cls = none) : r.join cls false bytes = .bad := by
  simp only [LinkRx.join, h]

theorem LinkRx.join_head_of_some {p : Partial} (h : r.partOf cls = some p) : r.join cls true bytes = .bad := by
  simp only [LinkRx.join, h]

theorem LinkRx.join_body_of_some {p : Partial} (h : r.partOf cls = some p) :
    r.join cls false bytes =
      if (p.body ++ padTo 64 bytes).length = 64 * hdNbody p.head then .whole p.head ((p.body ++ padTo 64 bytes).take (hdLen p.head))
      else .more { p with body := p.body ++ padTo 64 bytes } := by
  simp only [LinkRx.join, h]

end

section
variable {x : Link} {cls : Nat} {n : BitVec 12} {first : Bool} {bytes : List Byte} {ws : List (List Byte × List Byte)} (hx : x.st = .inService)
include hx

theorem flit_guard : ¬(x.st ≠ .inService ∨ (none : Option Nat).isSome = true) := by
  simp [hx]

theorem Arrival.flit_of_failed : Arrival.flit ⟨x, ws, none⟩ cls n first false bytes = ⟨x.nak, ws, none⟩ :=
  (if_neg (flit_guard hx)).trans (if_pos rfl)

theorem Arrival.flit_of_later (h0 : (n - x.rx.exp).toNat ≠ 0) :
    Arrival.flit ⟨x, ws, none⟩ cls n first true bytes =
      if (n - x.rx.exp).toNat ≤ 1023 then ⟨x.nak, ws, none⟩
      else if 3072 ≤ (n - x.rx.exp).toNat then ⟨{ x with cnt := { x.cnt with dup := wrapAdd x.cnt.dup 1 } }, ws, none⟩
      else ⟨x, ws, some 0x0207⟩ :=
  (if_neg (flit_guard hx)).trans ((if_neg Bool.false_ne_true).trans (if_neg h0))

variable (h0 : (n - x.rx.exp).toNat = 0)
include h0

theorem Arrival.flit_of_no_credit (hg : grants.get cls < x.rx.held.get cls + 1) :
    Arrival.flit ⟨x, ws, none⟩ cls n first true bytes = ⟨x, ws, some 0x0206⟩ :=
  (if_neg (flit_guard hx)).trans ((if_neg Bool.false_ne_true).trans ((if_pos h0).trans (if_pos hg)))

variable (hg : x.rx.held.get cls + 1 ≤ grants.get cls)
include hg

/-- The link once a flit in turn is accepted; `ps` are the messages that are not complete. -/
def Link.flitTaken (x : Link) (cls : Nat) (ps : List Partial) : Link :=
  ({ x with
    rx := { x.rx with exp := x.rx.exp + 1, nakWait := false, held := x.rx.held.map cls (· + 1), part := ps }
    cnt := { x.cnt with rxBytes := wrapAdd x.cnt.rxBytes 64 } } : Link).lcDue

theorem Arrival.flit_of_bad (hj : x.rx.join cls first bytes = .bad) :
    Arrival.flit ⟨x, ws, none⟩ cls n first true bytes = ⟨x, ws, some 0x0209⟩ := by
  refine (if_neg (flit_guard hx)).trans ((if_neg Bool.false_ne_true).trans ((if_pos h0).trans ((if_neg (Nat.not_lt.mpr hg)).trans ?_)))
  simp only [hj]

theorem Arrival.flit_of_more {p : Partial} (hj : x.rx.join cls first bytes = .more p) :
    Arrival.flit ⟨x, ws, none⟩ cls n first true bytes = ⟨x.flitTaken cls (p :: x.rx.part.filter (fun p => p.cls != cls)), ws, none⟩ := by
  refine (if_neg (flit_guard hx)).trans ((if_neg Bool.false_ne_true).trans ((if_pos h0).trans ((if_neg (Nat.not_lt.mpr hg)).trans ?_)))
  simp only [hj, Link.flitTaken]

theorem Arrival.flit_of_whole {h b : List Byte} (hj : x.rx.join cls first bytes = .whole h b) :
    Arrival.flit ⟨x, ws, none⟩ cls n first true bytes = ⟨x.flitTaken cls (x.rx.part.filter (fun p => p.cls != cls)), ws ++ [(h, b)], none⟩ := by
  refine (if_neg (flit_guard hx)).trans ((if_neg Bool.false_ne_true).trans ((if_pos h0).trans ((if_neg (Nat.not_lt.mpr hg)).trans ?_)))
  simp only [hj, Link.flitTaken]

end

/-! ### Bulk messages -/

section
variable {b : Block} {l : LinkId} {rx : RxMsg} {fault : AddFault}

/-- A message waits at the ingress of its link. -/
def Block.waitBulk (b : Block) (l : LinkId) (q : List Byte × List Byte) (fault : AddFault) : Block :=
  b.modLink l (fun x => { x with rx := { x.rx with waiting := x.rx.waiting ++ [(x.st == .inService, q.1, q.2, fault)] } })

/-- One message at the ingress: it waits behind another, or for its partition, or has left. -/
def Block.bulkTurn (b : Block) (l : LinkId) (q : List Byte × List Byte) (fault : AddFault) : Block :=
  if !(b.link l).rx.waiting.isEmpty then b.waitBulk l q fault
  else if (b.ingress l q.1 q.2 fault).2 then (b.ingress l q.1 q.2 fault).1.giveBack l 2 q.2
  else (b.ingress l q.1 q.2 fault).1.waitBulk l q fault

theorem Block.bulk_eq (hr : b.inReset = false) :
    b.bulk l rx fault = (b.arriveSeq l 2 rx).2.foldl (fun b q => b.bulkTurn l q fault) (b.arriveSeq l 2 rx).1 :=
  if_neg (by rw [hr]; exact Bool.false_ne_true)

theorem Block.bulk_of_none (hr : b.inReset = false) (h : (b.arriveSeq l 2 rx).2 = []) : b.bulk l rx fault = (b.arriveSeq l 2 rx).1 := by
  rw [Block.bulk_eq hr, h, List.foldl_nil]

theorem Block.bulk_of_one (hr : b.inReset = false) {q : List Byte × List Byte} (h : (b.arriveSeq l 2 rx).2 = [q]) :
    b.bulk l rx fault = (b.arriveSeq l 2 rx).1.bulkTurn l q fault := by
  rw [Block.bulk_eq hr, h, List.foldl_cons, List.foldl_nil]

variable {m : Bool × List Byte × List Byte × AddFault} {rest : List (Bool × List Byte × List Byte × AddFault)}
  (hw : (b.link l).rx.waiting = m :: rest)
include hw

theorem Block.ingressGo_succ (n : Nat) :
    Block.ingressGo l (n + 1) b =
      if (b.ingress l m.2.1 m.2.2.1 m.2.2.2).2 = true then
        Block.ingressGo l n ((b.ingress l m.2.1 m.2.2.1 m.2.2.2).1.modLink l (fun x =>
          let x := { x with rx := { x.rx with waiting := rest } }
          if m.1 = true then x.giveBack 2 (1 + ceilDiv m.2.2.1.length 64) else x))
      else b := by
  simp only [Block.ingressGo, hw]

end

/-- Settles O50. -/
theorem confirmAndBulk : Obligations.ConfirmAndBulk := by
  unfold Obligations.ConfirmAndBulk
  have ne : ∀ {x : Bool}, x = false → ¬x = true := fun h => by simp [h]
  refine ⟨fun l m rest f s hu => ?_, fun r cls bytes => ⟨LinkRx.join_head_of_none, LinkRx.join_body_of_none, fun _ => LinkRx.join_head_of_some,
    fun _ => LinkRx.join_body_of_some⟩, fun x cls n first bytes ws hx => ?_, fun l rx fault s hr => ?_, fun l s => rfl,
    fun l n b m rest hw => ?_, fun b l head body fault => ?_⟩
  · have run : ∀ {q : BitVec 12} {n : Block}, s.block.buzzConfirm l q f = n → exec (.buzzConfirm l q f) s = .next (s.onBlock n) := by
      rintro q n rfl; rfl
    exact ⟨fun hf => run (Block.buzzConfirm_of_corrected hu hf), fun hc hn => run (Block.buzzConfirm_of_good hu hc hn),
      fun q hq => run (Block.buzzConfirm_of_other hu hq)⟩
  · intro a d gone
    refine ⟨Arrival.flit_of_failed hx, fun h1 h2 => ?_, fun h1 => ?_, fun h1 h2 => ?_, fun h0 hg => Arrival.flit_of_no_credit hx h0 hg,
      fun h0 hg => ⟨fun hj => Arrival.flit_of_bad hx h0 hg hj, fun hj => ?_⟩⟩
    · exact (Arrival.flit_of_later hx (show d ≠ 0 by omega)).trans (if_pos h2)
    · exact (Arrival.flit_of_later hx (show d ≠ 0 by omega)).trans ((if_neg (show ¬d ≤ 1023 by omega)).trans (if_pos h1))
    · exact (Arrival.flit_of_later hx (show d ≠ 0 by omega)).trans ((if_neg (show ¬d ≤ 1023 by omega)).trans (if_neg (Nat.not_le.mpr h2)))
    · cases hj' : x.rx.join cls first bytes with
      | bad => exact absurd hj' hj
      | more p =>
        rw [show a.flit cls n first true bytes = _ from Arrival.flit_of_more hx h0 hg hj']
        exact ⟨rfl, rfl, rfl, rfl, rfl, rfl, (List.append_nil ws).symm, rfl⟩
      | whole h b =>
        rw [show a.flit cls n first true bytes = _ from Arrival.flit_of_whole hx h0 hg hj']
        exact ⟨rfl, rfl, rfl, rfl, rfl, rfl, rfl, rfl⟩
  · intro a wait
    have run : ∀ {n : Block}, s.block.bulk l rx fault = n → exec (.bulkMessage l rx fault) s = .next (s.onBlock n) := by
      rintro n rfl; rfl
    refine ⟨fun h => run (Block.bulk_of_none hr h), fun q hq => ?_, _, rfl⟩
    intro t
    have e := Block.bulk_of_one (fault := fault) hr hq
    exact ⟨fun h => run (e.trans (if_pos (not_isEmpty_iff_ne_nil.mpr h))),
      fun h ht => run (e.trans ((if_neg (fun h' => not_isEmpty_iff_ne_nil.mp h' h)).trans (if_pos ht))),
      fun h ht => run (e.trans ((if_neg (fun h' => not_isEmpty_iff_ne_nil.mp h' h)).trans (if_neg (ne ht))))⟩
  · intro t
    exact ⟨fun ht => (Block.ingressGo_succ hw n).trans (if_neg (ne ht)), fun ht => (Block.ingressGo_succ hw n).trans (if_pos ht)⟩
  · exact ⟨fun h => if_pos h, fun h hd => (if_neg (ne h)).trans (if_pos hd), fun h hd => (if_neg (ne h)).trans (if_neg (not_not_intro hd))⟩

end Sys2Proof.Machine
end

/-! PROOF. Link-control flits, the slots of a train and a link's timers (R199 to R201, R207, R208, R212, R215, R217). -/
section
namespace Sys2Proof.Machine
open Sys2Proof

/-! ### Link-control flits (R207, R212, R215) -/

section
variable {b : Block} {l : LinkId} {body : List Byte} {f : Fec} (hr : b.inReset = false)
include hr

theorem Block.linkControl_of_linked (hl : (b.link l).linked = true) (h1 : field body 0 1 = 1) :
    b.linkControl l body f =
      (((b.modLink l (fun x => x.fec f)).simmerExit l).modLink l (fun x => x.takeControl body)).settleParcels := by
  have hn : ¬((!((b.link l).fec f).linked) = true ∨ field body 0 1 ≠ 1) := by
    rintro (h | h)
    · exact Bool.noConfusion (hl.symm.trans ((Bool.not_eq_true' _).mp h))
    · exact h h1
  simp only [Block.linkControl, hr, Bool.false_eq_true, if_false, Block.link_modLink_self, if_neg hn]

theorem Block.linkControl_of_not (h : (b.link l).linked = false ∨ field body 0 1 ≠ 1) :
    b.linkControl l body f = b.modLink l (fun x => x.fec f) := by
  have hp : (!((b.link l).fec f).linked) = true ∨ field body 0 1 ≠ 1 := h.imp_left (fun h => congrArg not h)
  simp only [Block.linkControl, hr, Bool.false_eq_true, if_false, Block.link_modLink_self, if_pos hp]

end

section
variable (x : Link) (body : List Byte)

/-- What resends leave of a link: the retry buffers and the credits. -/
theorem Link.takeNaks_keeps (ev bev : BitVec 4) (s bs : BitVec 12) :
    (x.takeNaks ev bev s bs).tx.kept = x.tx.kept ∧ (x.takeNaks ev bev s bs).tx.keptBuzz = x.tx.keptBuzz ∧
      (x.takeNaks ev bev s bs).tx.free = x.tx.free := by
  have seq : ∀ (y : Link) (q : BitVec 12), (y.resendSeq q).tx.kept = y.tx.kept ∧ (y.resendSeq q).tx.keptBuzz = y.tx.keptBuzz ∧
      (y.resendSeq q).tx.free = y.tx.free := by
    intro y q
    simp only [Link.resendSeq]
    split <;> exact ⟨rfl, rfl, rfl⟩
  simp only [Link.takeNaks]
  split <;> split
  · exact ⟨rfl, rfl, rfl⟩
  · exact ⟨rfl, rfl, rfl⟩
  · exact seq _ _
  · exact seq _ _

theorem Link.takeControl_view :
    (x.takeControl body).tr.peerReady = (field body 1 1 % 2 == 1) ∧
      (x.takeControl body).rx.peerInService = (field body 1 1 / 2 % 2 == 1) ∧
      (x.takeControl body).rx.peerPwr = Pwr.ofCode (field body 1 1 / 4 % 4) := by
  simp [Link.takeControl, bitAt, bitsOf, Nat.shiftRight_eq_div_pow]

end

/-! ### The slots of a train (R217) -/

section
variable {b : Block} {l : LinkId} (hr : b.inReset = false)
include hr

theorem Block.slotFill_of_silent (h : (b.link l).st = .cold ∨ (b.link l).st = .detect ∨ (b.link l).st = .equalise) : b.slotFill l = b := by
  simp only [Block.slotFill, hr, Bool.false_eq_true, if_false]
  rcases h with h | h | h <;> simp only [h]

theorem Block.slotFill_of_training (h : (b.link l).st = .lock ∨ (b.link l).st = .identify ∨ (b.link l).st = .grant) :
    b.slotFill l = ({ b with free := b.free + 3 }).setLink l ((b.link l).trainStart.emit ⟨5, false, b.trainingBody l b.free⟩) := by
  simp only [Block.slotFill, hr, Bool.false_eq_true, if_false]
  rcases h with h | h | h <;> simp only [h]

theorem Block.slotFill_of_standby (h : (b.link l).st = .standby) :
    b.slotFill l =
      let r := (b.link l).trainStart.standbySlot (b.pwr.groups[groupOf l]).request
      b.setLink l (r.1.emit r.2) := by
  simp only [Block.slotFill, hr, Bool.false_eq_true, if_false, h]

variable (h : (b.link l).st = .inService)
include h

theorem Block.slotFill_of_simmer (hp : (b.link l).pwr = .simmer) :
    b.slotFill l = (if (b.link l).tx.quiet = true ∧ (b.link l).lc.due = false then b else b.simmerExit l).modLink l
      (fun x => x.trainStart.emit Slot.idle) := by
  have hc : ((b.link l).tx.quiet && !(b.link l).lc.due) = true ↔ (b.link l).tx.quiet = true ∧ (b.link l).lc.due = false := by simp
  simp only [Block.slotFill, hr, Bool.false_eq_true, if_false, h, hp, if_true, hc]

theorem Block.slotFill_of_boil (hp : (b.link l).pwr ≠ .simmer) :
    b.slotFill l =
      let o := (b.link l).trainStart.orderedSlot (b.pwr.groups[groupOf l]).request (b.weightOf l)
      let n := b.setLink l (o.1.emit o.2)
      if 1 ≤ o.2.kind ∧ o.2.kind ≤ 4 then n.busyGroup l else n := by
  simp only [Block.slotFill, hr, Bool.false_eq_true, if_false, h, if_neg hp]

end

section
variable {x : Link} {rq : Pwr} {w : Nat → Nat}

theorem Link.orderedSlot_of_body {body : List Byte} (h : x.tx.buzzBody = some body) : (x.orderedSlot rq w).2 = ⟨1, false, body⟩ := by
  simp only [Link.orderedSlot, h]

variable (h1 : x.tx.buzzBody = none)
include h1

theorem Link.orderedSlot_of_overdue (h2 : x.lc.overdue = true) : x.orderedSlot rq w = x.controlSlot rq := by
  simp only [Link.orderedSlot, h1, h2, if_true]

variable (h2 : x.lc.overdue = false)
include h2

theorem Link.orderedSlot_of_buzz {r : Link × Slot} (h3 : x.buzzSlot = some r) : x.orderedSlot rq w = r := by
  simp only [Link.orderedSlot, h1, h2, Bool.false_eq_true, if_false, h3]

variable (h3 : x.buzzSlot = none)
include h3

theorem Link.orderedSlot_of_due (hd : x.lc.due = true) (hs : x.lc.sentInTrain = false) : x.orderedSlot rq w = x.controlSlot rq := by
  simp only [Link.orderedSlot, h1, h2, Bool.false_eq_true, if_false, h3, hd, hs, Bool.not_false, Bool.and_self, if_true]

variable (h4 : x.lc.due = false ∨ x.lc.sentInTrain = true)
include h4

theorem Link.orderedSlot_of_resend {r : Link × Slot} (h5 : x.resendSlot = some r) : x.orderedSlot rq w = r := by
  have hn : (x.lc.due && !x.lc.sentInTrain) = false := by rcases h4 with h | h <;> simp [h]
  simp only [Link.orderedSlot, h1, h2, Bool.false_eq_true, if_false, h3, hn, h5]

/-- Below the resends come the classes in their order, then the idle slot. -/
theorem Link.orderedSlot_of_class (h5 : x.resendSlot = none) :
    x.orderedSlot rq w =
      (((x.classSlot 2 w).orElse (fun _ => x.classSlot 3 w)).orElse (fun _ => x.classSlot 4 w)).getD (x, Slot.idle) := by
  have hn : (x.lc.due && !x.lc.sentInTrain) = false := by rcases h4 with h | h <;> simp [h]
  simp only [Link.orderedSlot, h1, h2, Bool.false_eq_true, if_false, h3, hn, h5]

end

/-! ### A train begins, and its bits (R199, R201) -/

theorem Link.trainStart_of_inside {x : Link} (h : x.tx.slotPos ≠ 0) : x.trainStart = x := if_pos h

theorem Link.trainStart_of_resend {x : Link} {q : BitVec 12} (h0 : x.tx.slotPos = 0) (hq : x.tx.resendFrom = some q) :
    x.trainStart = { x with
      tx := { x.tx with resend := keptFrom Kept.seq q x.tx.kept, resendFrom := none }
      lc := { x.lc with sentInTrain := false }
      slotOut := x.slotOut ++ [headerBytes (match keptFrom Kept.seq q x.tx.kept with | k :: _ => k.seq | [] => x.tx.next)] } := by
  simp only [Link.trainStart, if_neg (not_not_intro h0), hq] <;> rfl

theorem length_flatMap_byteBits (l : List Byte) : (l.flatMap byteBits).length = 8 * l.length := by
  induction l with
  | nil => rfl
  | cons x l ih =>
    rw [List.flatMap_cons, List.length_append, ih, List.length_cons, byteBits, List.length_map, List.length_range]
    omega

theorem length_chunksAux {α : Type} {k : Nat} (hk : 0 < k) :
    ∀ (fuel : Nat) (l : List α), l.length ≤ fuel → (chunksAux k fuel l).length = (l.length + (k - 1)) / k
  | 0, l, h => by
    rw [List.length_eq_zero_iff.mp (Nat.le_zero.mp h)]
    exact (Nat.div_eq_of_lt (by simp; omega)).symm
  | fuel + 1, l, h => by
    cases l with
    | nil => exact (Nat.div_eq_of_lt (by simp; omega)).symm
    | cons a l =>
      rw [chunksAux, List.isEmpty_cons, if_neg Bool.false_ne_true, List.length_cons, length_chunksAux hk fuel _ (by
        rw [List.length_drop]
        exact Nat.sub_le_of_le_add (Nat.le_trans h (Nat.add_le_add_left hk fuel))), List.length_drop]
      rcases Nat.lt_or_ge (a :: l).length k with hl | hl
      · rw [Nat.sub_eq_zero_of_le (Nat.le_of_lt hl), Nat.div_eq_of_lt (by omega)]
        refine (Nat.div_eq_of_lt_le ?_ ?_).symm <;> simp only [List.length_cons] at hl ⊢ <;> omega
      · rw [show (a :: l).length + (k - 1) = (a :: l).length - k + (k - 1) + k by omega, Nat.add_div_right _ hk]

theorem length_chunks {α : Type} {k : Nat} (hk : 0 < k) (l : List α) : (chunks k l).length = (l.length + (k - 1)) / k :=
  length_chunksAux hk _ l (Nat.le_refl _)

theorem length_slotBits {s : List Byte} (h : s.length = 67) :
    (((s.take 3).flatMap byteBits).take 23 ++ (s.drop 3).flatMap byteBits).length = 535 := by
  rw [List.length_append, List.length_take, length_flatMap_byteBits, length_flatMap_byteBits, List.length_take, List.length_drop, h]
  rfl

theorem length_flatMap_slotBits (slots : List (List Byte)) (h : ∀ x ∈ slots, x.length = 67) :
    (slots.flatMap (fun s => ((s.take 3).flatMap byteBits).take 23 ++ (s.drop 3).flatMap byteBits)).length = 535 * slots.length := by
  induction slots with
  | nil => rfl
  | cons s slots ih =>
    rw [List.flatMap_cons, List.length_append, length_slotBits (h s List.mem_cons_self), ih (fun x hx => h x (List.mem_cons_of_mem s hx)),
      List.length_cons]
    omega

theorem length_trainBits {header : List Byte} {slots : List (List Byte)} (hh : header.length = 3) (hn : slots.length = 48)
    (hs : ∀ x ∈ slots, x.length = 67) : (trainBits header slots).length = 25700 := by
  rw [trainBits, List.length_append, List.length_take, length_flatMap_byteBits, hh, length_flatMap_slotBits slots hs, hn]
  rfl

/-! ### The timers of a link (R208, R212) -/

section
variable {x : Link}

theorem Link.nakAgain_seq (h : x.st = .inService) (hn : x.rx.nakWait = true) :
    x.nakAgain false = { x with rx := { x.rx with nakEv := x.rx.nakEv + 1 }, lc := { x.lc with due := true } } := by
  simp only [Link.nakAgain, if_neg (not_not_intro h), hn, Bool.false_eq_true, if_false, if_true, Link.lcDue]

theorem Link.nakAgain_buzz (h : x.st = .inService) (hn : x.rx.bnakWait = true) :
    x.nakAgain true = { x with rx := { x.rx with bnakEv := x.rx.bnakEv + 1 }, lc := { x.lc with due := true } } := by
  simp only [Link.nakAgain, if_neg (not_not_intro h), hn, if_true, Link.lcDue]

theorem Link.resendAll_seq (h : x.st = .inService) {k : Kept} {ks : List Kept} (hk : x.tx.kept = k :: ks) :
    x.resendAll false = x.resendSeq k.seq := by
  simp only [Link.resendAll, if_neg (not_not_intro h), Bool.false_eq_true, if_false, hk]

theorem Link.resendAll_buzz (h : x.st = .inService) (hk : x.tx.keptBuzz ≠ []) : x.resendAll true = x.resendBuzz x.tx.keptBuzz :=
  (if_neg (not_not_intro h)).trans ((if_pos rfl).trans (if_neg (fun h' => hk (List.isEmpty_iff.mp h'))))

theorem Link.resendSeq_of_none {q : BitVec 12} (h : x.tx.resendFrom = none) :
    x.resendSeq q =
      { x with tx := { x.tx with resendFrom := some q, stuck := x.tx.stuck + 1 }, cnt := { x.cnt with retry := wrapAdd x.cnt.retry 1 } } := by
  simp only [Link.resendSeq, h, Option.isSome_none, Bool.false_eq_true, if_false]

theorem Link.resendSeq_of_some {q q' : BitVec 12} (h : x.tx.resendFrom = some q') :
    x.resendSeq q = { x with tx := { x.tx with resendFrom := some q } } := by
  simp only [Link.resendSeq, h, Option.isSome_some, if_true]

end

/-- Settles O51: a link-control flit field by field, a slot by the state of its link and by Table: Slot order, and each timer. -/
theorem linkSlotsAndTimers : Obligations.LinkSlotsAndTimers := by
  unfold Obligations.LinkSlotsAndTimers
  refine ⟨fun l body f s hr => ?_, fun x body => ?_, fun l s hr => ?_, fun x rq w => ?_, fun x => ⟨Link.trainStart_of_inside, fun q h0 hq => ?_⟩,
    fun header slots hh hn hs => ⟨length_trainBits hh hn hs, ?_⟩, fun l s => ?_⟩
  · have run : ∀ {n : Block}, s.block.linkControl l body f = n → exec (.linkControlFlit l body f) s = .next (s.onBlock n) := by
      rintro n rfl; rfl
    exact ⟨fun hl h1 => run (Block.linkControl_of_linked hr hl h1), fun h => run (Block.linkControl_of_not hr h)⟩
  · obtain ⟨hready, hserv, hpwr⟩ := x.takeControl_view body
    obtain ⟨hkept, hbuzz, hfree⟩ := Link.takeNaks_keeps
      (x.modTx (fun t => (t.ack (BitVec.ofNat 12 (field body 2 2)) (BitVec.ofNat 12 (field body 4 2))).credits
        ⟨field body 0x10 2, field body 0x12 2, field body 0x14 2, field body 0x16 2⟩))
      (BitVec.ofNat 4 (field body 6 1)) (BitVec.ofNat 4 (field body 6 1 / 16)) (BitVec.ofNat 12 (field body 8 2))
      (BitVec.ofNat 12 (field body 0x0A 2))
    exact ⟨hready, hserv, hpwr, hkept, hbuzz, hfree⟩
  · intro b x rq r o n
    have run : ∀ {n : Block}, b.slotFill l = n → exec (.slotFill l) s = .next (s.onBlock n) := by
      rintro n rfl; rfl
    exact ⟨fun h => run (Block.slotFill_of_silent hr h), fun h => run (Block.slotFill_of_training hr h),
      fun h => run (Block.slotFill_of_standby hr h), fun h hp => run (Block.slotFill_of_simmer hr h hp),
      fun h hp => run (Block.slotFill_of_boil hr h hp)⟩
  · intro o
    refine ⟨fun body => Link.orderedSlot_of_body, Link.orderedSlot_of_overdue, fun h1 h2 => ⟨fun r => Link.orderedSlot_of_buzz h1 h2,
      Link.orderedSlot_of_due h1 h2, fun h3 h4 => ⟨fun r => Link.orderedSlot_of_resend h1 h2 h3 h4, fun h5 => ?_⟩⟩⟩
    have e : o = _ := Link.orderedSlot_of_class h1 h2 h3 h4 h5
    refine ⟨fun r h6 => ?_, fun r h6 h7 => ?_, fun r h6 h7 h8 => ?_, fun h6 h7 h8 => ?_⟩
    · rw [e, h6]; rfl
    · rw [e, h6, h7]; rfl
    · rw [e, h6, h7, h8]; rfl
    · rw [e, h6, h7, h8]; rfl
  · intro ks
    have e := Link.trainStart_of_resend h0 hq
    exact ⟨congrArg Link.tx e, congrArg Link.slotOut e⟩
  · rw [trainSymbols, List.length_map, length_chunks (by omega), length_trainBits hh hn hs]
  · intro b x
    have mod : ∀ {f : Link → Link} {i : Instr} {y : Link}, exec i s = .next (s.onBlock (b.modLink l f)) → f x = y →
        exec i s = .next (s.onBlock (b.setLink l y)) := by
      rintro f i y h rfl; exact h
    refine ⟨fun hl hp => mod (f := fun x => if x.linked = true ∧ x.pwr = .boil then { x with lc := { x.lc with overdue := true } } else x) rfl
      (if_pos ⟨hl, hp⟩), fun h => ⟨fun hn => mod (f := fun x => x.nakAgain false) rfl (Link.nakAgain_seq h hn),
        fun hn => mod (f := fun x => x.nakAgain true) rfl (Link.nakAgain_buzz h hn), fun k ks hk => ⟨fun hf => ?_, fun q hf => ?_⟩, fun hk => ?_⟩⟩
    · exact mod (f := fun x => x.resendAll false) rfl ((Link.resendAll_seq h hk).trans (Link.resendSeq_of_none hf))
    · exact mod (f := fun x => x.resendAll false) rfl ((Link.resendAll_seq h hk).trans (Link.resendSeq_of_some hf))
    · exact mod (f := fun x => x.resendAll true) rfl (Link.resendAll_buzz h hk)

end Sys2Proof.Machine
end

/-! PROOF. Departures of links and generation reports (R187, R191, R225, R226). -/
section
namespace Sys2Proof.Machine
open Sys2Proof

/-! ### What sending a message leaves unchanged -/

/-- `n` is `b` after messages were sent, as far as the log, the remap table and link `l` but for its queues go. -/
structure Block.Sent (l : LinkId) (b n : Block) : Prop where
  evl : n.evl = b.evl
  remap : n.remap = b.remap
  st : (n.link l).st = (b.link l).st
  lastCode : (n.link l).lastCode = (b.link l).lastCode
  partner : (n.link l).partner = (b.link l).partner
  rx : (n.link l).rx = (b.link l).rx
  free : (n.link l).tx.free = (b.link l).tx.free
  kept : (n.link l).tx.kept = (b.link l).tx.kept
  keptBuzz : (n.link l).tx.keptBuzz = (b.link l).tx.keptBuzz
  wdrr : (n.link l).tx.wdrr = (b.link l).tx.wdrr

namespace Block.Sent
variable {l : LinkId} {a b n : Block}

theorem refl (b : Block) : b.Sent l b := ⟨rfl, rfl, rfl, rfl, rfl, rfl, rfl, rfl, rfl, rfl⟩

theorem trans (h : a.Sent l b) (h' : b.Sent l n) : a.Sent l n :=
  ⟨h'.evl.trans h.evl, h'.remap.trans h.remap, h'.st.trans h.st, h'.lastCode.trans h.lastCode, h'.partner.trans h.partner, h'.rx.trans h.rx,
    h'.free.trans h.free, h'.kept.trans h.kept, h'.keptBuzz.trans h.keptBuzz, h'.wdrr.trans h.wdrr⟩

theorem of_link (he : n.evl = b.evl) (hr : n.remap = b.remap) (hl : n.link l = b.link l) : b.Sent l n :=
  ⟨he, hr, congrArg Link.st hl, congrArg Link.lastCode hl, congrArg Link.partner hl, congrArg Link.rx hl, congrArg (fun x => x.tx.free) hl,
    congrArg (fun x => x.tx.kept) hl, congrArg (fun x => x.tx.keptBuzz) hl, congrArg (fun x => x.tx.wdrr) hl⟩

theorem foldl {α : Type} (f : Block → α → Block) (hf : ∀ (b : Block) (x : α), b.Sent l (f b x)) (xs : List α) (b : Block) : b.Sent l (xs.foldl f b) :=
  List.foldlRecOn (motive := fun n => b.Sent l n) xs f (refl b) (fun n h x _ => h.trans (hf n x))

theorem raiseGroup (b : Block) (d : DimId) (x : Pwr) : b.Sent l (b.raiseGroup d x) := by
  simp only [Block.raiseGroup]
  split
  · exact of_link rfl rfl rfl
  · exact refl b

theorem holdFlit (b : Block) (who : Nat) (head body : List Byte) : b.Sent l (b.holdFlit who head body) := by
  refine trans (b := { b with heldFlits := b.heldFlits ++ [(who, head, [body])] }) (of_link rfl rfl rfl) (foldl _ (fun n d => ?_) _ _)
  dsimp only
  split
  · exact raiseGroup n _ _
  · exact refl n

theorem enqueue (b : Block) (k : LinkId) (cls who : Nat) (head body : List Byte) :
    b.Sent l (b.modLink k (fun x => x.enqueue cls who head body)) := by
  by_cases h : l = k
  · subst h
    have keeps : ∀ x : Link, let y := x.enqueue cls who head body
        y.tx.free = x.tx.free ∧ y.tx.kept = x.tx.kept ∧ y.tx.keptBuzz = x.tx.keptBuzz ∧ y.tx.wdrr = x.tx.wdrr := by
      intro x
      simp only [Link.enqueue]
      split <;> exact ⟨rfl, rfl, rfl, rfl⟩
    obtain ⟨hfree, hkept, hbuzz, hwdrr⟩ := keeps (b.link l)
    constructor <;> simp only [Block.modLink_evl, Block.modLink_remap, Block.link_modLink_self, hfree, hkept, hbuzz, hwdrr] <;> rfl
  · exact of_link rfl rfl (Block.link_modLink_ne b k l _ h)

theorem sendMsg (b : Block) (who : Nat) (head body : List Byte) : b.Sent l (b.sendMsg who head body) := by
  have hroute : b.Sent l (b.route (hdDst head)).2 := of_link rfl rfl rfl
  simp only [Block.sendMsg]
  split
  · exact hroute
  · exact hroute.trans (holdFlit _ _ _ _)
  · exact hroute.trans (enqueue _ _ _ _ _ _)

theorem sendParcel (b : Block) (m : ParcelMove) : b.Sent l (b.sendParcel m) :=
  foldl _ (fun n _ => sendMsg n _ _ _) _ b

theorem dropParcel (b : Block) (id : Nat) : b.Sent l (b.dropParcel id) := by
  have hl : (b.dropParcel id).link l =
      { b.link l with tx := { (b.link l).tx with qParcel := (b.link l).tx.qParcel.filter (fun m => !b.ownParcel id m.head) } } :=
    Vector.getElem_ofFn l.isLt
  refine ⟨by rw [Block.dropParcel], by rw [Block.dropParcel], ?_, ?_, ?_, ?_, ?_, ?_, ?_, ?_⟩ <;> rw [hl]

end Block.Sent

/-! ### Leaving service -/

section
variable (b : Block) (l : LinkId)

/-- The judgement of R191 writes an entry exactly where it finds the chip too far behind. -/
theorem Block.judgeGen_head : b.judgeGen.evl.head =
    b.evl.head + (if (b.judgeGen.remap.tooFar && !b.remap.tooFar) = true then 1 else 0) := by
  simp only [Block.judgeGen]
  split
  case isTrue h =>
    split <;> simp [h]
  case isFalse h =>
    split <;> simp [h, Block.log, Evl.push]

theorem Block.link_judgeGen : b.judgeGen.link l = b.link l := by
  simp only [Block.judgeGen]
  split <;> split <;> rfl

end

section
variable {b : Block} {l : LinkId}

theorem Block.leaveService_of_not_linked (h : (b.link l).linked = false) (code : Nat) (hold : Bool) : b.leaveService l code hold = b := by
  have hn : (b.link l).st ≠ .standby ∧ (b.link l).st ≠ .inService := by
    simpa only [Link.linked, Bool.or_eq_false_iff, beq_eq_false_iff_ne] using h
  exact if_pos hn

/-- The link as a departure leaves it (R225, R226). -/
def Link.departed (x : Link) (code : Nat) (hold : Bool) (now : Nat) : Link :=
  { x with
    st := if hold then .cold else .detect
    pwr := if hold then .cold else .boil
    entering := none, parked := false, lastCode := BitVec.ofNat 16 code, partner := none
    tx := x.tx.withdraw, rx := x.rx.withdraw, lc := ⟨false, false, false, x.lc.heartbeat, .boil⟩
    tr := { x.tr with lockRun := 0, idCount := 0, ready := false, peerReady := false
                      atOnce := false, wait := [], takenOut := hold, pauseUntil := 0, since := now } }

/-- A departure ends in the judgement of R191, after messages were sent from a block that has the departed link and one more entry. -/
theorem Block.leaveService_of_linked (h : (b.link l).linked = true) (code : Nat) (hold : Bool) :
    ∃ m n : Block, b.leaveService l code hold = n.judgeGen ∧ m.Sent l n ∧ m.evl.head = b.evl.head + 1 ∧ m.remap = b.remap ∧
      m.link l = (b.link l).departed code hold b.now := by
  have hn : ¬((b.link l).st ≠ .standby ∧ (b.link l).st ≠ .inService) := by
    intro hn
    simp [Link.linked, hn.1, hn.2] at h
  have msgs : ∀ {α : Type} (who : α → Nat) (head body : α → List Byte) (xs : List α) (n : Block),
      n.Sent l (xs.foldl (fun n x => n.sendMsg (who x) (head x) (body x)) n) :=
    fun who head body xs n => Block.Sent.foldl _ (fun n x => .sendMsg n _ _ _) xs n
  refine ⟨_, _, if_neg hn, ((Block.Sent.foldl _ (fun n m => .dropParcel n _) _ _).trans (.foldl _ (fun n m => .sendParcel n m) _ _)).trans
    ((msgs _ _ _ _ _).trans (msgs _ _ _ _ _)), ?_, ?_, ?_⟩
  · rfl
  · rfl
  · exact Block.link_setLink_self b l ((b.link l).departed code hold b.now)

end

/-! ### The reasons, and generation reports -/

section
variable {b : Block} {l : LinkId}

theorem Link.not_linked_of_training {x : Link} (h : x.training = true) : x.linked = false := by
  simp only [Link.training, Bool.and_eq_true, Bool.not_eq_true'] at h
  obtain ⟨⟨-, hl⟩, -⟩ := h
  exact hl

theorem Block.linkFails_of_linked (h : (b.link l).linked = true) (code : Nat) : b.linkFails l code = b.leaveService l code false := if_pos h

theorem Block.linkFails_of_training (h : (b.link l).training = true) (code : Nat) : b.linkFails l code = b.trainFail l 0x0205 :=
  (if_neg (by rw [Link.not_linked_of_training h]; exact Bool.false_ne_true)).trans (if_pos h)

theorem Link.hbSuspended_iff (x : Link) (rq : Pwr) : x.hbSuspended rq = true ↔ x.rx.peerPwr ≠ .boil ∧ x.lc.shown ≠ .boil ∧ rq ≠ .boil := by
  simp only [Link.hbSuspended, Bool.and_eq_true, bne_iff_ne, and_assoc]

theorem Block.tunnel_of_type {ty : Nat} {rx : RxMsg} (f : Block → List Byte → Block) (hr : b.inReset = false)
    (h : headOk 4 (b.flitHead l 4 rx) = false ∨ field (b.flitHead l 4 rx) 0x10 1 = ty) :
    b.tunnel l ty rx f = (b.arriveSeq l 4 rx).2.foldl (fun b q =>
      let b := b.giveBack l 4 q.2
      if hdDst q.1 = b.boot.physCoord then f b q.2 else b.relayMsg 128 q.1 q.2) (b.arriveSeq l 4 rx).1 := by
  refine if_neg ?_
  rintro (h' | ⟨hty, hok⟩)
  · exact Bool.noConfusion (hr.symm.trans h')
  · exact h.elim (fun h => Bool.noConfusion (h.symm.trans hok)) hty

end

theorem exec_alignmentLoss (l : LinkId) (f : Fec) (s : State) :
    exec (.alignmentLoss l f) s = .next (s.onBlock ((s.block.modLink l (fun x => x.fec f)).linkFails l 0x0202)) := rfl

theorem exec_laneLoss (l : LinkId) (s : State) :
    exec (.laneLoss l) s = .next (s.onBlock (s.block.draw.2.linkFails l (Config.laneLossCode s.block.draw.1).toNat)) := rfl

/-- Settles O52. -/
theorem linkDeparturesAndReports : Obligations.LinkDeparturesAndReports := by
  unfold Obligations.LinkDeparturesAndReports
  refine ⟨fun l s => ?_, fun b l code hold => ⟨fun h => Block.leaveService_of_not_linked h code hold, fun h => ?_⟩, fun o l dims => ?_,
    fun l rx s hr hh => ?_⟩
  · intro b x d
    refine ⟨?_, fun h => ?_, fun h => ?_, fun h => ⟨fun f => ?_, ?_⟩, fun h => ⟨fun f => ?_, ?_⟩⟩
    · intro rq
      have run : ∀ {n : Block}, (if x.hbSuspended rq = true then b else b.leaveService l 0x0203 false) = n →
          exec (.heartbeatLoss l) s = .next (s.onBlock n) := by
        rintro n rfl; rfl
      refine ⟨fun h => run (if_neg fun hs => ?_), fun h1 h2 h3 => run (if_pos ((x.hbSuspended_iff rq).mpr ⟨h1, h2, h3⟩))⟩
      obtain ⟨h1, h2, h3⟩ := (x.hbSuspended_iff rq).mp hs
      exact h.elim h1 (fun h => h.elim h2 h3)
    · exact congrArg (fun n => Host.Outcome.next (s.onBlock n)) (if_pos h)
    · exact congrArg (fun n => Host.Outcome.next (s.onBlock n)) (if_pos h)
    · have hf : ((b.modLink l (fun x => x.fec f)).link l).linked = true := by rw [Block.link_modLink_self]; exact h
      rw [exec_alignmentLoss, Block.linkFails_of_linked hf]
    · exact (exec_laneLoss l s).trans (congrArg (fun n => Host.Outcome.next (s.onBlock n)) (Block.linkFails_of_linked (b := d.2) h _))
    · have hf : ((b.modLink l (fun x => x.fec f)).link l).training = true := by rw [Block.link_modLink_self]; exact h
      rw [exec_alignmentLoss, Block.linkFails_of_training hf]
    · exact (exec_laneLoss l s).trans (congrArg (fun n => Host.Outcome.next (s.onBlock n)) (Block.linkFails_of_training (b := d.2) h _))
  · intro y
    obtain ⟨m, n, hleave, hsent, hhead, hremap, hlink⟩ := Block.leaveService_of_linked h code hold
    have hy : y = n.link l := (congrArg (fun n => n.link l) hleave).trans (n.link_judgeGen l)
    rw [hy, hsent.st, hsent.lastCode, hsent.partner, hsent.rx, hsent.free, hsent.kept, hsent.keptBuzz, hsent.wdrr, hlink]
    refine ⟨rfl, rfl, rfl, rfl, rfl, rfl, rfl, rfl, rfl, ?_⟩
    rw [hleave, n.judgeGen_head, hsent.evl, hhead, hsent.remap, hremap]
    split
    · exact BitVec.add_assoc _ _ _
    · exact BitVec.add_zero _
  · intro gone
    exact ⟨fun h => if_neg (ne_true_of_eq_false h), fun h => if_pos h⟩
  · intro a
    have e := Block.tunnel_of_type (b := s.block) (l := l) (rx := rx) (fun b bs => b.genReport l bs) hr hh
    have run : ∀ {n : Block}, s.block.tunnel l 2 rx (fun b bs => b.genReport l bs) = n →
        exec (.tunnelGenerationReport l rx) s = .next (s.onBlock n) := by
      rintro n rfl; rfl
    refine ⟨fun h => run (e.trans ?_), ⟨_, rfl⟩, fun q hq => ?_⟩
    · rw [show (s.block.arriveSeq l 4 rx).2 = [] from h]
      rfl
    · intro n g
      rw [show (s.block.arriveSeq l 4 rx).2 = [q] from hq] at e
      exact ⟨fun hd => run (e.trans (if_neg hd)), fun hd => run (e.trans (if_pos hd))⟩

end Sys2Proof.Machine
end

/-! PROOF. Training and entry into service (R184, R222 to R224, R227, R228). -/
section
namespace Sys2Proof.Machine
open Sys2Proof

theorem Block.setLink_setLink (b : Block) (l : LinkId) (x y : Link) : (b.setLink l x).setLink l y = b.setLink l y := by
  simp only [Block.setLink, Vector.set_set]

/-! ### Detect and Equalise -/

section
variable {b : Block} {l : LinkId} (hr : b.inReset = false) (h : (b.link l).st = .detect)
include hr h

theorem Block.detected_eq (hp : (b.link l).tr.pauseUntil ≤ b.now) :
    b.detected l = b.setLink l { b.link l with
      st := .equalise, tr := { (b.link l).tr with
        pauseUntil := 0, since := if (b.link l).tr.pauseUntil = 0 then (b.link l).tr.since else b.now } } := by
  refine if_neg ?_
  rintro (h' | h' | h')
  · exact Bool.noConfusion (hr.symm.trans h')
  · exact h' h
  · exact Nat.not_lt.mpr hp h'

theorem Block.detected_at_once (hp : (b.link l).tr.pauseUntil = 0) : b.detected l = b.setLink l { b.link l with st := .equalise } := by
  rw [Block.detected_eq hr h (hp ▸ Nat.zero_le _), if_pos hp]
  congr 2
  rw [← hp]

theorem Block.detected_after_pause (hp : (b.link l).tr.pauseUntil ≠ 0) (hn : (b.link l).tr.pauseUntil ≤ b.now) :
    b.detected l = b.setLink l { b.link l with st := .equalise, tr := { (b.link l).tr with pauseUntil := 0, since := b.now } } := by
  rw [Block.detected_eq hr h hn, if_neg hp]

end

/-! ### A training flit -/

section
variable {b : Block} {l : LinkId} {st : LState} {body : List Byte} {f : Fec} {go : Block → Block} (hr : b.inReset = false)
  (hst : (b.link l).st = st)
include hr hst

theorem Block.trainFlit_of_malformed (h : trainingOk body = false) :
    b.trainFlit l st body f go = (b.setLink l ((b.link l).fec f)).trainFail l 0x0205 := by
  have hst' : ¬((b.modLink l (fun x => x.fec f)).link l).st ≠ st := by
    rw [Block.link_modLink_self]
    exact not_not_intro hst
  exact (if_neg (ne_true_of_eq_false hr)).trans ((if_neg hst').trans (if_pos (by rw [h]; rfl)))

/-- A good training flit is heard by the link that it comes to in its phase. -/
theorem Block.trainFlit_of_good (h : trainingOk body = true) :
    b.trainFlit l st body f go = go (b.setLink l (((b.link l).fec f).heard body)) := by
  have hst' : ¬((b.modLink l (fun x => x.fec f)).link l).st ≠ st := by
    rw [Block.link_modLink_self]
    exact not_not_intro hst
  simp only [Block.trainFlit, hr, Bool.false_eq_true, if_false, if_neg hst', h, Bool.not_true]
  rw [Block.modLink, Block.link_modLink_self, Block.modLink, Block.setLink_setLink]

end

/-! ### Lock -/

theorem Block.lockFlit_good (b : Block) (l : LinkId) (body : List Byte) (f : Fec) :
    b.lockFlit l true body f = b.trainFlit l .lock body f (fun b => b.modLink l (fun x => x.locked true)) := if_pos rfl

theorem Block.lockFlit_bad {b : Block} (hr : b.inReset = false) (l : LinkId) (body : List Byte) (f : Fec) :
    b.lockFlit l false body f = b.modLink l (fun x => (x.fec f).locked false) :=
  (if_neg Bool.false_ne_true).trans (if_neg (ne_true_of_eq_false hr))

section
variable {x : Link} (h : x.st = .lock)
include h

theorem Link.locked_of_bad : x.locked false = { x with tr := { x.tr with lockRun := 0 } } :=
  (if_neg (not_not_intro h)).trans (if_pos rfl)

theorem Link.locked_of_few (hn : x.tr.lockRun < 7) : x.locked true = { x with tr := { x.tr with lockRun := x.tr.lockRun + 1 } } :=
  (if_neg (not_not_intro h)).trans ((if_neg Bool.false_ne_true).trans (if_neg (Nat.not_le.mpr hn)))

theorem Link.locked_of_eight (hn : 7 ≤ x.tr.lockRun) :
    x.locked true = { x with st := .identify, tr := { x.tr with lockRun := 8, idCount := 0, idMax := 0 } } :=
  (if_neg (not_not_intro h)).trans ((if_neg Bool.false_ne_true).trans (if_pos hn))

end

/-! ### Identify (R184, R224) -/

section
variable (b : Block) (l : LinkId) (body : List Byte) (arrival : BitVec 32)

/-- The partner is the chip and the link that this one expects (R184). -/
def Block.samePartner : Prop :=
  field body 3 1 = 0xB0 ∧ field body 4 4 = (partnerCoord b.boot.physCoord l).toNat ∧ field body 2 1 = partnerLink b.boot.physCoord l

variable {b l body}

theorem Block.identityFault_of_other (h : ¬b.samePartner l body) : b.identityFault l body = some 0x0210 := by
  refine if_pos ?_
  refine Classical.byContradiction (fun hn => ?_)
  simp only [not_or, Classical.not_not] at hn
  exact h hn

theorem Block.identityFault_of_same (h : b.samePartner l body) :
    b.identityFault l body = if field body 8 4 ≠ b.boot.machine then some 0x0212 else none := by
  obtain ⟨h1, h2, h3⟩ := h
  refine if_neg ?_
  simp only [not_or, Classical.not_not]
  exact ⟨h1, h2, h3⟩

theorem Block.identify_of_lock (h : field body 1 1 = 1) : b.identify l body arrival = b := if_pos h

variable (h1 : 2 ≤ field body 1 1)
include h1

theorem Block.identify_of_fault {code : Nat} (h : b.identityFault l body = some code) : b.identify l body arrival = b.trainFail l code := by
  refine (if_neg (show ¬field body 1 1 = 1 by omega)).trans ?_
  rw [h]

variable (h : b.identityFault l body = none)
include h

/-- A flit of the partner that this end expects (R224). -/
theorem Block.identify_of_partner :
    let x := b.link l
    let m := Nat.max x.tr.idMax (wireDelayOf body arrival)
    let y : Link := { x with
      partner := some (BitVec.ofNat 6 (field body 2 1), coordOf (field body 4 4)), tr := { x.tr with idCount := x.tr.idCount + 1, idMax := m } }
    let z : Link := { y with wireDelay := BitVec.ofNat 16 (Nat.min m 65535) }
    b.identify l body arrival =
      if x.tr.idCount + 1 < 16 then b.setLink l y
      else if 500 < m then (b.setLink l z).trainFail l 0x0211 else b.setLink l z.toGrant := by
  refine (if_neg (show ¬field body 1 1 = 1 by omega)).trans ?_
  rw [h]

end

/-! ### Grant -/

section
variable {b : Block} {l : LinkId} {body : List Byte}

theorem Block.granted_of_other_phase (h : field body 1 1 ≠ 3) : b.granted l body = b := if_pos h

theorem Block.granted_of_wrong (h : field body 1 1 = 3)
    (hg : slice body 0x18 8 ≠ leBytes 2 grants.buzz ++ leBytes 2 grants.bulk ++ leBytes 2 grants.parcel ++ leBytes 2 grants.tunnel) :
    b.granted l body = b.trainFail l 0x0205 :=
  (if_neg (not_not_intro h)).trans (if_pos hg)

theorem Block.granted_of_grant (h : field body 1 1 = 3)
    (hg : slice body 0x18 8 = leBytes 2 grants.buzz ++ leBytes 2 grants.bulk ++ leBytes 2 grants.parcel ++ leBytes 2 grants.tunnel) :
    let x := b.link l
    b.granted l body = b.setLink l { x with
      st := .standby, pwr := .boil, entering := none, tx := { x.tx.withdraw with slotPos := x.tx.slotPos, free := grants, used := Four.zero }
      tr := { x.tr with coeffs := true, wait := b.standbyWait l, ready := x.tr.atOnce || (b.standbyWait l).isEmpty, peerReady := false } } :=
  (if_neg (not_not_intro h)).trans (if_neg (not_not_intro hg))

end

/-! ### Into service (R227) -/

section
variable {b : Block} {l : LinkId}

theorem Block.enterService_of_inside (h : (b.link l).tx.slotPos ≠ 0) : b.enterService l = b :=
  if_pos (.inr (.inr (.inr h)))

theorem Block.enterService_of_boundary (h : (b.link l).st = .standby) (hr : (b.link l).tr.ready = true) (hp : (b.link l).tr.peerReady = true)
    (h0 : (b.link l).tx.slotPos = 0) :
    let x := b.link l
    b.enterService l = ((((b.setLink l { x with
      st := .inService, pwr := .boil, rx := { x.rx with peerGen := none }, tr := { x.tr with atOnce := false } }).sendReportGen l).releaseHeld).busyGroup
        l).scanReady := by
  refine if_neg ?_
  simp [h, hr, hp, h0]

end

/-- Settles O53: the link's phase by phase; `b.setLink l heard` is the block whose link has heard the flit. -/
theorem linkTraining : Obligations.LinkTraining := by
  unfold Obligations.LinkTraining
  intro l body arrival f s hr b x heard n malformed failed
  have link_n : n.link l = heard := Block.link_setLink_self b l heard
  refine ⟨⟨rfl, rfl⟩, fun h hp => ?_, fun h hp hn => ?_, fun h hp => ?_, fun h => ?_, fun h => ⟨?_, fun hok => ?_, fun hok => ?_⟩,
    fun h => ⟨fun hok => ?_, fun hok h1 => ?_, fun hok h1 => ?_⟩, fun h => ?_, fun h => ?_, fun h hw => ?_, fun h hrd hp h0 => ?_,
    fun h hrd hp h0 => ?_⟩
  · exact congrArg (fun n => Host.Outcome.next (s.onBlock n)) (Block.detected_at_once hr h hp)
  · exact congrArg (fun n => Host.Outcome.next (s.onBlock n)) (Block.detected_after_pause hr h hp hn)
  · exact congrArg (fun n => Host.Outcome.next (s.onBlock n)) (if_pos ⟨h, hp⟩)
  · exact congrArg (fun y => Host.Outcome.next (s.onBlock (b.setLink l y))) (if_pos h)
  · exact congrArg (fun n => Host.Outcome.next (s.onBlock n))
      ((Block.lockFlit_bad hr l body f).trans (congrArg (b.setLink l) (Link.locked_of_bad (x := x.fec f) h)))
  · exact congrArg (fun n => Host.Outcome.next (s.onBlock n)) ((b.lockFlit_good l body f).trans (Block.trainFlit_of_malformed hr h hok))
  · have e := Block.trainFlit_of_good (f := f) (go := fun b => b.modLink l (fun x => x.locked true)) hr h hok
    have run : ∀ {y : Link}, heard.locked true = y → exec (.trainingLockFlit l true body f) s = .next (s.onBlock (n.setLink l y)) := by
      rintro y rfl
      refine congrArg (fun n => Host.Outcome.next (s.onBlock n)) (((b.lockFlit_good l body f).trans e).trans ?_)
      exact congrArg (fun y => n.setLink l (y.locked true)) link_n
    exact ⟨fun hn => run (Link.locked_of_few (x := heard) h hn), fun hn => run (Link.locked_of_eight (x := heard) h hn)⟩
  · exact congrArg (fun n => Host.Outcome.next (s.onBlock n)) (Block.trainFlit_of_malformed hr h hok)
  · exact congrArg (fun n => Host.Outcome.next (s.onBlock n))
      ((Block.trainFlit_of_good hr h hok).trans (Block.identify_of_lock arrival h1))
  · intro same m y z
    have run : ∀ {t : Block}, n.identify l body arrival = t → exec (.trainingIdentifyFlit l body arrival f) s = .next (s.onBlock t) := by
      rintro t rfl
      exact congrArg (fun n => Host.Outcome.next (s.onBlock n)) (Block.trainFlit_of_good hr h hok)
    refine ⟨fun hs => run (Block.identify_of_fault arrival h1 (Block.identityFault_of_other hs)),
      fun hs hm => run (Block.identify_of_fault arrival h1 ((Block.identityFault_of_same hs).trans (if_pos hm))), fun hs hm => ?_⟩
    have e := Block.identify_of_partner arrival h1 ((Block.identityFault_of_same (b := n) hs).trans (if_neg (not_not_intro hm)))
    rw [link_n] at e
    refine ⟨fun hc => run (e.trans (if_pos hc)), fun hc hd => run (e.trans ((if_neg ?_).trans (if_pos hd))),
      fun hc hd => run (e.trans ((if_neg ?_).trans (if_neg (Nat.not_lt.mpr hd))))⟩
    all_goals exact Nat.not_lt.mpr (Nat.succ_le_succ hc)
  · intro g
    have run : ∀ {t : Block}, trainingOk body = true → n.granted l body = t → exec (.trainingGrantFlit l body f) s = .next (s.onBlock t) := by
      rintro t hok rfl
      exact congrArg (fun n => Host.Outcome.next (s.onBlock n)) (Block.trainFlit_of_good hr h hok)
    refine ⟨fun hok => congrArg (fun n => Host.Outcome.next (s.onBlock n)) (Block.trainFlit_of_malformed hr h hok),
      fun hok h3 => run hok (Block.granted_of_other_phase h3), fun hok h3 hg => run hok (Block.granted_of_wrong h3 hg),
      fun hok h3 hg => run hok ?_⟩
    have e := Block.granted_of_grant (b := n) (l := l) h3 hg
    rw [link_n] at e
    exact e
  · exact congrArg (fun n => Host.Outcome.next (s.onBlock n)) (if_pos h)
  · exact congrArg (fun y => Host.Outcome.next (s.onBlock (b.setLink l y))) (if_pos ⟨h, hw⟩)
  · exact congrArg (fun n => Host.Outcome.next (s.onBlock n)) (Block.enterService_of_inside h0)
  · exact congrArg (fun n => Host.Outcome.next (s.onBlock n)) (Block.enterService_of_boundary h hrd hp h0)

end Sys2Proof.Machine
end

/-! PROOF. Idle timers, entries and wakes (R385 to R387, R389, R391, R435). -/
section
namespace Sys2Proof.Machine
open Sys2Proof

/-! ### The next state of an idle comb (R387) -/

section
variable {floor warm cold : Nat}

theorem nextIdle_of_boil : nextIdle 0 floor 1 warm cold = some (.simmer, 1) := by
  by_cases hw : 2 ≤ floor ∧ warm ≠ 0 <;> by_cases hc : 3 ≤ floor ∧ cold ≠ 0 <;> simp [nextIdle, hw, hc]

theorem nextIdle_of_simmer_to_warm (hf : 2 ≤ floor) (hw : warm ≠ 0) (hc : floor < 3 ∨ cold = 0 ∨ warm ≤ cold) :
    nextIdle 1 floor 1 warm cold = some (.warm, warm) := by
  by_cases h3 : 3 ≤ floor ∧ cold ≠ 0
  · have hle : warm ≤ cold := by omega
    simp [nextIdle, hf, hw, h3, hle]
  · simp [nextIdle, hf, hw, h3]

theorem nextIdle_of_simmer_to_cold (hf : 3 ≤ floor) (hc : cold ≠ 0) (hw : warm = 0 ∨ cold < warm) :
    nextIdle 1 floor 1 warm cold = some (.cold, cold) := by
  have h2 : 2 ≤ floor := by omega
  rcases hw with hw | hw
  · simp [nextIdle, hf, hc, hw]
  · have hw0 : warm ≠ 0 := by omega
    simp [nextIdle, hf, hc, h2, hw0, hw]

theorem nextIdle_of_warm (hf : 3 ≤ floor) (hc : cold ≠ 0) : nextIdle 2 floor 1 warm cold = some (.cold, cold) := by
  simp [nextIdle, hf, hc]

theorem nextIdle_of_simmer_none (hf : floor < 2) : nextIdle 1 floor 1 warm cold = none := by
  have h2 : ¬(2 ≤ floor ∧ warm ≠ 0) := by omega
  have h3 : ¬(3 ≤ floor ∧ cold ≠ 0) := by omega
  simp [nextIdle, h2, h3]

theorem nextIdle_of_warm_none (h : floor < 3 ∨ cold = 0) : nextIdle 2 floor 1 warm cold = none := by
  have h3 : ¬(3 ≤ floor ∧ cold ≠ 0) := by omega
  simp [nextIdle, h3]

theorem nextIdle_of_cold : nextIdle 3 floor 1 warm cold = none := by
  simp [nextIdle]

end

section
variable {b : Block} {c : CombId} (hs : (b.comb c).svc = .idle) (he : (b.comb c).entering = none) (hw : (b.comb c).waking = false)
include hs he hw

theorem Block.combIdle_of_none {k : Nat} (hk : (b.comb c).pwr.code = k)
    (h : nextIdle k (b.pwr.combCfg[c]).floor.eff 1 (b.pwr.combCfg[c]).warm.eff (b.pwr.combCfg[c]).cold.eff = none) : b.combIdle c = b := by
  have hn : ¬((b.comb c).svc ≠ .idle ∨ (b.comb c).entering.isSome = true ∨ (b.comb c).waking = true) := by simp [hs, he, hw]
  refine (if_neg hn).trans ?_
  rw [hk, h]

theorem Block.combIdle_of_some {k : Nat} {t : Pwr} {idle : Nat} (hk : (b.comb c).pwr.code = k)
    (h : nextIdle k (b.pwr.combCfg[c]).floor.eff 1 (b.pwr.combCfg[c]).warm.eff (b.pwr.combCfg[c]).cold.eff = some (t, idle)) :
    let n := b.advanceTo ((b.comb c).idleSince + idle)
    b.combIdle c = n.setComb c { b.comb c with entering := some t, due := n.now + entryKt t } := by
  have hn : ¬((b.comb c).svc ≠ .idle ∨ (b.comb c).entering.isSome = true ∨ (b.comb c).waking = true) := by simp [hs, he, hw]
  refine (if_neg hn).trans ?_
  rw [hk, h]

end

/-! ### The link groups (R389 to R391) -/

theorem mem_ite_singleton {α : Type} {c : Prop} [Decidable c] {x y : α} : x ∈ (if c then [y] else []) ↔ c ∧ x = y := by
  by_cases h : c
  · simp [h]
  · simp [h]

theorem mem_sinks (g : Group) (floor warm cold at' : Nat) (t : Pwr) :
    (t, at') ∈ g.sinks floor warm cold ↔ g.request.code < t.code ∧ ∃ idle, at' = Nat.max (g.idleSince + idle) (g.boilAt + 7) ∧
      ((t = .simmer ∧ idle = 7) ∨ (t = .warm ∧ 2 ≤ floor ∧ warm ≠ 0 ∧ idle = warm) ∨ (t = .cold ∧ 3 ≤ floor ∧ cold ≠ 0 ∧ idle = cold)) := by
  have cand : ∀ q : Pwr × Nat,
      q ∈ [(Pwr.simmer, 7)] ++ (if 2 ≤ floor ∧ warm ≠ 0 then [(Pwr.warm, warm)] else []) ++ (if 3 ≤ floor ∧ cold ≠ 0 then [(Pwr.cold, cold)] else []) ↔
      (q.1 = .simmer ∧ q.2 = 7) ∨ (q.1 = .warm ∧ 2 ≤ floor ∧ warm ≠ 0 ∧ q.2 = warm) ∨ (q.1 = .cold ∧ 3 ≤ floor ∧ cold ≠ 0 ∧ q.2 = cold) := by
    rintro ⟨u, k⟩
    simp only [List.mem_append, List.mem_singleton, mem_ite_singleton, Prod.mk.injEq, or_assoc]
    constructor
    · rintro (h | ⟨⟨hf, hw⟩, hu, hk⟩ | ⟨⟨hf, hc⟩, hu, hk⟩)
      · exact .inl h
      · exact .inr (.inl ⟨hu, hf, hw, hk⟩)
      · exact .inr (.inr ⟨hu, hf, hc, hk⟩)
    · rintro (h | ⟨hu, hf, hw, hk⟩ | ⟨hu, hf, hc, hk⟩)
      · exact .inl h
      · exact .inr (.inl ⟨⟨hf, hw⟩, hu, hk⟩)
      · exact .inr (.inr ⟨⟨hf, hc⟩, hu, hk⟩)
  simp only [Group.sinks, List.mem_map, List.mem_filter, cand, decide_eq_true_eq]
  constructor
  · rintro ⟨⟨u, k⟩, ⟨hq, hlt⟩, he⟩
    obtain ⟨rfl, rfl⟩ := Prod.mk.inj he
    exact ⟨hlt, k, rfl, hq⟩
  · rintro ⟨hlt, k, rfl, hq⟩
    exact ⟨(t, k), ⟨hq, hlt⟩, rfl⟩

@[simp] theorem Block.groups_modGroup_self (b : Block) (d : DimId) (f : Group → Group) :
    (b.modGroup d f).pwr.groups[d] = f b.pwr.groups[d] :=
  Vector.getElem_set_self d.isLt

theorem nodup_groupLinks (d : DimId) : (groupLinks d).Nodup := (List.nodup_finRange 42).filter _

theorem Block.pwr_foldl_modLink (f : Link → Link) (ls : List LinkId) (b : Block) : (ls.foldl (fun b l => b.modLink l f) b).pwr = b.pwr :=
  List.foldlRecOn (motive := fun n : Block => n.pwr = b.pwr) ls _ rfl (fun _ h _ _ => h)

theorem Block.kettle_foldl_modLink (f : Link → Link) (ls : List LinkId) (b : Block) :
    (ls.foldl (fun b l => b.modLink l f) b).kettle = b.kettle :=
  List.foldlRecOn (motive := fun n : Block => n.kettle = b.kettle) ls _ rfl (fun _ h _ _ => h)

/-- A change of every link of a list without repetition changes each of them once. -/
theorem Block.link_foldl_modLink (f : Link → Link) {ls : List LinkId} (hls : ls.Nodup) (b : Block) (k : LinkId) :
    (ls.foldl (fun b l => b.modLink l f) b).link k = if k ∈ ls then f (b.link k) else b.link k := by
  induction ls generalizing b with
  | nil => rfl
  | cons l ls ih =>
    obtain ⟨hl, hls⟩ := List.nodup_cons.mp hls
    rw [List.foldl_cons, ih hls]
    rcases Classical.em (k = l) with rfl | hkl
    · rw [if_neg hl, Block.link_modLink_self, if_pos List.mem_cons_self]
    · rw [Block.link_modLink_ne b l k f hkl]
      simp only [List.mem_cons, hkl, false_or]

section
variable (b : Block) (d : DimId) (t : Pwr)

/-- The parked links of the group that are, or are on their way, above the state. -/
def Block.parkedAbove : List LinkId :=
  (groupLinks d).filter (fun l => (b.link l).parked && decide ((match (b.link l).entering with | some o => o | none => (b.link l).pwr).code < t.code))

theorem Block.nodup_parkedAbove : (b.parkedAbove d t).Nodup := (nodup_groupLinks d).filter _

/-- The block with the group's request fallen, its links as they were. -/
def Block.sunkGroup : Block :=
  b.modGroup d (fun g => if 2 ≤ t.code ∧ b.parkedAbove d t ≠ [] then
    { g with request := t, entering := some (match g.entering with | some o => if o.code ≤ t.code then t else o | none => t)
             due := Nat.max g.due (b.now + entryKt t) } else { g with request := t })

/-- A Simmer link has a deeper request to show (R388, R390). -/
def Link.showing (x : Link) (t : Pwr) : Link := if x.st = .inService ∧ x.pwr = .simmer ∧ x.lc.shown ≠ t then x.lcDue else x

theorem Block.sinkGroup_eq :
    b.sinkGroup d t =
      let n := (groupLinks d).foldl (fun b l => b.modLink l (fun x => x.showing t)) (b.sunkGroup d t)
      if 2 ≤ t.code then (b.parkedAbove d t).foldl (fun b l => b.modLink l (fun x => { x with entering := some t })) n else n := rfl

theorem Block.pwr_sinkGroup : (b.sinkGroup d t).pwr = (b.sunkGroup d t).pwr := by
  rw [Block.sinkGroup_eq]
  dsimp only
  split
  · rw [Block.pwr_foldl_modLink, Block.pwr_foldl_modLink]
  · rw [Block.pwr_foldl_modLink]

theorem Block.request_sinkGroup : ((b.sinkGroup d t).pwr.groups[d]).request = t := by
  rw [Block.pwr_sinkGroup, Block.sunkGroup, Block.groups_modGroup_self]
  split <;> rfl

theorem Block.due_sinkGroup (h2 : 2 ≤ t.code) (hp : b.parkedAbove d t ≠ []) :
    b.now + entryKt t ≤ ((b.sinkGroup d t).pwr.groups[d]).due := by
  rw [Block.pwr_sinkGroup, Block.sunkGroup, Block.groups_modGroup_self, if_pos ⟨h2, hp⟩]
  exact Nat.le_max_right _ _

theorem Block.link_sinkGroup {l : LinkId} (hl : l ∈ groupLinks d) :
    (b.sinkGroup d t).link l =
      if 2 ≤ t.code ∧ l ∈ b.parkedAbove d t then { (b.link l).showing t with entering := some t } else (b.link l).showing t := by
  have hn : ((groupLinks d).foldl (fun b l => b.modLink l (fun x => x.showing t)) (b.sunkGroup d t)).link l = (b.link l).showing t := by
    rw [Block.link_foldl_modLink _ (nodup_groupLinks d), if_pos hl]
    rfl
  rw [Block.sinkGroup_eq]
  dsimp only
  by_cases h2 : 2 ≤ t.code
  · rw [if_pos h2, Block.link_foldl_modLink _ (b.nodup_parkedAbove d t), hn]
    simp only [h2, true_and]
  · rw [if_neg h2, hn, if_neg (fun h => h2 h.1)]

end

section
variable {b : Block} {d : DimId} (hw : (b.pwr.groups[d]).waking = false) (he : (b.pwr.groups[d]).entering = none) (hs : b.serving = true)
  (hq : (groupLinks d).all (fun l => (b.link l).tx.quiet) = true)
include hw he hs hq

theorem groupIdle_guard : ¬((b.pwr.groups[d]).waking = true ∨ (b.pwr.groups[d]).entering.isSome = true ∨
    (!(groupLinks d).all (fun l => (b.link l).tx.quiet)) = true ∨ (!b.serving) = true) := by
  rw [hw, he, hq, hs]
  simp

variable {cs : List (Pwr × Nat)}
  (hcs : (b.pwr.groups[d]).sinks (if b.mustSimmer d = true then 1 else (b.pwr.lnkCfg[d]).floor.eff) (b.pwr.lnkCfg[d]).warm.eff
    (b.pwr.lnkCfg[d]).cold.eff = cs)
include hcs

theorem Block.groupIdle_of_none (h : cs = []) : b.groupIdle d = b := by
  refine (if_neg (groupIdle_guard hw he hs hq)).trans ?_
  rw [hcs, h]

theorem Block.groupIdle_of_some {c : Pwr × Nat} {rest : List (Pwr × Nat)} (h : cs = c :: rest) :
    let n := b.advanceTo (rest.foldl (fun t q => Nat.min t q.2) c.2)
    b.groupIdle d = n.sinkGroup d (cs.foldl (fun t q => if q.2 ≤ n.now ∧ t.code < q.1.code then q.1 else t) (b.pwr.groups[d]).request) := by
  refine (if_neg (groupIdle_guard hw he hs hq)).trans ?_
  rw [hcs, h]

end

/-! ### Entries and wakes (R385, R386) -/

theorem exec_powerEntryComplete (u : PwrUnit) (s : State) :
    exec (.powerEntryComplete u) s = .next { s.onBlock (s.block.entryDone u) with bufs := (s.block.entryDone u).keptBufs s.bufs } := rfl

theorem exec_wakeComplete (u : PwrUnit) (s : State) :
    exec (.wakeComplete u) s = .next { s.onBlock (s.block.wakeDone u) with bufs := s.block.wokenBufs u s.bufs } := rfl

section
variable {b : Block}

theorem Block.entryDone_comb {c : CombId} {t : Pwr} (h : (b.comb c).entering = some t) :
    let n := b.advanceTo (b.comb c).due
    b.entryDone (.comb c) = n.setComb c ((n.comb c).entered t n.now) := by
  simp only [Block.entryDone, h, Block.modComb]

theorem Block.entryDone_group {d : DimId} {t : Pwr} (h : (b.pwr.groups[d]).entering = some t) :
    let n := b.advanceTo (b.pwr.groups[d]).due
    b.entryDone (.group d) = ((groupLinks d).foldl (fun b l => b.modLink l (fun x => match x.entering with
      | some p => { x with pwr := p, entering := none } | none => x)) n).modGroup d
        (fun g => { g with entering := none, due := if g.waking = true then n.now + wakeKt t else g.due }) := by
  simp only [Block.entryDone, h, Block.now, Block.kettle_foldl_modLink] <;> rfl

theorem Block.wakeDone_comb {c : CombId} (hw : (b.comb c).waking = true) (he : (b.comb c).entering = none) (hs : (b.comb c).svc = .idle) :
    b.wakeDone (.comb c) = (b.advanceTo (b.comb c).due).setComb c { b.comb c with pwr := .boil, waking := false } :=
  if_pos ⟨hw, Option.isNone_iff_eq_none.mpr he, hs⟩

theorem Block.wokenBufs_comb {c : CombId} (hw : (b.comb c).waking = true) (he : (b.comb c).entering = none) (hs : (b.comb c).svc = .idle)
    (m : Vector Mem 4) : b.wokenBufs (.comb c) m = if (b.comb c).pwr = .cold then m.set c [] else m := by
  have hboil : ((b.wakeDone (.comb c)).comb c).pwr = .boil := by
    rw [Block.wakeDone_comb hw he hs, Block.comb_setComb_self]
  simp only [Block.wokenBufs, hboil, and_true]

theorem Block.wakeDone_group {d : DimId} (hw : (b.pwr.groups[d]).waking = true) (he : (b.pwr.groups[d]).entering = none) :
    let n := (b.advanceTo (b.pwr.groups[d]).due).modGroup d (fun g => { g with waking := false })
    b.wakeDone (.group d) = if (b.pwr.groups[d]).request = .boil then (groupLinks d).foldl (fun b l => b.modLink l Link.ungate) n else n :=
  if_pos ⟨hw, Option.isNone_iff_eq_none.mpr he⟩

theorem Block.keptBufs_get (m : Vector Mem 4) (c : CombId) : (b.keptBufs m)[c] = if (b.comb c).pwr = .cold then [] else m[c] :=
  Vector.getElem_ofFn c.isLt

end

/-- Settles O54. -/
theorem idleEntryAndWake : Obligations.IdleEntryAndWake := by
  unfold Obligations.IdleEntryAndWake
  refine ⟨fun c s hs he hw => ?_, fun d s => ?_, fun g floor warm cold at' t => mem_sinks g floor warm cold at' t, fun b d t => ?_,
    fun c t s h => ?_, fun d t s h => ?_, fun b m c => b.keptBufs_get m c, fun c s hw he hs => ?_, fun d s hw he => ?_, ?_⟩
  · intro b x k sinks
    have sink : ∀ {j idle : Nat} {t : Pwr}, x.pwr.code = j → nextIdle j k.floor.eff 1 k.warm.eff k.cold.eff = some (t, idle) →
        sinks t idle (entryKt t) := fun hj h =>
      congrArg (fun n => Host.Outcome.next (s.onBlock n)) (Block.combIdle_of_some hs he hw hj h)
    have stay : ∀ {j : Nat}, x.pwr.code = j → nextIdle j k.floor.eff 1 k.warm.eff k.cold.eff = none →
        exec (.combIdleTimerExpiry c) s = .next (s.onBlock b) := fun hj h =>
      congrArg (fun n => Host.Outcome.next (s.onBlock n)) (Block.combIdle_of_none hs he hw hj h)
    have code : ∀ {q : Pwr}, x.pwr = q → x.pwr.code = q.code := fun h => congrArg Pwr.code h
    refine ⟨fun h => sink (code h) nextIdle_of_boil, fun h hf h0 hc => sink (code h) (nextIdle_of_simmer_to_warm hf h0 hc),
      fun h hf h0 hc => sink (code h) (nextIdle_of_simmer_to_cold hf h0 hc), fun h hf h0 => sink (code h) (nextIdle_of_warm hf h0), ?_⟩
    rintro (h | ⟨h, hf⟩ | ⟨h, hf⟩)
    · exact stay (code h) nextIdle_of_cold
    · exact stay (code h) (nextIdle_of_simmer_none hf)
    · exact stay (code h) (nextIdle_of_warm_none hf)
  · intro b g k cs hw he hs hq
    exact ⟨fun h => congrArg (fun n => Host.Outcome.next (s.onBlock n)) (Block.groupIdle_of_none hw he hs hq rfl h),
      fun c rest h => congrArg (fun n => Host.Outcome.next (s.onBlock n)) (Block.groupIdle_of_some hw he hs hq rfl h)⟩
  · intro n
    refine ⟨b.request_sinkGroup d t, fun l hl hp hst hpw hsh => ?_, fun l hl h2 hp he hc => ?_⟩
    · have hnp : l ∉ b.parkedAbove d t := fun h => by
        have hpk := (List.mem_filter.mp h).2
        rw [hp] at hpk
        exact Bool.noConfusion hpk
      rw [show n.link l = _ from b.link_sinkGroup d t hl, if_neg (fun h => hnp h.2), Link.showing, if_pos ⟨hst, hpw, hsh⟩]
      rfl
    · have hmem : l ∈ b.parkedAbove d t := List.mem_filter.mpr ⟨hl, by rw [hp, he]; exact decide_eq_true hc⟩
      refine ⟨?_, b.due_sinkGroup d t h2 (List.ne_nil_of_mem hmem)⟩
      rw [show n.link l = _ from b.link_sinkGroup d t hl, if_pos ⟨h2, hmem⟩]
  · intro b x n
    exact (exec_powerEntryComplete _ s).trans
      (congrArg (fun n : Block => Host.Outcome.next { s.onBlock n with bufs := n.keptBufs s.bufs }) (Block.entryDone_comb h))
  · intro b n
    exact (exec_powerEntryComplete _ s).trans
      (congrArg (fun n : Block => Host.Outcome.next { s.onBlock n with bufs := n.keptBufs s.bufs }) (Block.entryDone_group h))
  · intro n
    have e := congr (congrArg (fun (n : Block) m => Host.Outcome.next (φ := Fault) (ρ := Refusal) { s.onBlock n with bufs := m })
      (Block.wakeDone_comb hw he hs)) (Block.wokenBufs_comb hw he hs s.bufs)
    refine (exec_wakeComplete _ s).trans (e.trans ?_)
    by_cases hp : (s.block.comb c).pwr = .cold
    · exact (congrArg (fun m => Host.Outcome.next { n with bufs := m }) (if_pos hp)).trans (congrArg Host.Outcome.next (if_pos hp).symm)
    · exact (congrArg (fun m => Host.Outcome.next { n with bufs := m }) (if_neg hp)).trans (congrArg Host.Outcome.next (if_neg hp).symm)
  · intro n
    exact (exec_wakeComplete _ s).trans
      (congrArg (fun n : Block => Host.Outcome.next { s.onBlock n with bufs := s.bufs }) (Block.wakeDone_group hw he))
  · exact ⟨rfl, rfl, rfl, rfl, rfl, rfl⟩

end Sys2Proof.Machine
end

/-! PROOF. Simmer, parking and waking of links, and the hold of a hint (R390 to R393). -/
section
namespace Sys2Proof.Machine
open Sys2Proof

section
variable {b : Block} {l : LinkId}

theorem Block.simmerExit_of_simmer (h : (b.link l).st = .inService) (hp : (b.link l).pwr = .simmer) :
    b.simmerExit l = (groupLinks (groupOf l)).foldl (fun b k => b.modLink k Link.ungate)
      (b.modGroup (groupOf l) (fun g => { g with request := .boil, boilAt := b.now })) :=
  if_pos ⟨h, hp⟩

theorem Block.simmerExit_of_not (h : (b.link l).st ≠ .inService ∨ (b.link l).pwr ≠ .simmer) : b.simmerExit l = b :=
  if_neg (fun hs => h.elim (fun h => h hs.1) (fun h => h hs.2))

/-- A link may park (R391): both ends have shown Warm or deeper, nothing is outstanding, and a train boundary has come. -/
def Link.mayPark (x : Link) (rq : Pwr) : Prop :=
  x.st = .inService ∧ 2 ≤ rq.code ∧ 2 ≤ x.lc.shown.code ∧ 2 ≤ x.rx.peerPwr.code ∧ x.tx.quiet = true ∧ x.rx.unconf = [] ∧
    x.rx.waiting = [] ∧ x.lc.due = false ∧ x.tx.slotPos = 0

theorem Link.not_mayPark_iff (x : Link) (rq : Pwr) :
    (x.st ≠ .inService ∨ rq.code < 2 ∨ x.lc.shown.code < 2 ∨ x.rx.peerPwr.code < 2 ∨ (!x.tx.quiet) = true ∨ (!x.rx.unconf.isEmpty) = true ∨
      (!x.rx.waiting.isEmpty) = true ∨ x.lc.due = true ∨ x.tx.slotPos ≠ 0) ↔ ¬x.mayPark rq := by
  simp only [Link.mayPark, Classical.not_and_iff_not_or_not, Nat.not_le, List.isEmpty_eq_false_iff, Bool.not_eq_true', Bool.not_eq_true, Bool.not_eq_false,
    ne_eq]

theorem Block.park_of_may (h : (b.link l).mayPark (b.pwr.groups[groupOf l]).request) :
    let x := b.link l
    let t := ((b.pwr.groups[groupOf l]).request).deeper x.rx.peerPwr
    b.park l = (b.setLink l { x with
      st := .cold, parked := true, entering := some t, tx := x.tx.withdraw, rx := x.rx.withdraw
      lc := ⟨false, false, false, x.lc.heartbeat, .boil⟩, tr := { x.tr with ready := false, peerReady := false, wait := [] } }).modGroup (groupOf l)
      (fun y => { y with
        entering := some (match y.entering with | some o => o.deeper t | none => t), due := Nat.max y.due (b.now + entryKt t) }) :=
  if_neg ((not_congr (Link.not_mayPark_iff _ _)).mpr (not_not_intro h))

theorem Block.park_of_not (h : ¬(b.link l).mayPark (b.pwr.groups[groupOf l]).request) : b.park l = b :=
  if_pos ((Link.not_mayPark_iff _ _).mpr h)

theorem Block.holdEnds_of_some {d : DimId} {t : Nat} (h : (b.pwr.groups[d]).holdUntil = some t) :
    b.holdEnds d = (b.advanceTo t).modGroup d (fun g => { g with holdUntil := none }) := by
  simp only [Block.holdEnds, h]

end

/-- Settles O55. -/
theorem linkPower : Obligations.LinkPower := by
  unfold Obligations.LinkPower
  refine ⟨fun l s => ?_, fun d t s h => congrArg (fun n => Host.Outcome.next (s.onBlock n)) (Block.holdEnds_of_some h)⟩
  intro b x g rq may
  refine ⟨fun h => ?_, fun h => ?_, fun h hp => ?_, fun h => ?_, ?_, fun hp he => ?_⟩
  · exact congrArg (fun y => Host.Outcome.next (s.onBlock (b.setLink l y))) (if_pos h)
  · exact congrArg (fun y => Host.Outcome.next (s.onBlock (b.setLink l y))) (if_neg h)
  · exact congrArg (fun n => Host.Outcome.next (s.onBlock n)) (Block.simmerExit_of_simmer h hp)
  · exact congrArg (fun n => Host.Outcome.next (s.onBlock n)) (Block.simmerExit_of_not h)
  · intro may t
    exact ⟨fun h => congrArg (fun n => Host.Outcome.next (s.onBlock n)) (Block.park_of_may h),
      fun h => congrArg (fun n => Host.Outcome.next (s.onBlock n)) (Block.park_of_not h)⟩
  · exact congrArg (fun y => Host.Outcome.next (s.onBlock (b.setLink l y))) (if_pos ⟨hp, Option.isNone_iff_eq_none.mpr he⟩)

end Sys2Proof.Machine
end

/-! PROOF. Combs that fail and return, the halt, and lost references (R331 to R334, R384, R387, R407). -/
section
namespace Sys2Proof.Machine
open Sys2Proof

/-! ### What a halt leaves on its way: the Kettle, and partitions without a step -/

/-- The Kettle is as before, and no partition has a step that had none. -/
structure Block.Stays (b n : Block) : Prop where
  kettle : n.kettle = b.kettle
  run : ∀ p, (b.part p).run = none → (n.part p).run = none

namespace Block.Stays
variable {a b n : Block}

theorem refl (b : Block) : b.Stays b := ⟨rfl, fun _ h => h⟩

theorem trans (h : a.Stays b) (h' : b.Stays n) : a.Stays n := ⟨h'.kettle.trans h.kettle, fun p hp => h'.run p (h.run p hp)⟩

theorem of_parts (hk : n.kettle = b.kettle) (hp : n.parts = b.parts) : b.Stays n :=
  ⟨hk, fun p h => (congrArg (fun ps : Vector Part 128 => ps[p].run) hp).trans h⟩

theorem foldl {α : Type} (f : Block → α → Block) (hf : ∀ (b : Block) (x : α), b.Stays (f b x)) (xs : List α) (b : Block) :
    b.Stays (xs.foldl f b) :=
  List.foldlRecOn (motive := fun n => b.Stays n) xs f (refl b) (fun n h x _ => h.trans (hf n x))

theorem modPart (b : Block) (p : PartId) (f : Part → Part) (hf : ∀ x : Part, x.run = none → (f x).run = none) : b.Stays (b.modPart p f) := by
  refine ⟨rfl, fun k hk => ?_⟩
  rcases Classical.em (k = p) with rfl | hkp
  · rw [Block.part_modPart_self]
    exact hf _ hk
  · rw [Block.part_modPart_ne b p k f hkp]
    exact hk

theorem modRun (b : Block) (p : PartId) (f : StepRun → StepRun) : b.Stays (b.modRun p f) :=
  modPart b p _ (fun x h => by rw [h]; rfl)

theorem holdFlit (b : Block) (who : Nat) (head body : List Byte) : b.Stays (b.holdFlit who head body) := by
  refine trans (b := { b with heldFlits := b.heldFlits ++ [(who, head, [body])] }) (of_parts rfl rfl) (foldl _ (fun n d => ?_) _ _)
  simp only [Block.raiseGroup]
  split
  · split
    · exact of_parts rfl rfl
    · exact refl n
  · exact refl n

theorem sendMsg (b : Block) (who : Nat) (head body : List Byte) : b.Stays (b.sendMsg who head body) := by
  have hroute : b.Stays (b.route (hdDst head)).2 := of_parts rfl rfl
  simp only [Block.sendMsg]
  split
  · exact hroute
  · exact hroute.trans (holdFlit _ _ _ _)
  · exact hroute.trans (of_parts rfl rfl)

theorem sendAborts (b : Block) (p : PartId) (r : StepRun) (code opidx : Nat) (org : Coord) : b.Stays (b.sendAborts p r code opidx org) :=
  foldl _ (fun n _ => sendMsg n _ _ _) _ b

theorem stopBulk (b : Block) (p : PartId) (ep : Nat) : b.Stays (b.stopBulk p ep) :=
  of_parts (by rw [Block.stopBulk]) (by rw [Block.stopBulk])

theorem releaseStandby (b : Block) (p : PartId) : b.Stays (b.releaseStandby p) :=
  of_parts (by rw [Block.releaseStandby]) (by rw [Block.releaseStandby])

theorem originate (b : Block) (p : PartId) (code opidx : Nat) : b.Stays (b.originate p code opidx) := by
  simp only [Block.originate]
  split
  · exact refl b
  next r _ =>
    split
    · split
      · exact trans (modRun b p _) (of_parts rfl rfl)
      · exact refl b
    · exact ((modRun b p _).trans (stopBulk _ p r.epoch)).trans (sendAborts _ _ _ _ _ _)

theorem postRec (b : Block) (id : Nat) (r : Rec) : b.Stays (b.postRec id r) := by
  simp only [Block.postRec]
  split
  · exact refl b
  · split <;> exact of_parts rfl rfl

theorem stepRecords (b : Block) (r : StepRun) (status : Nat) (scal : List Byte) : b.Stays (b.stepRecords r status scal) := by
  refine foldl _ (fun n id => ?_) _ b
  dsimp only
  split
  · exact refl n
  · refine trans ?_ (postRec _ _ _)
    split <;> exact of_parts rfl rfl

theorem log (b : Block) (code : Nat) (u : EvUnit) (p : Option PartId) (ds : List Nat) : b.Stays (b.log code u p ds) := of_parts rfl rfl

theorem resFails (b : Block) (p : PartId) (tensor rnd : Nat) (fs : Strikes) : b.Stays (b.resFails p tensor rnd fs) := by
  refine foldl _ (fun n f => ?_) _ b
  dsimp only
  split <;> exact of_parts rfl rfl

theorem lateStrikes (b : Block) (p : PartId) (r : StepRun) (o : Round) : b.Stays (b.lateStrikes p r o) := by
  simp only [Block.lateStrikes]
  split
  · split
    · exact refl b
    · refine trans ?_ (resFails _ _ _ _ _)
      simp only [Block.strikeDraw]
      split
      · exact refl b
      · exact of_parts rfl rfl
  · exact refl b

theorem releaseRound (b : Block) (p : PartId) (c : CombId) (o : Round) : b.Stays (b.releaseRound p c o) := by
  refine trans ?_ (modRun _ _ _)
  split <;> exact of_parts rfl rfl

theorem returnAll (b : Block) (p : PartId) : b.Stays (b.returnAll p) := by
  simp only [Block.returnAll]
  split
  · exact refl b
  next r _ =>
    refine ((foldl _ (fun n o => releaseRound n p r.comb o) _ b).trans (foldl _ (fun n o => ?_) _ _)).trans (modRun _ _ _)
    split
    · exact of_parts rfl rfl
    · exact refl n

theorem dropRun (b : Block) (p : PartId) : b.Stays (b.dropRun p) := by
  simp only [Block.dropRun]
  split
  · exact refl b
  next r _ => exact ((foldl _ (fun n o => lateStrikes n p r o) _ b).trans (returnAll _ p)).trans (modPart _ _ _ (fun _ _ => rfl))

theorem modComb (b : Block) (c : CombId) (f : Comb → Comb) : b.Stays (b.modComb c f) := of_parts rfl rfl

theorem freeSlots (b : Block) (p : PartId) : b.Stays (b.freeSlots p) := of_parts rfl rfl

theorem dropSlots (b : Block) (id : Nat) : b.Stays (b.dropSlots id) := of_parts rfl rfl

theorem freeCtx (b : Block) (id : Nat) : b.Stays (b.freeCtx id) := by
  refine ⟨rfl, fun p hp => ?_⟩
  have h : ((b.freeCtx id).part p).run = ((b.part p).run).map (fun r => { r with owners := r.owners.filter (· != id) }) := by
    simp [Block.freeCtx, Block.part]
  rw [h, hp]
  rfl

theorem closeAll (b : Block) (code : Nat) : b.Stays (b.closeAll code) :=
  foldl (fun (n : Block) (c : Ctx) => ((n.postRec c.id (Rec.closed code)).dropSlots c.id).freeCtx c.id)
    (fun n c => ((postRec n c.id _).trans (dropSlots _ c.id)).trans (freeCtx _ c.id)) _ b

end Block.Stays

theorem Block.dropRun_run (b : Block) (p : PartId) : ((b.dropRun p).part p).run = none := by
  simp only [Block.dropRun]
  split
  next h => exact h
  next r _ => rw [Block.part_modPart_self]

/-- The step of a partition ends with the halt of the chip. -/
def Block.endRun (b : Block) (p : PartId) : Block :=
  match b.run? p with
  | some r => (((b.dropRun p).freeSlots p).modComb r.comb (fun c => { c with
      svc := if c.svc = .running then .idle else c.svc, idleSince := b.now, prods := [], ops := [] })).releaseStandby p
  | none => b

theorem Block.Stays.endRun (b : Block) (p : PartId) : b.Stays (b.endRun p) := by
  simp only [Block.endRun]
  split
  · exact (((Block.Stays.dropRun b p).trans (.freeSlots _ p)).trans (.modComb _ _ _)).trans (.releaseStandby _ p)
  · exact .refl b

theorem Block.endRun_run (b : Block) (p : PartId) : ((b.endRun p).part p).run = none := by
  simp only [Block.endRun]
  split
  · exact (Block.Stays.releaseStandby _ p).run p (b.dropRun_run p)
  next h => exact h

theorem Block.foldl_endRun_run {ps : List PartId} {p : PartId} (hp : p ∈ ps) (b : Block) : ((ps.foldl Block.endRun b).part p).run = none := by
  induction ps generalizing b with
  | nil => exact absurd hp List.not_mem_nil
  | cons q ps ih =>
    rcases List.mem_cons.mp hp with rfl | hp
    · exact (Block.Stays.foldl _ (fun n q => .endRun n q) ps (b.endRun p)).run p (b.endRun_run p)
    · exact ih hp _

/-- The record of a step that the halt ends (R316). -/
def Block.recordRun (code : Nat) (b : Block) (p : PartId) : Block :=
  match b.run? p with
  | some r => b.stepRecords r code []
  | none => b

theorem Block.Stays.recordRun (code : Nat) (b : Block) (p : PartId) : b.Stays (b.recordRun code p) := by
  simp only [Block.recordRun]
  split
  · exact .stepRecords b _ _ _
  · exact .refl b

/-- What a halt does first (R47): the chip is stopped, and where a ledger failed its counts are kept. -/
def Block.stopNow (b : Block) (code : Nat) : Block :=
  { b with kettle := { b.kettle with stopped := true, haltCode := BitVec.ofNat 16 code }
           frozen := if 0x0701 ≤ code ∧ code ≤ 0x0705 then some b.ledgersNow else b.frozen }

/-- A link without anything of the bulk and parcel classes to send. -/
def Link.noBulk (x : Link) : Link := { x with tx := { x.tx with qBulk := [], qParcel := [], curBulk := ([], []), curParcel := ([], []) } }

/-- The halt: after the aborts, the records and the ends of the steps nothing is left to run or to send. -/
theorem Block.halt_eq {b : Block} (hs : b.kettle.stopped = false) (code : Nat) (es : List (Nat × EvUnit × List Nat)) :
    ∃ m : Block, (b.stopNow code).Stays m ∧ (∀ p, (m.part p).run = none) ∧
      b.halt code es = { m with
        ready := [], heldFlits := m.heldFlits.filter (fun h => hdClass h.2.1 == 4), host := { m.host with parcelsOut := [], parcelsIn := [] }
        links := m.links.map Link.noBulk } := by
  let ends := allParts.foldl Block.endRun (allParts.foldl (Block.recordRun code) (allParts.foldl (fun b p => b.originate p 0x0101 0) (b.stopNow code)))
  have hends : (b.stopNow code).Stays ends :=
    ((Block.Stays.foldl _ (fun n p => .originate n p _ _) _ _).trans (.foldl _ (fun n p => .recordRun code n p) _ _)).trans
      (.foldl _ (fun n p => .endRun n p) _ _)
  let last := es.foldl (fun (b : Block) (q : Nat × EvUnit × List Nat) => b.log q.1 q.2.1 none q.2.2) (ends.closeAll code)
  have hrest : ends.Stays last :=
    (Block.Stays.closeAll ends code).trans (.foldl _ (fun n q => .log n _ _ _ _) _ _)
  exact ⟨last, hends.trans hrest,
    fun p => hrest.run p (Block.foldl_endRun_run (List.mem_finRange p) _), if_neg (ne_true_of_eq_false hs)⟩

/-! ### The commands -/

theorem exec_combFailure (c : CombId) (cause : CombCause) (s : State) (n : Block)
    (h : (match cause with
      | .sramCorrectable =>
        if (s.block.comb c).svc = .idle ∨ (s.block.comb c).svc = .running then
          (s.block.modComb c (fun x => { x with cnt := { x.cnt with sramCorr := satAdd x.cnt.sramCorr 1 } })).log 0x0331 (.comb c) none []
        else s.block
      | .sramUncorrectable => s.block.combFails c 1
      | .parity => s.block.combFails c 2) = n) :
    exec (.combFailure c cause) s = .next { s.onBlock n with bufs := n.keptBufs s.bufs } := by
  subst h
  rfl

theorem exec_combWatchdog (c : CombId) (s : State) :
    exec (.combWatchdog c) s = .next { s.onBlock (s.block.watchdogEnds c) with bufs := (s.block.watchdogEnds c).keptBufs s.bufs } := rfl

theorem exec_combReturnWakeDone (c : CombId) (ok : Bool) (s : State) :
    exec (.combReturnWakeDone c ok) s = .next { s.onBlock (s.block.combReturns c ok) with
      bufs := if (s.block.combReturns c ok).comb c = s.block.comb c then s.bufs else s.bufs.set c [] } := rfl

section
variable {b : Block} {c : CombId}

theorem Block.combFails_guard (h : (b.comb c).svc = .idle ∨ (b.comb c).svc = .running) :
    ¬((b.comb c).svc ≠ .idle ∧ (b.comb c).svc ≠ .running) :=
  fun hn => h.elim hn.1 hn.2

theorem Block.stuckInside_spec (h : b.stuckInside c = true) :
    (b.comb c).svc = .running ∧ ∃ p r, (b.comb c).part = some p ∧ b.run? p = some r ∧
      r.agreed = true ∧ r.abort = none ∧ r.launches = [] ∧ (∀ o ∈ r.buzz, o.capped = true) ∧ (∀ o ∈ r.rounds, o.st = .drained) := by
  simp only [Block.stuckInside] at h
  split at h
  · exact Bool.noConfusion h
  next p hp =>
    split at h
    · exact Bool.noConfusion h
    next r hr =>
      simp only [Bool.and_eq_true, beq_iff_eq, Option.isNone_iff_eq_none, List.isEmpty_iff, List.all_eq_true] at h
      obtain ⟨⟨⟨⟨⟨⟨hsvc, hag⟩, hab⟩, hl⟩, hb⟩, ho⟩, -⟩ := h
      exact ⟨hsvc, p, r, hp, hr, hag, hab, hl, hb, ho⟩

theorem Block.combReturns_guard (hw : (b.comb c).waking = true) (hs : (b.comb c).svc = .released ∨ (b.comb c).svc = .failed)
    (hv : b.serving = true) :
    ¬((!(b.comb c).waking) = true ∨ ((b.comb c).svc ≠ .released ∧ (b.comb c).svc ≠ .failed) ∨ (!b.serving) = true) := by
  rcases hs with hs | hs <;> simp [hw, hs, hv]

end

/-- A comb that returns has a cleared buffer: the return ends its wake (R334). -/
theorem exec_combReturnWakeDone_of_woken {c : CombId} {ok : Bool} {s : State} {n : Block} (h : s.block.combReturns c ok = n)
    (hw : (s.block.comb c).waking = true) (hn : (n.comb c).waking = false) :
    exec (.combReturnWakeDone c ok) s = .next ((s.onBlock n).withBuf c []) := by
  subst h
  have hne : ¬(s.block.combReturns c ok).comb c = s.block.comb c := fun h => by
    rw [h, hw] at hn
    exact Bool.noConfusion hn
  rw [exec_combReturnWakeDone, if_neg hne]
  rfl

/-- Settles O56. -/
theorem combFailuresAndClocks : Obligations.CombFailuresAndClocks := by
  unfold Obligations.CombFailuresAndClocks
  refine ⟨fun c s hs => ?_, fun b c => Block.stuckInside_spec, fun c s hw hs hv => ?_, fun s => ⟨fun hr => ?_, rfl⟩, fun b code es hs => ?_⟩
  · intro b p failed on
    refine ⟨?_, ?_, ?_, fun h => ?_, fun h => ?_⟩
    · exact exec_combFailure c .sramUncorrectable s _ (if_neg (Block.combFails_guard hs))
    · exact exec_combFailure c .parity s _ (if_neg (Block.combFails_guard hs))
    · exact exec_combFailure c .sramCorrectable s _ (if_pos hs)
    · exact (exec_combWatchdog c s).trans (congrArg on ((if_pos h).trans (if_neg (Block.combFails_guard hs))))
    · exact (exec_combWatchdog c s).trans (congrArg on (if_neg (ne_true_of_eq_false h)))
  · intro x n
    have hg := Block.combReturns_guard hw hs hv
    refine ⟨exec_combReturnWakeDone_of_woken ((if_neg hg).trans (if_pos rfl)) hw ?_,
      exec_combReturnWakeDone_of_woken ((if_neg hg).trans (if_neg Bool.false_ne_true)) hw ?_⟩
    · exact congrArg Comb.waking (Block.comb_setComb_self n c { x with svc := .idle, pwr := .boil, waking := false, store := none, idleSince := n.now })
    · exact congrArg Comb.waking (Block.comb_setComb_self n c { x with svc := .failed, waking := false, failCause := 4, failCode := 0x0340 })
  · exact congrArg (fun n => Host.Outcome.next (s.onBlock n)) (if_neg (ne_true_of_eq_false hr))
  · obtain ⟨m, hm, hrun, he⟩ := Block.halt_eq hs code es
    intro n
    rw [show n = _ from he]
    refine ⟨congrArg Kettle.stopped hm.kettle, congrArg Kettle.haltCode hm.kettle, rfl, hrun, rfl, rfl, fun l => ?_⟩
    have hl : (m.links.map Link.noBulk)[l] = (m.link l).noBulk := Vector.getElem_map Link.noBulk l.isLt
    exact ⟨congrArg (fun x => x.tx.qBulk) hl, congrArg (fun x => x.tx.qParcel) hl, congrArg (fun x => x.tx.curBulk) hl,
      congrArg (fun x => x.tx.curParcel) hl⟩

end Sys2Proof.Machine
end

/-! PROOF. The resets and the test access port (R394 to R396, R417, R448, R454 to R456). -/
section
namespace Sys2Proof.Machine
open Sys2Proof

/-! ### CHIP_RST_N, the rails and boundary scan -/

section
variable {b : Block}

theorem Block.pinReset_of_none (h : b.resetNow = none) : b.pinReset = (b.advanceTo (b.now + 25)).nonKettleReset 3 3 := by
  simp only [Block.pinReset, h]

theorem Block.pinReset_of_some {k : Nat} (h : b.resetNow = some k) : b.pinReset = if 3 < k then b.resetRecorded 3 3 else b := by
  simp only [Block.pinReset, h]

theorem TapIr.holds_iff (i : TapIr) : i.holds = true ↔ i = .extest ∨ i = .clamp ∨ i = .highz := by
  simp only [TapIr.holds, Bool.or_eq_true, beq_iff_eq, or_assoc]

/-- The block with an instruction loaded, and nothing else changed. -/
def Block.irOnly (b : Block) (i : TapIr) : Block := { b with tap := { b.tap with ir := i } }

theorem Block.loadIr_of_held {i : TapIr} (hi : i.holds = true) (h : b.tap.ir.holds = true) : b.loadIr i = b.irOnly i := by
  simp only [Block.loadIr, hi, h, Bool.not_true, Bool.false_eq_true, and_false, if_false, Block.irOnly]

theorem Block.loadIr_of_holding {i : TapIr} (hi : i.holds = true) (h : b.tap.ir.holds = false) :
    b.loadIr i = if b.resetActs 3 = true then (b.irOnly i).nonKettleReset 3 3 else b.irOnly i := by
  refine (if_pos ⟨hi, ?_⟩).trans rfl
  rw [h]
  rfl

theorem Block.loadIr_of_released {i : TapIr} (hi : i.holds = false) (h : b.tap.ir.holds = true) :
    b.loadIr i = { b.irOnly i with kettle := { b.kettle with startAt := Nat.max b.kettle.startAt (b.now + 1) } } := by
  simp only [Block.loadIr, hi, h, Bool.false_eq_true, false_and, if_false, Bool.not_false, and_self, if_true]
  rfl

theorem Block.loadIr_of_free {i : TapIr} (hi : i.holds = false) (h : b.tap.ir.holds = false) : b.loadIr i = b.irOnly i := by
  simp only [Block.loadIr, hi, h, Bool.false_eq_true, false_and, if_false, Block.irOnly]

end

/-! ### What the resets keep -/

section
variable (b : Block) (cause prec : Nat)

/-- The recording of a reset changes the log, the Kettle's cause and the KT of the reset only. -/
theorem Block.resetRecorded_keeps :
    (b.resetRecorded cause prec).kettle = { b.kettle with resetCause := BitVec.ofNat 4 cause, rstAt := some (b.now, prec) } ∧
    (b.resetRecorded cause prec).msp.session = b.msp.session ∧ (b.resetRecorded cause prec).nvm = b.nvm ∧
    (b.resetRecorded cause prec).links = b.links ∧
    (b.resetRecorded cause prec).evl.head = (if b.resetNow = none then b.evl.head + 1 else b.evl.head) := by
  cases h : b.resetNow with
  | none =>
    simp only [Block.resetRecorded, h, Option.isSome_none, Bool.false_eq_true, if_false, if_true]
    exact ⟨rfl, rfl, rfl, rfl, rfl⟩
  | some k =>
    simp only [Block.resetRecorded, h, Option.isSome_some, if_true, reduceCtorEq, if_false]
    exact ⟨rfl, rfl, rfl, rfl, rfl⟩

variable {b}

theorem Block.link_clearDomains (keep : Bool) (l : LinkId) : (b.clearDomains keep).link l = (b.link l).afterReset keep :=
  Vector.getElem_map (fun x : Link => x.afterReset keep) l.isLt

theorem Block.part_clearDomains (keep : Bool) (p : PartId) : (b.clearDomains keep).part p = Part.reset :=
  Vector.getElem_replicate p.isLt

end

/-- Settles O57. -/
theorem resetsAndScan : Obligations.ResetsAndScan := by
  unfold Obligations.ResetsAndScan
  intro pins shift s b held ir holds frees
  have heldIff : b.tap.ir.holds = true ↔ held := TapIr.holds_iff _
  have notHeld : ¬held → b.tap.ir.holds = false := fun h => Bool.eq_false_iff.mpr (fun h' => h (heldIff.mp h'))
  have hold : ∀ {i : TapIr}, i.holds = true → b.loadIr i = holds i := by
    intro i hi
    by_cases h : held
    · exact (Block.loadIr_of_held hi (heldIff.mpr h)).trans (if_pos h).symm
    · exact (Block.loadIr_of_holding hi (notHeld h)).trans (if_neg h).symm
  have free : ∀ {i : TapIr}, i.holds = false → b.loadIr i = frees i := by
    intro i hi
    by_cases h : held
    · exact (Block.loadIr_of_released hi (heldIff.mpr h)).trans (if_pos h).symm
    · exact (Block.loadIr_of_free hi (notHeld h)).trans (if_neg h).symm
  have run : ∀ {x y : Block}, x = y → Host.Outcome.next (φ := Fault) (ρ := Refusal) (s.onBlock x) = .next (s.onBlock y) := fun h => by rw [h]
  refine ⟨rfl, rfl, Block.pinReset_of_none, fun k h hk => (Block.pinReset_of_some h).trans (if_neg (Nat.not_lt.mpr hk)),
    fun k h hk => (Block.pinReset_of_some h).trans (if_pos hk), fun h => ?_, fun h => ?_, rfl, run (hold rfl), run (hold rfl), run (hold rfl),
    run (free rfl), run (free rfl), ?_, fun cause prec => ?_, fun on => ?_, fun h => ?_⟩
  · exact run ((if_neg (fun h' => Bool.noConfusion (h'.trans h))).trans (if_pos rfl))
  · exact run ((if_neg (fun h' => Bool.noConfusion (h'.trans h))).trans (if_neg Bool.false_ne_true))
  · have hir : (frees .sample).tap.ir = .sample := by
      by_cases h : held
      · exact congrArg (fun n : Block => n.tap.ir) (if_pos h)
      · exact congrArg (fun n : Block => n.tap.ir) (if_neg h)
    refine run (((congrArg (fun n : Block => { n with tap := { n.tap with shift := pins, update := shift } }) (free rfl))).trans ?_)
    exact congrArg (fun i => { frees .sample with tap := (⟨i, pins, shift⟩ : Tap) }) hir
  · intro n
    obtain ⟨hkettle, hsess, hnvm, hlinks, hhead⟩ := b.resetRecorded_keeps cause prec
    refine ⟨rfl, (congrArg Kettle.kt hkettle :), ?_, (congrArg Kettle.resetCause hkettle :), (congrArg Kettle.rstAt hkettle :), rfl, rfl, hhead,
      hsess, (congrArg Nvm.fetches hnvm :), (congrArg Nvm.due hnvm :), fun kt => (congrArg (fun m : Nvm => m.mayFetch kt) hnvm :), rfl,
      fun p => Block.part_clearDomains (b := b.resetRecorded cause prec) true p, rfl, rfl, fun l => ?_⟩
    · exact (congrArg (fun k : Kettle => k.kt + 250) hkettle :)
    · have hl : n.link l = (b.link l).afterReset true :=
        (Block.link_clearDomains true l).trans (congrArg (fun ls : Vector Link 42 => ls[l].afterReset true) hlinks)
      rw [hl]
      exact ⟨rfl, rfl⟩
  · intro n
    refine ⟨rfl, rfl, rfl, rfl, rfl, rfl, fun l => ?_⟩
    exact congrArg (fun x => x.tr.coeffs) (Block.link_clearDomains false l)
  · simp only [Fuses.cut, h]

end Sys2Proof.Machine
end

/-! PROOF. Start-up phase by phase (R342 to R344, R353 to R358, R360). -/
section
namespace Sys2Proof.Machine
open Sys2Proof

/-! ### The read commands of the NVM port (R344) -/

/-- Bytes that the first `k` bursts of a read of `len` bytes carry. -/
theorem sum_burstLens (len k : Nat) :
    ((List.range k).map (fun j => Nat.min 4096 (len - 4096 * j))).foldl (· + ·) 0 = Nat.min (4096 * k) len := by
  induction k with
  | zero => simp
  | succ k ih =>
    simp only [List.range_succ, List.map_append, List.map_cons, List.map_nil, List.foldl_append, List.foldl_cons, List.foldl_nil, ih]
    exact show min (4096 * k) len + min 4096 (len - 4096 * k) = min (4096 * (k + 1)) len by omega

theorem lens_nvmBursts (mode div dummy addr len : Nat) :
    ((nvmBursts mode div dummy addr len).map NvmRead.len).foldl (· + ·) 0 = len := by
  have hmap : (nvmBursts mode div dummy addr len).map NvmRead.len =
      (List.range (ceilDiv len 4096)).map (fun j => Nat.min 4096 (len - 4096 * j)) := by
    simp only [nvmBursts, List.map_map]
    rfl
  rw [hmap, sum_burstLens]
  exact Nat.min_eq_right (by simp only [ceilDiv]; omega)

theorem mem_nvmBursts {mode div dummy addr len : Nat} {q : NvmRead} (h : q ∈ nvmBursts mode div dummy addr len) :
    ∃ k, 4096 * k < len ∧ q = ⟨nvmCommand mode, addr + 4096 * k, Nat.min 4096 (len - 4096 * k), div, dummy⟩ := by
  obtain ⟨k, hk, rfl⟩ := List.mem_map.mp h
  have hlt : k < ceilDiv len 4096 := List.mem_range.mp hk
  exact ⟨k, by simp only [ceilDiv] at hlt; omega, rfl⟩

theorem bounds_nvmBursts {mode div dummy addr len : Nat} {q : NvmRead} (h : q ∈ nvmBursts mode div dummy addr len) :
    1 ≤ q.len ∧ q.len ≤ 4096 ∧ addr ≤ q.addr ∧ q.addr + q.len ≤ addr + len ∧ q.div = div ∧ q.dummy = dummy ∧ q.cmd = nvmCommand mode := by
  obtain ⟨k, hk, rfl⟩ := mem_nvmBursts h
  have hmin : Nat.min 4096 (len - 4096 * k) ≤ len - 4096 * k := Nat.min_le_right _ _
  refine ⟨Nat.le_min.mpr ⟨by omega, by omega⟩, Nat.min_le_left _ _, Nat.le_add_right _ _, ?_, rfl, rfl, rfl⟩
  show addr + 4096 * k + Nat.min 4096 (len - 4096 * k) ≤ addr + len
  omega

/-! ### Each phase by its outcome -/

section
variable {b : Block}

theorem Block.early_iff : b.early = true ↔ b.boot.phase = .straps ∨ b.boot.phase = .header ∨ b.boot.phase = .core := by
  simp only [Block.early, Bool.or_eq_true, beq_iff_eq, or_assoc]

/-- The domains leave reset: a reset that ends here releases a thermal trip. -/
def Block.leavesReset (b : Block) : Block :=
  let t := b.advanceTo b.kettle.startAt
  if b.kettle.ending then t.releaseTrip else t

theorem Block.releaseTrip_boot (b : Block) : b.releaseTrip.boot = b.boot := by
  unfold Block.releaseTrip
  split <;> rfl

theorem Block.releaseTrip_nvm (b : Block) : b.releaseTrip.nvm = b.nvm := by
  unfold Block.releaseTrip
  split <;> rfl

theorem Block.leavesReset_boot (b : Block) : b.leavesReset.boot = b.boot := by
  simp only [Block.leavesReset]
  split
  · exact Block.releaseTrip_boot _
  · rfl

theorem Block.leavesReset_nvm (b : Block) : b.leavesReset.nvm = b.nvm := by
  simp only [Block.leavesReset]
  split
  · exact Block.releaseTrip_nvm _
  · rfl

/-- The domains out of reset, with the marks of the reset cleared. -/
def Block.released (b : Block) : Block := { b.leavesReset with kettle := { b.leavesReset.kettle with ending := false, railBad := false } }

theorem Block.startUp_eq {crd : Coord} {mode : Bool} (h0 : b.boot.phase = .none) (h1 : b.kettle.rstLow = false) (h2 : b.mspOff = false) :
    b.startUp crd mode = if b.leavesReset.kettle.thermTrip then b.released
      else { b.released with
        boot := { b.boot with phase := .straps, physCoord := crd, strapMode := mode, code := 0, detail := 0 }, nvm := { b.nvm with busy := true } } := by
  have hguard : ¬(b.boot.phase ≠ .none ∨ b.kettle.rstLow = true ∨ b.mspOff = true) := by
    rw [h0, h1, h2]
    decide
  rw [← b.leavesReset_boot, ← b.leavesReset_nvm]
  exact (if_neg hguard).trans rfl

theorem Block.headerRead_some {h : List Byte} {code : Nat} (he : b.early = true) (hd : b.boot.hdrDone = false) (hl : h.length = 256)
    (hc : checkHeader h = some code) : b.headerRead h = (b.nvmReads (headerBursts b.boot.strapMode)).startFails code 0 .kettle := by
  simp only [Block.headerRead, he, hd, hl, hc, Bool.not_true, Bool.false_eq_true, ne_eq, not_true, or_self, if_false]

theorem Block.headerRead_none {h : List Byte} (he : b.early = true) (hd : b.boot.hdrDone = false) (hl : h.length = 256)
    (hc : checkHeader h = none) : b.headerRead h = (b.nvmReads (headerBursts b.boot.strapMode)).modBoot (fun x => { x with
        phase := if x.coreDone then .stream else .core, hdrDone := true, imageId := BitVec.ofNat 32 (field h 0x1C 4)
        nvmCfg := BitVec.ofNat 32 (field h 0x14 4), scrubHours := field h 0x18 2, partCount := field h 6 2, sigOff := field h 8 4
        imageLen := field h 0x0C 4, image := h }) := by
  simp only [Block.headerRead, he, hd, hl, hc, Bool.not_true, Bool.false_eq_true, ne_eq, not_true, or_self, if_false]

/-- The stacks initialised, those of `bad` not. -/
def Block.stacksUp (b : Block) (bad : Vector Bool 4) : Block :=
  { b with hbm := { b.hbm with stackOf := Vector.ofFn (fun (i : Fin 4) => { b.hbm.stackOf[i] with st := if bad[i] then 2 else 1 }) } }

theorem Block.coreInit_some {bad : Vector Bool 4} {i : StackId} (he : b.early = true) (hd : b.boot.coreDone = false)
    (hi : (List.finRange 4).find? (fun (i : StackId) => bad[i]) = some i) :
    b.coreInit bad = (b.stacksUp bad).startFails 0x0513 0 (.stack i) := by
  simp only [Block.coreInit, he, hd, hi, Bool.not_true, Bool.false_eq_true, or_self, if_false]
  rfl

theorem Block.coreInit_none {bad : Vector Bool 4} (he : b.early = true) (hd : b.boot.coreDone = false)
    (hi : ∀ i : StackId, bad[i] = false) :
    b.coreInit bad = (b.stacksUp bad).modBoot (fun x => { x with coreDone := true, phase := if x.hdrDone then .stream else x.phase }) := by
  have hnone : (List.finRange 4).find? (fun (i : StackId) => bad[i]) = none :=
    List.find?_eq_none.mpr (fun i _ => ne_true_of_eq_false (hi i))
  simp only [Block.coreInit, he, hd, hnone, Bool.not_true, Bool.false_eq_true, or_self, if_false]
  rfl

theorem Block.verified_some {f : Fuses} {code : Nat} (h : b.boot.phase = .signature)
    (hc : checkSignature f b.boot.image b.boot.sigOff = some code) :
    b.verified f = (b.modBoot (fun x => { x with anchored := !allZero f.anchor })).startFails code 0 .kettle := by
  refine (if_neg (Classical.not_not.mpr h)).trans ?_
  simp only [Block.modBoot, hc]

theorem Block.verified_none {f : Fuses} (h : b.boot.phase = .signature) (hc : checkSignature f b.boot.image b.boot.sigOff = none) :
    b.verified f = (b.modBoot (fun x => { x with anchored := !allZero f.anchor })).modBoot (fun x => { x with phase := .content }) := by
  refine (if_neg (Classical.not_not.mpr h)).trans ?_
  simp only [Block.modBoot, hc]

/-- The machine descriptor shows. -/
def Block.showsMachine (b : Block) : Block := b.modBoot (fun x => { x with machine := field x.image 0x10 4 })

theorem Block.contentDone_0506 {d : Nat} (h : b.boot.phase = .content) (hc : checkContent b.boot.image b.boot.physCoord = some (0x0506, d)) :
    b.contentDone = b.startFails 0x0506 d .kettle := by
  refine (if_neg (Classical.not_not.mpr h)).trans ?_
  simp only [hc, Option.map_some, if_true]

theorem Block.contentDone_some {code d : Nat} (h : b.boot.phase = .content) (hc : checkContent b.boot.image b.boot.physCoord = some (code, d))
    (hne : code ≠ 0x0506) : b.contentDone = b.showsMachine.startFails code d .kettle := by
  refine (if_neg (Classical.not_not.mpr h)).trans ?_
  simp only [hc, Option.map_some, Option.some.injEq, if_neg hne]
  rfl

theorem Block.contentDone_none (h : b.boot.phase = .content) (hc : checkContent b.boot.image b.boot.physCoord = none) :
    b.contentDone = b.showsMachine.modBoot (fun x => { x with phase := .layout }) := by
  refine (if_neg (Classical.not_not.mpr h)).trans ?_
  simp only [hc, Option.map_none, reduceCtorEq, if_false]
  rfl

/-! ### The layout phase -/

theorem Block.part_layout (h : b.boot.phase = .layout) (p : PartId) :
    b.layout.part p = match imagePart b.boot.image p with | some i => Part.laidOut i | none => Part.reset := by
  rw [Block.layout, if_neg (Classical.not_not.mpr h)]
  exact (Vector.getElem_ofFn p.isLt).trans rfl

theorem Block.comb_layout (h : b.boot.phase = .layout) (c : CombId) :
    b.layout.comb c = { b.comb c with svc := .idle, pwr := .boil, idleSince := b.now } := by
  rw [Block.layout, if_neg (Classical.not_not.mpr h)]
  exact (Vector.getElem_map _ c.isLt).trans rfl

theorem Block.link_layout (h : b.boot.phase = .layout) (l : LinkId) :
    b.layout.link l = (b.link l).atReady (b.linkAbsent l) b.now := by
  rw [Block.layout, if_neg (Classical.not_not.mpr h)]
  exact Vector.getElem_ofFn l.isLt

/-! ### A program fetched again -/

/-- A fetch of the program of `p` has been read, counted and logged. -/
def Block.fetched (b : Block) (p : PartId) : Block :=
  let t := (b.advanceTo (b.part p).fetchAt).nvmReads (cfgBursts b.boot.nvmCfg.toNat (b.image p).progOff (8 * (b.image p).prog.length))
  ({ t with nvm := { t.nvm with fetches := wrapAdd t.nvm.fetches 1 } }).logFetch p

/-- No fetch of `p` is due any more. -/
def Block.fetchLeaves (b : Block) (p : PartId) : Block := { b with nvm := { b.nvm with due := b.nvm.due.filter (· != p) } }

theorem Block.fetchProgram_eq {p : PartId} {bytes : List Byte} (hdue : b.nvm.due.contains p = true)
    (hmay : b.nvm.mayFetch (Nat.max b.now (b.part p).fetchAt) = true) (hready : b.boot.phase = .ready) :
    b.fetchProgram p bytes =
      if bytes.length = 8 * ((b.fetched p).image p).prog.length ∧ sha384 bytes = ((b.fetched p).image p).progDigest then
        ((b.fetched p).fetchLeaves p).setPart p { b.part p with prog := progWords bytes, progSt := .available, fetchTries := 0, fetchAt := 0 }
      else if 2 ≤ (b.part p).fetchTries then
        (((b.fetched p).logFetch p).fetchLeaves p).setPart p { b.part p with progSt := .unavailable, fetchTries := 3 }
      else ((b.fetched p).logFetch p).setPart p { b.part p with
        fetchTries := (b.part p).fetchTries + 1, fetchAt := ((b.fetched p).logFetch p).now + 25000 } := by
  have hguard : ¬((!b.nvm.due.contains p) = true ∨ (!b.nvm.mayFetch (Nat.max b.now (b.part p).fetchAt)) = true ∨ b.boot.phase ≠ .ready) := by
    rw [hdue, hmay, hready]
    decide
  exact (if_neg hguard).trans rfl

end

/-- Settles O58: each phase's outcomes are the branches of its function; the bursts of a read are told by their number. -/
theorem startUp : Obligations.StartUp := by
  intro s b failed early
  have run {m n : Block} (h : m = n) : s.act (fun _ => m) = .next (s.onBlock n) := congrArg (fun n => Host.Outcome.next (s.onBlock n)) h
  refine ⟨?_, ⟨rfl, rfl⟩, ?_, ?_, ?_, ?_, ?_, ?_, ?_, ?_⟩
  · intro crd mode h0 h1 h2 t r n
    have hstart := Block.startUp_eq (crd := crd) (mode := mode) h0 h1 h2
    exact ⟨fun htrip => run (hstart.trans (if_pos htrip)),
      fun htrip => run (hstart.trans (if_neg (ne_true_of_eq_false htrip)))⟩
  · exact fun mode div dummy addr len => ⟨lens_nvmBursts .., fun _ hq => bounds_nvmBursts hq⟩
  · intro h he hd hl n
    have he' := Block.early_iff.mpr he
    exact ⟨fun code hc => run (Block.headerRead_some he' hd hl hc), fun hc => run (Block.headerRead_none he' hd hl hc)⟩
  · intro bad he hd n
    have he' := Block.early_iff.mpr he
    exact ⟨fun i hi => run (Block.coreInit_some he' hd hi), fun hi => run (Block.coreInit_none he' hd hi)⟩
  · intro rest h hl
    exact run (if_neg (not_or.mpr ⟨Classical.not_not.mpr h, Classical.not_not.mpr hl⟩))
  · intro h n
    exact ⟨fun code hc => run (Block.verified_some h hc), fun hc => run (Block.verified_none h hc)⟩
  · intro h n
    exact ⟨fun d hc => run (Block.contentDone_0506 h hc), fun code d hc hne => run (Block.contentDone_some h hc hne),
      fun hc => run (Block.contentDone_none h hc)⟩
  · intro h
    refine ⟨b.layout, rfl, ?_, fun p => Block.part_layout h p, fun c => Block.comb_layout h c, fun l => Block.link_layout h l, ?_⟩
    · rw [Block.layout, if_neg (Classical.not_not.mpr h)]
    · rw [Block.layout, if_neg (Classical.not_not.mpr h)]
      exact ⟨rfl, rfl, rfl, rfl, rfl, rfl, rfl⟩
  · intro p bytes hdue hmay hready x t n leave good
    have hfetch := Block.fetchProgram_eq (bytes := bytes) hdue hmay hready
    exact ⟨fun hg => run (hfetch.trans (if_pos hg)),
      fun hg hlt => run ((hfetch.trans (if_neg hg)).trans (if_neg (Nat.not_le.mpr hlt))),
      fun hg hle => run ((hfetch.trans (if_neg hg)).trans (if_pos hle))⟩

end Sys2Proof.Machine
end

/-! PROOF. The scrubber, the sensors, failed stacks and the mirror audit (R378, R400, R402, R403, R405, R408, R453, R454). -/
section
namespace Sys2Proof.Machine
open Sys2Proof

/-! ### The scrubber and the counted errors -/

section
variable {b : Block}

theorem Block.scrub_off {r : ScrubResult} {progOf : Option PartId} (h : b.hbm.scrubOn = false ∨ b.inReset = true) : b.scrub r progOf = b :=
  if_pos (h.imp_left (fun h => by rw [h]; rfl))

/-- The sector at the scrubber's place read: its error counted, logged and handled wherever the sector lies. -/
def Block.sectorRead (b : Block) (r : ScrubResult) (progOf : Option PartId) : Block :=
  let k := b.hbm.next.toNat
  let prog := if (b.locate (32 * k)).1 = .sys then progOf else none
  match r with
  | .clean => b
  | .correctable => b.hbmError ⟨k, false⟩ true prog
  | .uncorrectable => (b.places k).foldl (fun n q => n.scrubbedBad q prog) (b.hbmError ⟨k, true⟩ true prog)

theorem Block.scrub_on {r : ScrubResult} {progOf : Option PartId} (hon : b.hbm.scrubOn = true) (hrst : b.inReset = false) :
    b.scrub r progOf = if b.hbm.next.toNat + 1 < hbmSectors then
        { b.sectorRead r progOf with hbm := { (b.sectorRead r progOf).hbm with next := BitVec.ofNat 32 (b.hbm.next.toNat + 1) } }
      else (b.sectorRead r progOf).passEnds := by
  have hguard : ¬((!b.hbm.scrubOn) = true ∨ b.inReset = true) := by
    rw [hon, hrst]
    decide
  exact (if_neg hguard).trans rfl

/-- The stack with the error of a sector counted. -/
def Stack.counted (x : Stack) (e : MemErr) (now : Nat) : Stack :=
  if e.ue then
    { x with eccUncorr := satAdd x.eccUncorr 1, ueAt := (e.sector, now) :: x.ueAt.filter (fun u => decide (now < u.2 + 25000)) }
  else { x with eccCorr := satAdd x.eccCorr 1 }

theorem Block.stackOf_hbmError (e : MemErr) (scrub : Bool) (prog : Option PartId) :
    (b.hbmError e scrub prog).hbm.stackOf[stackOf (32 * e.sector)] = (b.hbm.stackOf[stackOf (32 * e.sector)]).counted e b.now :=
  Vector.getElem_set_self _

/-- The event code of an HBM error, as the entry holds it. -/
theorem ofNat_hbmCode (ue scrub : Bool) :
    BitVec.ofNat 16 (if ue then (if scrub then 0x0304 else 0x0303) else (if scrub then 0x0302 else 0x0301)) =
      if ue then (if scrub then 0x0304 else 0x0303) else (if scrub then 0x0302 else 0x0301) := by
  cases ue <;> cases scrub <;> rfl

theorem Stack.eccCorr_counted (x : Stack) (e : MemErr) (now : Nat) :
    (x.counted e now).eccCorr = if e.ue then x.eccCorr else satAdd x.eccCorr 1 := by
  unfold Stack.counted
  split <;> rfl

theorem Stack.eccUncorr_counted (x : Stack) (e : MemErr) (now : Nat) :
    (x.counted e now).eccUncorr = if e.ue then satAdd x.eccUncorr 1 else x.eccUncorr := by
  unfold Stack.counted
  split <;> rfl

/-! ### Sensors and failed stacks -/

theorem Block.trip_latched {v : Int} (h : b.kettle.thermTrip = true) : b.trip v = b := if_pos h

theorem Block.trip_new {v : Int} (h : b.kettle.thermTrip = false) :
    b.trip v = ({ b.draw.2 with kettle := { b.draw.2.kettle with thermTrip := true } }).log 0x0552 .kettle none
      [Config.thermSensor b.draw.1, codeOf 32 v] :=
  if_neg (ne_true_of_eq_false h)

theorem Block.thermTrip_trip (b : Block) (v : Int) : (b.trip v).kettle.thermTrip = true := by
  cases h : b.kettle.thermTrip with
  | true => rw [Block.trip_latched h, h]
  | false => rw [Block.trip_new h]; rfl

theorem Block.stackTemp_kept {k : StackId} {t : BitVec 8} (h : b.inReset = true ∨ (b.hbm.stackOf[k]).st = 0) : b.stackTemp k t = b :=
  if_pos h

theorem Block.stackTemp_read {k : StackId} {t : BitVec 8} (hrst : b.inReset = false) (hst : (b.hbm.stackOf[k]).st ≠ 0) :
    b.stackTemp k t = if 105 ≤ t.toNat then (b.modStack k (fun x => { x with temp := t, hot := decide (85 ≤ t.toNat) })).trip t.toNat
      else b.modStack k (fun x => { x with temp := t, hot := decide (85 ≤ t.toNat) }) :=
  if_neg (not_or.mpr ⟨ne_true_of_eq_false hrst, hst⟩)

theorem Block.dieTemps_cool {ts : Vector Int 8} (h : ∀ t ∈ ts.toList, t < 115) :
    b.dieTemps ts = { b with kettle := { b.kettle with dieTemp := ts } } := by
  have hnone : ts.toList.find? (fun t => decide (115 ≤ t)) = none :=
    List.find?_eq_none.mpr (fun t ht => by simpa using h t ht)
  simp only [Block.dieTemps, hnone]

theorem Block.dieTemps_hot {ts : Vector Int 8} {t : Int} (h : ts.toList.find? (fun t => decide (115 ≤ t)) = some t) :
    b.dieTemps ts = ({ b with kettle := { b.kettle with dieTemp := ts } } : Block).trip t := by
  simp only [Block.dieTemps, h]

theorem Block.stackFails_kept {k : StackId} (h : ¬(b.inReset = false ∧ (b.hbm.stackOf[k]).st = 1)) : b.stackFails k = b := by
  refine if_pos ?_
  by_cases hst : (b.hbm.stackOf[k]).st = 1
  · exact .inr ((Bool.not_eq_false _).mp (fun hrst => h ⟨hrst, hst⟩))
  · exact .inl hst

theorem Block.stackFails_halts {k : StackId} (h : b.inReset = false ∧ (b.hbm.stackOf[k]).st = 1) :
    b.stackFails k = (b.modStack k (fun x => { x with st := 2 })).halt 0x0370 [(0x0370, .stack k, [])] :=
  if_neg (not_or.mpr ⟨Classical.not_not.mpr h.2, ne_true_of_eq_false h.1⟩)

/-! ### The mirror audit -/

theorem Mirror.audit_same {m : Mirror} {v : BitVec 24} (now : Nat) (h : m.val = v) : m.audit now v = ({ m with diffAt := none }, false) :=
  if_pos h

theorem Mirror.audit_first {m : Mirror} {v : BitVec 24} (now : Nat) (h : m.val ≠ v) (hd : m.diffAt = none) :
    m.audit now v = ({ m with diffAt := some now }, false) := by
  simp only [Mirror.audit, if_neg h, hd]

theorem Mirror.audit_since {m : Mirror} {v : BitVec 24} {now t : Nat} (h : m.val ≠ v) (hd : m.diffAt = some t) :
    m.audit now v = if t + 250000 ≤ now then ({ m with val := v, mseq := m.mseq + 1, diffAt := none }, true) else (m, false) := by
  simp only [Mirror.audit, if_neg h, hd]

theorem auditKind_get {n : Nat} (now : Nat) (late : List (BitVec 32)) (addr : Fin n → Nat) (view : Fin n → BitVec 24) (ms : Vector Mirror n)
    (i : Fin n) : (auditKind now late addr view ms).1[i] =
      ((ms[i].hold (late.contains (BitVec.ofNat 32 (addr i))) (view i)).audit now (view i)).1 :=
  Vector.getElem_ofFn i.isLt

/-- What a resynchronised mirror counts and logs leaves the mirrors alone. -/
theorem Block.mirrors_resync (ds : List (List Nat)) (b : Block) :
    (ds.foldl (fun (b : Block) (d : List Nat) =>
      ({ b with msp := { b.msp with resync := satAdd b.msp.resync 1 } }).log 0x0360 .kettle none d) b).mirrors = b.mirrors :=
  List.foldlRecOn ds _ (motive := fun n : Block => n.mirrors = b.mirrors) rfl (fun _ h _ _ => h)

theorem Block.comb_audit (b : Block) (late : List (BitVec 32)) (c : CombId) : (b.audit late).mirrors.comb[c] =
    ((b.mirrors.comb[c].hold (late.contains (BitVec.ofNat 32 (cmbAddr c 0))) (combView (b.comb c))).audit b.now (combView (b.comb c))).1 :=
  (congrArg (fun m : Mirrors => m.comb[c]) (Block.mirrors_resync _ _)).trans (auditKind_get ..)

theorem Block.link_audit (b : Block) (late : List (BitVec 32)) (l : LinkId) : (b.audit late).mirrors.link[l] =
    ((b.mirrors.link[l].hold (late.contains (BitVec.ofNat 32 (lnkAddr l 0))) (linkView (b.link l))).audit b.now (linkView (b.link l))).1 :=
  (congrArg (fun m : Mirrors => m.link[l]) (Block.mirrors_resync _ _)).trans (auditKind_get ..)

theorem Block.part_audit (b : Block) (late : List (BitVec 32)) (p : PartId) : (b.audit late).mirrors.part[p] =
    ((b.mirrors.part[p].hold (late.contains (BitVec.ofNat 32 (prtAddr p 0))) (b.partView p)).audit b.now (b.partView p)).1 :=
  (congrArg (fun m : Mirrors => m.part[p]) (Block.mirrors_resync _ _)).trans (auditKind_get ..)

end

/-- Settles O59: each command's branches, the counted stack read back, and the audit mirror by mirror. -/
theorem memoryService : Obligations.MemoryService := by
  have run : ∀ (s : State) {m n : Block}, m = n → s.act (fun _ => m) = .next (s.onBlock n) :=
    fun s _ _ h => congrArg (fun n => Host.Outcome.next (s.onBlock n)) h
  refine ⟨?_, ?_, ?_, ?_, ?_, ?_, ?_, ?_, ?_⟩
  · exact fun res progOf k t ts late s => ⟨⟨_, rfl⟩, ⟨_, rfl⟩, ⟨_, rfl⟩, ⟨_, rfl⟩, ⟨_, rfl⟩, ⟨_, rfl⟩, ⟨_, rfl⟩⟩
  · intro res progOf s b
    refine ⟨fun h => run s (Block.scrub_off h), ?_⟩
    intro hon hrst k prog n
    have hscrub := Block.scrub_on (r := res) (progOf := progOf) hon hrst
    have hn : b.sectorRead res progOf = n := by cases res <;> rfl
    rw [hn] at hscrub
    exact ⟨fun hk => run s (hscrub.trans (if_pos hk)), fun hk => run s (hscrub.trans (if_neg (Nat.not_lt.mpr hk)))⟩
  · intro b e scrub prog a k n
    have hk : n.hbm.stackOf[k] = (b.hbm.stackOf[k]).counted e b.now := Block.stackOf_hbmError e scrub prog
    refine ⟨?_, (congrArg Stack.eccCorr hk).trans (Stack.eccCorr_counted ..), (congrArg Stack.eccUncorr hk).trans (Stack.eccUncorr_counted ..)⟩
    rw [← ofNat_hbmCode]
    rfl
  · intro k t s n
    exact ⟨fun h => run s (Block.stackTemp_kept h), fun hrst hst => run s (Block.stackTemp_read hrst hst)⟩
  · intro ts s n
    exact ⟨fun h => run s (Block.dieTemps_cool h), fun t h => run s (Block.dieTemps_hot h)⟩
  · intro b v
    refine ⟨b.thermTrip_trip v, Block.trip_latched, fun h => ?_⟩
    rw [Block.trip_new h]
    rfl
  · intro k s b works failed
    refine ⟨fun hw hue => run s ((if_pos hue).trans (Block.stackFails_halts hw)), ?_,
      fun hw => run s ((if_pos hw.2).trans (Block.stackFails_halts hw)), fun hst => run s (if_neg hst),
      fun hw => run s (Block.stackFails_halts hw), fun hw => run s (Block.stackFails_kept hw)⟩
    rintro (hw | hue)
    · refine run s (n := b) ?_
      split
      · exact Block.stackFails_kept hw
      · rfl
    · exact run s (if_neg (Nat.not_le.mpr hue))
  · intro m now v
    exact ⟨Mirror.audit_same now, Mirror.audit_first now,
      fun t h hd hlt => (Mirror.audit_since h hd).trans (if_neg (Nat.not_le.mpr hlt)),
      fun t h hd hle => (Mirror.audit_since h hd).trans (if_pos hle)⟩
  · exact fun late s => ⟨rfl, s.block.comb_audit late, s.block.link_audit late, s.block.part_audit late⟩

end Sys2Proof.Machine
end

/-! PROOF. The pager (R322, R323, R339): pages leave as records, are read back, and come in checked. -/
section
namespace Sys2Proof.Machine
open Sys2Proof

section
variable {b : Block} {p : PartId} {errs : List MemErr} {y : Spill} {q : Page}

/-! ### Page-out -/

theorem Block.pageOut_stopped (h : b.kettle.stopped = true) : b.pageOut p errs = b := by
  simp only [Block.pageOut, h, true_or, if_true]
  cases (b.part p).spill <;> rfl

/-- The pager may write a record for the partition: its spill space is whole and idle, every frame is taken by a live page, and a page must
be placed. -/
structure Block.PagesOut (b : Block) (p : PartId) (y : Spill) (q : Page) : Prop where
  spill : (b.part p).spill = some y
  runs : b.kettle.stopped = false
  whole : y.broken = false
  idle : y.writing = none
  full : (b.image p).share ≤ (b.part p).frames
  noDead : (b.part p).deadPage = none
  wants : b.wantsPage p = true
  victim : b.victim p = some q

/-- The record that page-out takes: the lowest one that is not kept. -/
def Spill.nextRec (y : Spill) : Nat := lowestFree (y.kept.map SpillRec.num) y.recs 0

theorem Block.PagesOut.no_guard (h : b.PagesOut p y q) :
    ¬(b.kettle.stopped = true ∨ y.broken = true ∨ y.writing.isSome = true ∨ (b.part p).frames < (b.image p).share ∨
      (b.part p).deadPage.isSome = true ∨ (!b.wantsPage p) = true) := by
  rw [h.runs, h.whole, h.idle, h.noDead, h.wants]
  have hfull : ¬(b.part p).frames < (b.image p).share := Nat.not_lt.mpr h.full
  simp [hfull]

theorem Block.pageOut_full (h : b.PagesOut p y q) (hnum : y.recs ≤ y.nextRec) : b.pageOut p errs = b := by
  simp only [Block.pageOut, h.spill]
  exact (if_neg h.no_guard).trans (if_pos hnum)

/-- The bytes of a page as its record carries them. -/
def Block.pageBytes (b : Block) (p : PartId) (q : Page) : List Byte :=
  ((b.tmem p q.tensor).pageWords q.copy q.page).flatMap (fun w => leBytes 4 w.toNat)

theorem Block.pageOut_writes (h : b.PagesOut p y q) (hnum : y.nextRec < y.recs) :
    b.pageOut p [] = (b.setPart p { b.part p with
      outSeq := (b.part p).outSeq + 1
      spill := some { y with
        writing := some ({ q with spilled := some y.nextRec }, spillHdr p q ((b.part p).outSeq + 1) (b.pageBytes p q)) } }).hostWrite
      y.port y.vf (y.addr + 16448 * y.nextRec) (spillHdr p q ((b.part p).outSeq + 1) (b.pageBytes p q) ++ b.pageBytes p q) true := by
  simp only [Block.pageOut, h.spill]
  refine ((if_neg h.no_guard).trans (if_neg (Nat.not_le.mpr hnum))).trans ?_
  simp only [h.victim, Block.demand_nil, List.foldl_nil]
  rfl

/-! ### Read-back -/

section
variable {h : List Byte} {num : Nat}

theorem Block.pageOutReadback_differs {rd : HostRead} (hs : (b.part p).spill = some y) (hw : y.writing = some (q, h)) (hne : rd ≠ .ok h) :
    b.pageOutReadback p rd errs =
      (b.setPart p { b.part p with spill := some { y with writing := none, broken := true } }).logPart 0x0320 p [q.tensor, 16 * q.page] := by
  simp only [Block.pageOutReadback, hs, hw, if_pos hne]

/-- The page that left is still in its frame as it was written. -/
def Part.unchanged (x : Part) (q : Page) : Bool :=
  x.pages.any (fun z => z.is q.tensor q.copy q.page && z.spilled.isNone && z.live && z.used == q.used)

theorem Block.pageOutReadback_changed (hs : (b.part p).spill = some y) (hw : y.writing = some (q, h))
    (hsame : (b.part p).unchanged q = false) :
    b.pageOutReadback p (.ok h) errs =
      b.setPart p { b.part p with spill := some { y with writing := none }, pageOut := wrapAdd (b.part p).pageOut 1 } := by
  simp only [Block.pageOutReadback, hs, hw, ne_eq, not_true, if_false]
  refine if_pos ?_
  exact (Bool.not_eq_true' _).mpr hsame

theorem Block.pageOutReadback_leaves (hs : (b.part p).spill = some y) (hw : y.writing = some (q, h)) (hq : q.spilled = some num)
    (hsame : (b.part p).unchanged q = true) :
    b.pageOutReadback p (.ok h) errs = (b.setPart p { b.part p with
      pageOut := wrapAdd (b.part p).pageOut 1
      pages := (b.part p).pages.map (fun z => if z.is q.tensor q.copy q.page then { z with spilled := some num } else z)
      spill := some { y with writing := none
                             kept := y.kept ++ [⟨num, h, (((b.tmem p q.tensor).poison q.copy).drop (16 * q.page)).take 16⟩] } }).steepResume
      p errs := by
  simp only [Block.pageOutReadback, hs, hw, hq, Option.getD_some, ne_eq, not_true, if_false]
  refine if_neg ?_
  exact fun hn => Bool.false_ne_true (((Bool.not_eq_true' _).mp hn).symm.trans hsame)

end

/-! ### Page-in -/

theorem Block.pageIn_stopped {rd : HostRead} (h : b.kettle.stopped = true) : b.pageIn p rd errs = b := if_pos h

section
variable {x : Part}

theorem Block.pageIn_eq {rd : HostRead} (hrun : b.kettle.stopped = false) (hq : b.pageWant p = some q)
    (hx : (b.part p).makeRoom (b.image p).share = some x) :
    b.pageIn p rd errs = (if rd = .failed then ((b.setPart p x).pageData p q rd errs).hostReadFailed p
        (match x.spill with | some y => y.port | none => 0) else (b.setPart p x).pageData p q rd errs).steepResume p errs := by
  simp only [Block.pageIn, hrun, Bool.false_eq_true, if_false, hq, hx] <;> rfl

end

/-- A queued page that is paged out is the next one to come in. -/
theorem Block.pageWant_head {k : PageKey} {ks : List PageKey} (hks : (b.part p).pageQ = k :: ks) (ha : (b.part p).away k = true) :
    b.pageWant p = (b.part p).pages.find? (fun q => q.is k.1 k.2.1 k.2.2 && q.spilled.isSome) := by
  obtain ⟨z, hz⟩ := Option.isSome_iff_exists.mp (List.find?_isSome.mpr (List.any_eq_true.mp ha))
  simp only [Block.pageWant, hks, List.findSome?_cons, hz]

end

/-- Settles O60: page-out, read-back and page-in by the branches of each, then what the pager's commands let go on. -/
theorem paging : Obligations.Paging := by
  intro p errs s b x i
  have run : ∀ {m n : Block}, m = n → s.act (fun _ => m) = .next (s.onBlock n) :=
    fun h => congrArg (fun n => Host.Outcome.next (s.onBlock n)) h
  have ops : ∀ {f : Block → Block} {n : Block}, f b = n → s.goOps p f = .next (s.wentOn p n) :=
    fun h => (s.goOps_eq p _).trans (congrArg (fun n => Host.Outcome.next (s.wentOn p n)) h)
  refine ⟨⟨_, rfl⟩, ?_, ?_, ?_, ?_, ?_⟩
  · intro y q hs hrun hbroken hidle hfull hdead hwants hq num data hdr
    have h : b.PagesOut p y q := ⟨hs, hrun, hbroken, hidle, hfull, hdead, hwants, hq⟩
    exact ⟨fun hnum => run (Block.pageOut_full h hnum), fun hnum => run (Block.pageOut_writes h hnum)⟩
  · exact fun h => ⟨run (Block.pageOut_stopped h), fun rd => ops (f := fun b => b.pageIn p rd errs) (Block.pageIn_stopped h)⟩
  · intro y q h num hs hw hq same
    exact ⟨fun rd hne => ops (f := fun b => b.pageOutReadback p rd errs) (Block.pageOutReadback_differs hs hw hne),
      fun hsame => ops (f := fun b => b.pageOutReadback p (.ok h) errs) (Block.pageOutReadback_changed hs hw hsame),
      fun hsame => ops (f := fun b => b.pageOutReadback p (.ok h) errs) (Block.pageOutReadback_leaves hs hw hq hsame)⟩
  · intro q x' hrun hq hx
    have resumed : ∀ {m n : Block}, m = n → m.steepResume p errs = n.steepResume p errs := fun h => congrArg (·.steepResume p errs) h
    exact ⟨fun bs => ops (f := fun b => b.pageIn p (.ok bs) errs) ((Block.pageIn_eq hrun hq hx).trans (resumed (if_neg nofun))),
      ops (f := fun b => b.pageIn p .failed errs) ((Block.pageIn_eq hrun hq hx).trans (resumed (if_pos rfl)))⟩
  · exact fun k ks hks ha => Block.pageWant_head hks ha

end Sys2Proof.Machine
end
